-- ==== Sys2Proof/Word.lean ====
section
/-!
DEFINITION. The word types of the GW-VZ4-ULN (R6, R7): a byte, a 32-bit word, a 64-bit value,
and their plainest readings.
-/
namespace Sys2Proof

/-- One byte of any memory space (R7). -/
abbrev Byte := BitVec 8

/-- An instruction word, a lane of a vector register, a scalar register (R27, R44). -/
abbrev Word := BitVec 32

/-- A 64-bit operand (R28). -/
abbrev Word64 := BitVec 64

/-- The 32-bit word whose unsigned value is `n` modulo 2^32. -/
def word (n : Nat) : Word := BitVec.ofNat 32 n

/-- The 64-bit value whose unsigned value is `n` modulo 2^64. -/
def word64 (n : Nat) : Word64 := BitVec.ofNat 64 n

end Sys2Proof
end

