-- ==== Sys2Proof/Config.lean ====
section
/-! DEFINITION. What an implementation fixes and the spec leaves open, and the free values: constants with no body, so that
no proof can rest on what they are. -/

namespace Sys2Proof.Config

/-- A free 32-bit value for each number taken (log 3). -/
opaque freeWord : Nat → BitVec 32

/-- A free byte for each number taken (log 3). -/
opaque freeByte : Nat → BitVec 8

/-- The Caldera bank group or HBM channel group, 0 to 13, through which a requester reaches a physical byte: memory type,
physical address, requester die, home die (R376 names the ports and not the addresses behind them; log 11). -/
opaque port : Nat → Nat → Nat → Nat → Nat

/-- What a read of a page-table entry returns at an HBM address where no memory is, from 2^40 (R2; log 7): a free value. -/
opaque absentEntry : Nat → BitVec 64

/-- Whether an image's signature verifies, and an attestation's signature (R403, R404; log 12); a signature is made with the
private key. -/
opaque signatureValid : List (BitVec 8) → List (BitVec 8) → Bool
opaque sign : BitVec 256 → List (BitVec 8) → List (BitVec 8)
opaque sm3 : List (BitVec 8) → List (BitVec 8)

/-- The private half of the attestation key that first boot generates, for each number taken, and the public half that goes with a
private one (R404; log 12). -/
opaque attestPrivate : Nat → BitVec 256
opaque attestPublic : BitVec 256 → BitVec 512

/-- What the body of a configuration image names: the quads retired, the banks remapped by stack and bank, and the vault units
of each die from die 0 on (R405, which gives no layout; log 53). -/
opaque retireList : List (BitVec 8) → List Nat
opaque remapList : List (BitVec 8) → List (Nat × Nat)
opaque carveOut : List (BitVec 8) → List Nat

/-- The step of a quad's Surveyor generator, and the number of samples its log holds (R393, R394: the spec gives neither;
log 18). -/
opaque surveyorStep : BitVec 32 → BitVec 32
opaque surveyorLog : Nat

end Sys2Proof.Config
end

