-- ==== Sys2Proof/Syntax.lean ====
section
/-! DEFINITION. The instructions and events of the GW-VZ4-ULN as syntax (R44, R47, R52, R53, R55, R58, R59 of
03_words_clauses_opcode_map.md): the operand and modifier fields, and `Instr`, with one constructor per row of the
opcode table.  An opcode row carries the fields of its words.  An event's constructor carries nothing: what chooses it
and what the outside world supplies stands in State as `EventArgs` (log 3, log 10). -/

namespace Sys2Proof

/-- The special sources of R48, in code order.  `lvl c` is the in-flight counter `c` in the order of R42. -/
inductive Special where
  | laneid | exm | mode | splitv | lastwct | lastwcth | grpid | imm
  | lvl (c : BitVec 3)
  | teamid | clusid | ngrp | ptime | ptimeh
  deriving DecidableEq, Repr

/-- A source byte (R47).  `latch k` names w(k+1); `reserved` is one of the codes 0x9D to 0x9F; `s` names a scalar
register, or a k register in a control thread (R309). -/
inductive Src where
  | v (n : BitVec 7)
  | latch (k : BitVec 3)
  | special (x : Special)
  | reserved (n : Fin 3)
  | const (n : BitVec 5)
  | s (n : BitVec 6)
  deriving DecidableEq, Repr

/-- The RND codes a word may hold (R52); code 7 is reserved and decodes to nothing. -/
inductive Rnd where
  | mode | rne | rtz | rup | rdn | rna | sr
  deriving DecidableEq, Repr

/-- The TY codes (R53), in code order. -/
inductive Ty where
  | dflt | f32 | f16 | bf16 | e4m3 | e5m2 | i8 | i16 | i32 | i64 | n8 | n16 | n32 | n64 | bf16x2 | f16x2
  deriving DecidableEq, Repr

/-- The SCOPE codes (R55); code 7 is reserved. -/
inductive Scope where
  | grp | team | cluster | die | package | shard | host
  deriving DecidableEq, Repr

/-- The WIDTH codes (R55); codes 6 and 7 are reserved. -/
inductive Width where
  | b32 | b8 | b16 | b64 | b128 | b256
  deriving DecidableEq, Repr

/-- The ORD codes (R55); code 3 is reserved. -/
inductive Ord where
  | weak | strong | byp
  deriving DecidableEq, Repr

/-- The fields of an instruction word below its opcode (R44). -/
structure Core where
  nowb : Bool
  dst : BitVec 7
  a : Src
  b : Src
  deriving DecidableEq, Repr

/-- The modifier word (R52); its reserved bits decode only as zero. -/
structure Mods where
  c : Src
  rnd : Rnd
  sat : Bool
  pred : BitVec 3
  pneg : Bool
  ty : Ty
  subop : BitVec 4
  deriving DecidableEq, Repr

/-- The descriptor word of the opcodes 0x90 to 0xBF (R55).  For `acopy`, TAG is bits [1:0] of `subop` and DIR is
bits [3:2]. -/
structure Desc where
  c : Src
  e : Src
  pred : BitVec 3
  pneg : Bool
  scope : Scope
  width : Width
  ord : Ord
  subop : BitVec 4
  deriving DecidableEq, Repr

/-- A form with no second word but an immediate (R60). -/
structure Short where
  w : Core
  imm : Option Word
  deriving DecidableEq, Repr

/-- A form with a modifier word (R60). -/
structure Long where
  w : Core
  m : Mods
  imm : Option Word
  deriving DecidableEq, Repr

/-- A form with the descriptor word of R55. -/
structure Mem where
  w : Core
  d : Desc
  imm : Option Word
  deriving DecidableEq, Repr

/-- A form with a descriptor word of R56, whose layout is the opcode's own. -/
structure Eng where
  w : Core
  d : Word
  imm : Option Word
  deriving DecidableEq, Repr

/-- The all-zero modifier word: what a short form behaves as (R58). -/
def Mods.zero : Mods :=
  { c := .v 0, rnd := .mode, sat := false, pred := 0, pneg := false, ty := .dflt, subop := 0 }

/-- The long form with an all-zero modifier that a short form behaves as (R58). -/
def Short.toLong (x : Short) : Long := { w := x.w, m := Mods.zero, imm := x.imm }

/-- The answers of a member to a stripe request (R265, R292). -/
inductive ReplyKind where
  | stripes | notMember | notPresent | poisoned
  deriving DecidableEq, Repr

/-- Where an uncorrectable error was found (R391). -/
inductive ErrorSite where
  /-- A group's register file, latch window or split table. -/
  | regs (uid : Nat)
  /-- A line of HBM or Caldera. -/
  | memory (line : Nat)
  /-- A scratchpad byte that a context reads. -/
  | scratch (uid off : Nat)
  /-- A frame row, by its team and write age. -/
  | frameRow (team age : Nat)
  /-- An operand-buffer range or accumulator tile that a context reads. -/
  | array (uid off : Nat)
  /-- A translation entry read by the walk of a context's access. -/
  | translation (uid addr : Nat)
  /-- The Atlas entry or page-agent state of a page. -/
  | atlas (fn page : Nat)
  deriving DecidableEq, Repr

/-- A firmware image the root of trust measures at power-on (R403): its slot, its version and the facts about its
signature and hash that the host's flash supplies. -/
structure FirmwareImage where
  slot : Nat
  version : Nat
  body : List Byte
  sig : List Byte
  deriving DecidableEq, Repr

/-- A device register (R279, R336, R366, R370, R376, R399 to R401): `block` is 0 the package block, 1 the block of partition
`index`, 2 and 3 the translation and event blocks of function `index`, 4 queue `index`, 5 CONNMAT of slice `index`
(8 × die + slice), 6 the stage-2 request ring that the physical function holds for function `index`, 7 the read-only windows, 8
CCARVE of die `index` (R386). -/
structure DeviceReg where
  block : Nat
  index : Nat
  offset : Nat
  deriving DecidableEq, Repr

/-- What chooses an event and what the outside world supplies with it (log 3, log 10).  Each event's meaning says
which fields it reads; the turn list gives one of these with every event. -/
structure EventArgs where
  /-- The first subject: a group, an operation, a team, a function, a queue, a die or a member. -/
  x : Nat := 0
  /-- The second subject: a lane, a point, a quad or an address. -/
  y : Nat := 0
  /-- The third subject. -/
  z : Nat := 0
  /-- The outcome the outside world reports. -/
  ok : Bool := false
  value : Word64 := 0
  value2 : Word64 := 0
  nats : List Nat := []
  bytes : List Byte := []
  stripes : List (Nat × List Byte) := []
  reply : ReplyKind := .notMember
  site : ErrorSite := .memory 0
  images : List FirmwareImage := []
  reg : DeviceReg := ⟨0, 0, 0⟩
  deriving DecidableEq, Repr

/-- The instructions and events: one constructor per row of the opcode table. -/
inductive Instr where
  /-- `IADD` (R97): Short form: adds A and B per enabled lane, wrapping modulo 2^32. -/
  | iadd (x : Short)
  /-- `IADD_LONG` (R97): Long form of iadd with a modifier word: SAT, PRED and TY. -/
  | iaddLong (x : Long)
  /-- `ISUB` (R97): Short form: subtracts B from A per enabled lane. -/
  | isub (x : Short)
  /-- `ISUB_LONG` (R97): Long form of isub with a modifier word. -/
  | isubLong (x : Long)
  /-- `IMUL` (R97): Short form: low 32 bits of A times B. -/
  | imul (x : Short)
  /-- `IMUL_LONG` (R97): Long form of imul with a modifier word. -/
  | imulLong (x : Long)
  /-- `IMULH` (R97): Short form: high 32 bits of A times B. -/
  | imulh (x : Short)
  /-- `IMULH_LONG` (R97): Long form of imulh with a modifier word. -/
  | imulhLong (x : Long)
  /-- `IMAD` (R97): Computes A times B plus C per lane, with optional saturation. -/
  | imad (x : Long)
  /-- `IMIN` (R97): Short form: integer minimum of A and B. -/
  | imin (x : Short)
  /-- `IMIN_LONG` (R97): Long form of imin with a modifier word. -/
  | iminLong (x : Long)
  /-- `IMAX` (R97): Short form: integer maximum of A and B. -/
  | imax (x : Short)
  /-- `IMAX_LONG` (R97): Long form of imax with a modifier word. -/
  | imaxLong (x : Long)
  /-- `IABS` (R97): Short form: absolute value of A. -/
  | iabs (x : Short)
  /-- `IABS_LONG` (R97): Long form of iabs with a modifier word. -/
  | iabsLong (x : Long)
  /-- `INEG` (R97): Short form: negation of A. -/
  | ineg (x : Short)
  /-- `INEG_LONG` (R97): Long form of ineg with a modifier word. -/
  | inegLong (x : Long)
  /-- `AND` (R98): Short form: bitwise A AND B. -/
  | and (x : Short)
  /-- `AND_LONG` (R98): Long form of and with a modifier word. -/
  | andLong (x : Long)
  /-- `OR` (R98): Short form: bitwise A OR B. -/
  | or (x : Short)
  /-- `OR_LONG` (R98): Long form of or with a modifier word. -/
  | orLong (x : Long)
  /-- `XOR` (R98): Short form: bitwise A XOR B. -/
  | xor (x : Short)
  /-- `XOR_LONG` (R98): Long form of xor with a modifier word. -/
  | xorLong (x : Long)
  /-- `NOT` (R98): Short form: bitwise complement of A. -/
  | not (x : Short)
  /-- `NOT_LONG` (R98): Long form of not with a modifier word. -/
  | notLong (x : Long)
  /-- `SHL` (R98): Short form: shifts A left by B[7:0]. -/
  | shl (x : Short)
  /-- `SHL_LONG` (R98): Long form of shl with a modifier word. -/
  | shlLong (x : Long)
  /-- `SHR` (R98): Short form: logical right shift of A. -/
  | shr (x : Short)
  /-- `SHR_LONG` (R98): Long form of shr with a modifier word. -/
  | shrLong (x : Long)
  /-- `SAR` (R98): Short form: arithmetic right shift of A. -/
  | sar (x : Short)
  /-- `SAR_LONG` (R98): Long form of sar with a modifier word. -/
  | sarLong (x : Long)
  /-- `ROTL` (R98): Short form: rotates A left by B[4:0]. -/
  | rotl (x : Short)
  /-- `ROTL_LONG` (R98): Long form of rotl with a modifier word. -/
  | rotlLong (x : Long)
  /-- `BFE` (R99): Extracts a bit field of A, zero- or sign-extended. -/
  | bfe (x : Long)
  /-- `BFI` (R99): Inserts B into A at the position and length packed in C. -/
  | bfi (x : Long)
  /-- `POPC` (R98): Short form: counts the 1 bits of A. -/
  | popc (x : Short)
  /-- `POPC_LONG` (R98): Long form of popc with a modifier word. -/
  | popcLong (x : Long)
  /-- `CLZ` (R98): Short form: counts the leading zeros of A. -/
  | clz (x : Short)
  /-- `CLZ_LONG` (R98): Long form of clz with a modifier word. -/
  | clzLong (x : Long)
  /-- `BREV` (R98): Short form: reverses the bits of A. -/
  | brev (x : Short)
  /-- `BREV_LONG` (R98): Long form of brev with a modifier word. -/
  | brevLong (x : Long)
  /-- `ICMP` (R100): Compares integers A and B and writes a predicate. -/
  | icmp (x : Long)
  /-- `SEL` (R101): Selects A or B per lane by a predicate. -/
  | sel (x : Long)
  /-- `MOV` (R102): Short form: copies A to D bit for bit. -/
  | mov (x : Short)
  /-- `MOV_LONG` (R102): Long form of mov, including 64-bit moves. -/
  | movLong (x : Long)
  /-- `SMOV` (R103): Short form: group-uniform scalar write of A. -/
  | smov (x : Short)
  /-- `SMOV_LONG` (R103): Long form of smov: scalar operation selected by SUBOP. -/
  | smovLong (x : Long)
  /-- `LADD` (R104): Short form: adds an extended B to a 64-bit address A. -/
  | ladd (x : Short)
  /-- `LADD_LONG` (R104): Long form of ladd with a modifier word. -/
  | laddLong (x : Long)
  /-- `LSUB` (R104): Short form: subtracts an extended B from a 64-bit address A. -/
  | lsub (x : Short)
  /-- `LSUB_LONG` (R104): Long form of lsub with a modifier word. -/
  | lsubLong (x : Long)
  /-- `LMAD` (R104): Adds B times C to a 64-bit address A. -/
  | lmad (x : Long)
  /-- `DP4` (R105): Four-element 8-bit dot product accumulated into C. -/
  | dp4 (x : Long)
  /-- `DP2` (R105): Two-element 16-bit dot product accumulated into C. -/
  | dp2 (x : Long)
  /-- `FADD` (R106): Short form: floating addition. -/
  | fadd (x : Short)
  /-- `FADD_LONG` (R106): Long form of fadd with rounding, type and predicate. -/
  | faddLong (x : Long)
  /-- `FSUB` (R106): Short form: floating subtraction. -/
  | fsub (x : Short)
  /-- `FSUB_LONG` (R106): Long form of fsub. -/
  | fsubLong (x : Long)
  /-- `FMUL` (R106): Short form: floating multiplication. -/
  | fmul (x : Short)
  /-- `FMUL_LONG` (R106): Long form of fmul. -/
  | fmulLong (x : Long)
  /-- `FFMA` (R106): Fused multiply-add with a single rounding. -/
  | ffma (x : Long)
  /-- `FMIN` (R107): Short form: floating minimum. -/
  | fmin (x : Short)
  /-- `FMIN_LONG` (R107): Long form of fmin with a NaN policy SUBOP. -/
  | fminLong (x : Long)
  /-- `FMAX` (R107): Short form: floating maximum. -/
  | fmax (x : Short)
  /-- `FMAX_LONG` (R107): Long form of fmax. -/
  | fmaxLong (x : Long)
  /-- `FABS` (R108): Short form: clears the sign bit. -/
  | fabs (x : Short)
  /-- `FABS_LONG` (R108): Long form of fabs. -/
  | fabsLong (x : Long)
  /-- `FNEG` (R108): Short form: inverts the sign bit. -/
  | fneg (x : Short)
  /-- `FNEG_LONG` (R108): Long form of fneg. -/
  | fnegLong (x : Long)
  /-- `FCMP` (R109): Floating compare writing a predicate. -/
  | fcmp (x : Long)
  /-- `FCLASS` (R110): Short form: writes a one-hot class mask of A. -/
  | fclass (x : Short)
  /-- `FCLASS_LONG` (R110): Long form of fclass. -/
  | fclassLong (x : Long)
  /-- `CVT` (R114): Converts A from the SUBOP format to the TY format. -/
  | cvt (x : Long)
  /-- `PACK` (R115): Rounds or narrows A and B and packs them into D. -/
  | pack (x : Long)
  /-- `UNPK` (R116): Decodes one element of A to FP32 or I32. -/
  | unpk (x : Long)
  /-- `FRCP` (R112): Short form: correctly rounded reciprocal. -/
  | frcp (x : Short)
  /-- `FRCP_LONG` (R112): Long form of frcp. -/
  | frcpLong (x : Long)
  /-- `FRSQ` (R112): Short form: reciprocal square root. -/
  | frsq (x : Short)
  /-- `FRSQ_LONG` (R112): Long form of frsq. -/
  | frsqLong (x : Long)
  /-- `FSQRT` (R111): Short form: correctly rounded square root. -/
  | fsqrt (x : Short)
  /-- `FSQRT_LONG` (R111): Long form of fsqrt. -/
  | fsqrtLong (x : Long)
  /-- `FDIV` (R111): Short form: correctly rounded division. -/
  | fdiv (x : Short)
  /-- `FDIV_LONG` (R111): Long form of fdiv. -/
  | fdivLong (x : Long)
  /-- `FEXP2` (R112): Short form: 2 to the power of A. -/
  | fexp2 (x : Short)
  /-- `FEXP2_LONG` (R112): Long form of fexp2. -/
  | fexp2Long (x : Long)
  /-- `FLOG2` (R112): Short form: base-2 logarithm of A. -/
  | flog2 (x : Short)
  /-- `FLOG2_LONG` (R112): Long form of flog2. -/
  | flog2Long (x : Long)
  /-- `FSIN` (R112): Short form: sine of A. -/
  | fsin (x : Short)
  /-- `FSIN_LONG` (R112): Long form of fsin. -/
  | fsinLong (x : Long)
  /-- `FCOS` (R112): Short form: cosine of A. -/
  | fcos (x : Short)
  /-- `FCOS_LONG` (R112): Long form of fcos. -/
  | fcosLong (x : Long)
  /-- `FTANH` (R112): Short form: hyperbolic tangent of A. -/
  | ftanh (x : Short)
  /-- `FTANH_LONG` (R112): Long form of ftanh. -/
  | ftanhLong (x : Long)
  /-- `FDOT2` (R113): Two-element 16-bit float dot product plus C, rounded once. -/
  | fdot2 (x : Long)
  /-- `FRINT` (R111): Short form: rounds A to an integral value. -/
  | frint (x : Short)
  /-- `FRINT_LONG` (R111): Long form of frint. -/
  | frintLong (x : Long)
  /-- `FSCALE` (R111): Short form: A times 2 to the power of B. -/
  | fscale (x : Short)
  /-- `FSCALE_LONG` (R111): Long form of fscale. -/
  | fscaleLong (x : Long)
  /-- `FSGN` (R108): Short form: copies B's sign onto A. -/
  | fsgn (x : Short)
  /-- `FSGN_LONG` (R108): Long form of fsgn with a sign-operation SUBOP. -/
  | fsgnLong (x : Long)
  /-- `VOTE` (R118): Votes a condition across enabled lanes into a predicate. -/
  | vote (x : Long)
  /-- `BALLOT` (R119): Short form: writes the contributing lanes' nonzero mask to a scalar. -/
  | ballot (x : Short)
  /-- `BALLOT_LONG` (R119): Long form of ballot with a predicate. -/
  | ballotLong (x : Long)
  /-- `BCAST` (R120): Short form: broadcasts A of lane B to enabled lanes. -/
  | bcast (x : Short)
  /-- `BCAST_LONG` (R120): Long form of bcast. -/
  | bcastLong (x : Long)
  /-- `SHFL` (R121): Short form: shuffles A between lanes. -/
  | shfl (x : Short)
  /-- `SHFL_LONG` (R121): Long form of shfl with a shuffle SUBOP. -/
  | shflLong (x : Long)
  /-- `RADD` (R122): Short form: sums A over contributing lanes into a scalar. -/
  | radd (x : Short)
  /-- `RADD_LONG` (R122): Long form of radd with type, rounding and saturation. -/
  | raddLong (x : Long)
  /-- `REXT` (R123): Cross-lane min, max, bitwise, first or lane reduction into a scalar. -/
  | rext (x : Long)
  /-- `SCAN` (R124): Prefix sum, max, min or bitwise scan over enabled lanes. -/
  | scan (x : Long)
  /-- `NBR` (R125): Reads a register of the left or right neighbour lane along the cluster chain. -/
  | nbr (x : Long)
  /-- `LD` (R139): Lane-wise global load; may fault, start a gather or leave frames. -/
  | ld (x : Mem)
  /-- `ST` (R139): Lane-wise global store. -/
  | st (x : Mem)
  /-- `LDS` (R139): Lane-wise scratchpad load. -/
  | lds (x : Mem)
  /-- `STS` (R139): Lane-wise scratchpad store. -/
  | sts (x : Mem)
  /-- `LDV` (R139): Lane-wise vault load through the fixed vault mapping. -/
  | ldv (x : Mem)
  /-- `STV` (R139): Lane-wise vault store. -/
  | stv (x : Mem)
  /-- `PREF` (R144): Prefetches lines into L1 or Caldera, or starts gathers, with no fault. -/
  | pref (x : Mem)
  /-- `ACOPY` (R147): Starts a 32-byte asynchronous copy per enabled lane on a copy tag. -/
  | acopy (x : Mem)
  /-- `LDSC` (R139): Group-uniform load into a scalar register. -/
  | ldsc (x : Mem)
  /-- `OBST` (R145): Stores a data span into an operand-buffer range. -/
  | obst (x : Mem)
  /-- `OBLD` (R145): Loads a span from an operand-buffer range. -/
  | obld (x : Mem)
  /-- `ATOM` (R244): Integer atomic at home returning the old value. -/
  | atom (x : Mem)
  /-- `ARED` (R244): Integer atomic at home discarding the old value. -/
  | ared (x : Mem)
  /-- `AFADD` (R245): Float atomic returning the old word. -/
  | afadd (x : Mem)
  /-- `AFRED` (R245): Float atomic discarding the old word. -/
  | afred (x : Mem)
  /-- `ABIN` (R246): Adds a contribution to a binned value at home. -/
  | abin (x : Mem)
  /-- `CAS` (R247): 32-bit compare and swap. -/
  | cas (x : Mem)
  /-- `CAS64` (R247): 64-bit compare and swap. -/
  | cas64 (x : Mem)
  /-- `CAS128` (R247): 128-bit compare and swap. -/
  | cas128 (x : Mem)
  /-- `MWAIT` (R252): Arms a condition monitor per enabled lane. -/
  | mwait (x : Mem)
  /-- `MCLR` (R253): Disarms the pending monitor of each enabled lane. -/
  | mclr (x : Mem)
  /-- `FENCE` (R257): Release, acquire or both at a scope. -/
  | fence (x : Mem)
  /-- `SFENCE` (R258): Waits for stores and copies and advances the scratchpad generation. -/
  | sfence (x : Mem)
  /-- `JMP` (R128): Unconditional jump of the issuing fragment. -/
  | jmp (x : Short)
  /-- `BRA` (R129): Conditional branch that moves the whole fragment. -/
  | bra (x : Long)
  /-- `BDIV` (R130): Divergent branch that may split the fragment and record a join. -/
  | bdiv (x : Long)
  /-- `CALL` (R131): Writes the return address to a scalar pair and jumps. -/
  | call (x : Short)
  /-- `RET` (R131): Jumps to the address held in a scalar pair. -/
  | ret (x : Short)
  /-- `EXIT` (R132): Removes every member of the issuing fragment from the group. -/
  | exit (x : Short)
  /-- `WEXM` (R133): Writes EXM, masked by the member mask. -/
  | wexm (x : Short)
  /-- `RDIDX` (R134): Reads a vector register indexed per lane. -/
  | rdidx (x : Short)
  /-- `WRIDX` (R134): Writes a vector register indexed per lane. -/
  | wridx (x : Short)
  /-- `WAITC` (R137): Issues once the named counter is at or below the threshold; may report copy errors. -/
  | waitc (x : Short)
  /-- `WMODE` (R134): Writes MODE. -/
  | wmode (x : Short)
  /-- `RACQ` (R199): Acquires extra register blocks, waiting for units. -/
  | racq (x : Short)
  /-- `RREL` (R199): Releases register blocks. -/
  | rrel (x : Short)
  /-- `NOP` (R133): Does nothing. -/
  | nop (x : Short)
  /-- `SUSP` (R203): Writes active lanes as rows of the point's frame tile and removes them from the group. -/
  | susp (x : Short)
  /-- `FWAKE` (R209): Wakes the oldest sleeping rows of a point. -/
  | fwake (x : Short)
  /-- `FXFORM` (R208): Applies an operation to one column of every sleeping row of a point. -/
  | fxform (x : Long)
  /-- `FTHR` (R209): Sets the resume threshold of a point. -/
  | fthr (x : Short)
  /-- `FFLUSH` (R209): Makes a load of a point due now if a row is woken. -/
  | fflush (x : Short)
  /-- `BAR` (R212): Team barrier wait. -/
  | bar (x : Short)
  /-- `ARRIVE` (R213): Arrives on a barrier object after ST drains and returns the phase. -/
  | arrive (x : Short)
  /-- `BWAIT` (R213): Waits until a barrier object's phase differs from a token. -/
  | bwait (x : Short)
  /-- `BINIT` (R213): Initialises a barrier object. -/
  | binit (x : Short)
  /-- `FSTAT` (R209): Returns the number of sleeping rows of a point. -/
  | fstat (x : Short)
  /-- `MRES` (R315): Reserves an operand-buffer or scratchpad range under a handle. -/
  | mres (x : Eng)
  /-- `MREL` (R316): Releases a handle, slot or accumulator tile. -/
  | mrel (x : Eng)
  /-- `MLDB` (R317): Starts loading a B tile from memory into a macro slot. -/
  | mldb (x : Eng)
  /-- `MPASS` (R322): Queues a matrix pass into an accumulator tile. -/
  | mpass (x : Eng)
  /-- `MDRAIN` (R323): Queues a drain of accumulator entries to scratchpad or a range. -/
  | mdrain (x : Eng)
  /-- `MPRED` (R321): Sets the row, column or term predicate. -/
  | mpred (x : Eng)
  /-- `MSIG` (R329): Reads a pass signature or a reservation record word. -/
  | msig (x : Eng)
  /-- `MFENCE` (R327): Waits for scratchpad drains and advances the scratchpad generation. -/
  | mfence (x : Eng)
  /-- `BOARD` (R342): Asks the stop to capture tiles of a layer from a ring into macro slots. -/
  | board (x : Eng)
  /-- `UNBOARD` (R347): Retires all unretired boards of the thread on a ring. -/
  | unboard (x : Eng)
  /-- `ITIN` (R348): Sets the partition's itinerary and rate on a ring. -/
  | itin (x : Eng)
  /-- `LAPQ` (R349): Returns lap and layer status of a ring at the stop. -/
  | lapq (x : Eng)
  /-- `COLL` (R352): Loads, stores or starts a collective descriptor. -/
  | coll (x : Eng)
  /-- `GMEMB` (R358): Reads or changes shard-group membership through a record. -/
  | gmemb (x : Eng)
  /-- `LAUNCH` (R374): Creates a child TCB from a launch packet. -/
  | launch (x : Eng)
  /-- `TRAP` (R156): Raises trap 0x10 with its immediate. -/
  | trap (x : Short)
  /-- `TRET` (R154): Returns from a trap handler. -/
  | tret (x : Short)
  /-- `RDSYS` (R158): Reads a system register. -/
  | rdsys (x : Short)
  /-- `WRSYS` (R158): Writes a system register. -/
  | wrsys (x : Short)
  /-- `BRK` (R156): Halts for the debugger or raises a breakpoint trap. -/
  | brk (x : Short)
  /-- `SVC` (R156): Service call entering SVEC at supervisor level. -/
  | svc (x : Short)
  /-- `ILL` (R60): Always raises an illegal-instruction trap. -/
  | ill (x : Short)
  /-- `UNASSIGNED_OPCODE` (R62): An instruction word whose opcode is unassigned issues and raises an illegal-instruction trap. -/
  | unassignedOpcode (w : Word)
  /-- `CLAUSE_FETCH` (R61): Fetches a clause header and makes the clause checks. -/
  | clauseFetch
  /-- `CLAUSE_WAIT_PASS` (R42): A clause's first instruction issues once its WAIT counters read zero. -/
  | clauseWaitPass
  /-- `GROUP_SLOT_FREE` (R132): An ended group's slot is freed once all its counters read zero. -/
  | groupSlotFree
  /-- `DEBUG_RESUME` (R156): A group halted by brk resumes as tret would. -/
  | debugResume
  /-- `HOME_LOAD_PERFORM` (R230): The home slice performs a load and grants a lease for a weak load. -/
  | homeLoadPerform
  /-- `LOAD_REPLY` (R229): A load reply returns and may install a leased line. -/
  | loadReply
  /-- `HOME_STORE_PERFORM` (R231): The home performs a store, computes its WCT and fires monitors. -/
  | homeStorePerform
  /-- `STORE_WCT_REPLY` (R231): A store's WCT returns to the issuing core. -/
  | storeWctReply
  /-- `OPERATION_RETIRE` (R136): A counted operation retires in order, writing results and lowering its counter. -/
  | operationRetire
  /-- `PAGE_RECLASSIFY` (R226): A second agent's access makes a Private page Shared after write-back. -/
  | pageReclassify
  /-- `COPY_LANE_TRANSFER` (R148): The copy engine moves one lane's 32 bytes or abandons it. -/
  | copyLaneTransfer
  /-- `HOME_ATOMIC_PERFORM` (R243): The home performs an atomic read-modify-write. -/
  | homeAtomicPerform
  /-- `ATOMIC_REPLY` (R249): An atomic's old value and WCT return, split among merged parts. -/
  | atomicReply
  /-- `HOST_READ_COMPLETION` (R239): A read over the host link completes. -/
  | hostReadCompletion
  /-- `HOST_ATOMIC_COMPLETION` (R260): A host AtomicOp completes and ends or repeats the CAS loop. -/
  | hostAtomicCompletion
  /-- `MONITOR_REGISTER` (R253): An arm is registered at home and evaluated. -/
  | monitorRegister
  /-- `WAKE_RECORD` (R254): A wake arrives at the core, sets WOKE or marks the monitor fired, and is acknowledged. -/
  | wakeRecord
  /-- `WAKE_ACK` (R255): A wake acknowledgement reaches home, which returns the WCT when all have arrived. -/
  | wakeAck
  /-- `HOME_MIGRATION_PASS` (R238): The migration engine copies changed lines to the new home. -/
  | homeMigrationPass
  /-- `HOME_MIGRATION_SWITCH` (R238): The final blocked pass switches the page to its new home. -/
  | homeMigrationSwitch
  /-- `REGISTER_DEADLOCK` (R200): After 2,048 cycles of all groups in racq, the youngest is flashed back. -/
  | registerDeadlock
  /-- `RACQ_GRANT` (R199): A waiting racq takes its units once enough are free. -/
  | racqGrant
  /-- `ROW_RETURN` (R207): The oldest woken row held outside the tile moves into a free row. -/
  | rowReturn
  /-- `FLUSH_TIMEOUT` (R205): The flush timeout of the oldest woken row expires and a load becomes due. -/
  | flushTimeout
  /-- `TILE_LOAD` (R205): Woken rows are loaded as a fresh group once resources are free. -/
  | tileLoad
  /-- `CHECKPOINT_LOAD` (R206): Woken point-0 rows are loaded from checkpoint slots into their launch grpid. -/
  | checkpointLoad
  /-- `TRANSLATION_WALK` (R271): A walker translates an address, setting A and D and raising faults. -/
  | translationWalk
  /-- `PAGE_REQUEST_WRITE` (R283): A page-request record is written to the ring and event 2 raised. -/
  | pageRequestWrite
  /-- `INVAL` (R296): Command: invalidates cached translations of pages. -/
  | cmdInval
  /-- `SHARD` (R411): Command: moves a Local page to Sharded and fills its Atlas entry. -/
  | cmdShard
  /-- `DROP` (R290): Command: moves a Gathered page back to Sharded. -/
  | cmdDrop
  /-- `PARTIAL` (R411): Command: moves a Local page to Partial. -/
  | cmdPartial
  /-- `EVICT` (R293): Command: moves a Partial page to Reducing and sends its stripes. -/
  | cmdEvict
  /-- `LOCAL` (R290): Command: returns a group page to Local. -/
  | cmdLocal
  /-- `PREPLY` (R283): Command: answers a page request, waking its frames. -/
  | cmdPreply
  /-- `STRIPE_REQUEST` (R292): A member receives a stripe request and replies, defers or refuses. -/
  | stripeRequest
  /-- `STRIPE_REQUEST_RESEND` (R265): After a busy reply, the requester resends after 1 µs. -/
  | stripeRequestResend
  /-- `STRIPE_REPLY` (R264): A reply's stripes are written; the last makes the page Gathered and wakes frames. -/
  | stripeReply
  /-- `REPLAY_GROUP_LOAD` (R264): Woken frames are loaded as a replay group that reissues the faulting instruction. -/
  | replayGroupLoad
  /-- `PEER_SLOW` (R265): A gather waits past the group timeout and raises peer-slow. -/
  | peerSlow
  /-- `HEARTBEAT` (R294): The group agent sends a heartbeat every 100 µs. -/
  | heartbeat
  /-- `MEMBER_SILENCE_TIMEOUT` (R294): A member silent for TIMEOUT is proposed out or dropped from a round. -/
  | memberSilenceTimeout
  /-- `AGREEMENT_PROPOSAL` (R294): A member receives a version proposal and accepts the first one. -/
  | agreementProposal
  /-- `AGREEMENT_ACCEPT` (R294): An acceptance arrives; when all have accepted the version commits. -/
  | agreementAccept
  /-- `REDUCE_STRIPE_ARRIVAL` (R361): An evicted stripe reaches its owner and is added, deferred or discarded. -/
  | reduceStripeArrival
  /-- `REDUCE_ACKNOWLEDGEMENT` (R293): An owner's acknowledgement clears PEND and may complete the reduction. -/
  | reduceAcknowledgement
  /-- `MLDB_FILL_COMPLETE` (R317): A slot fill finishes, or fails and records a load error. -/
  | mldbFillComplete
  /-- `ARRAY_GRANT` (R325): The arbiter grants one ready pass or drain head. -/
  | arrayGrant
  /-- `MPASS_COMPLETE` (R322): The array performs a pass into an accumulator tile. -/
  | mpassComplete
  /-- `MDRAIN_COMPLETE` (R323): The array writes drained entries. -/
  | mdrainComplete
  /-- `TEAM_RETIRE` (R331): An ended team's holdings are released once MX reads 0 and fills end. -/
  | teamRetire
  /-- `LAP_BOUNDARY` (R335): The ring controller chooses the partition for the next lap. -/
  | lapBoundary
  /-- `TILE_EMIT` (R340): A ring head checks pages and emits a tile with its REASON. -/
  | tileEmit
  /-- `BOARD_REACH_STOP` (R343): A board reaches the stop and picks its first attempted lap. -/
  | boardReachStop
  /-- `TILE_SIGHTING` (R344): A stop sees a tile and captures, retries or fails it. -/
  | tileSighting
  /-- `RING_RATE_SLOW` (R346): A full capture buffer doubles the ring's effective denominator. -/
  | ringRateSlow
  /-- `SWITCH_SLOT_REQUEST` (R355): The root switch allocates reduction slots or falls back to the links. -/
  | switchSlotRequest
  /-- `COLLECTIVE_DATA_ARRIVAL` (R354): A member's collective data arrives and is reduced or placed. -/
  | collectiveDataArrival
  /-- `COLLECTIVE_COMPLETE` (R356): A collective completes: STATUS written and NET retired. -/
  | collectiveComplete
  /-- `COLLECTIVE_ARRIVE` (R356): After package time passes its WCTs, the engine arrives on the object. -/
  | collectiveArrive
  /-- `QSUB` (R370): Register write submitting a supervisor TCB to a queue. -/
  | qsub
  /-- `CLUSTER_PLACE` (R372): The dispatcher chooses a queue and places one cluster. -/
  | clusterPlace
  /-- `GRID_END` (R372): A grid ends once clusters end and its WCTs pass; successors are decremented. -/
  | gridEnd
  /-- `QUANTUM_EXPIRY` (R377): The resident partition's quantum ends and a halt begins. -/
  | quantumExpiry
  /-- `PARTITION_HALTED` (R378): All cores have halted; overrun debt is charged. -/
  | partitionHalted
  /-- `SWAP_OUT` (R379): The partition's context is written to shadow storage. -/
  | swapOut
  /-- `SWAP_IN` (R380): A partition's context is restored, versions applied and deferred requests served. -/
  | swapIn
  /-- `WATCHDOG_EXPIRY` (R381): At h + 1,000 µs, still-resident teams are killed. -/
  | watchdogExpiry
  /-- `SLICE_LEND` (R382): Firmware lends a slice left empty for 10 µs. -/
  | sliceLend
  /-- `SLICE_RECALL` (R383): Firmware recalls a lent slice; borrower clusters flash back. -/
  | sliceRecall
  /-- `RECALL_RETURN` (R383): Borrower context has moved and the slice returns to the lender. -/
  | recallReturn
  /-- `CCARVE_WRITE` (R386): A CCARVE write starts or refuses a vault carve-out change. -/
  | ccarveWrite
  /-- `CARVE_COMPLETE` (R386): A carve-out change finishes and CUR is updated. -/
  | carveComplete
  /-- `FWMBOX_SET_PARTITION` (R406): Mailbox op 1: sets slices, quantum, owner and vault of a partition. -/
  | fwmboxSetPartition
  /-- `FWMBOX_BIND_FUNCTION` (R406): Mailbox op 2: binds a function to a partition. -/
  | fwmboxBindFunction
  /-- `FWMBOX_RECALL` (R406): Mailbox op 3: recalls a lent slice. -/
  | fwmboxRecall
  /-- `FWMBOX_CARVE` (R406): Mailbox op 4: writes CCARVE. -/
  | fwmboxCarve
  /-- `FWMBOX_REMAP` (R406): Mailbox op 5: remaps the HBM pages of a bank. -/
  | fwmboxRemap
  /-- `CORRECTED_DRAM_ERROR` (R388): A corrected DRAM error is filtered, logged and counted. -/
  | correctedDramError
  /-- `ERROR_FILTER_CLEAR` (R388): Firmware clears the corrected-error filter every 86,400 s. -/
  | errorFilterClear
  /-- `SRAM_CORRECTED_ERROR` (R390): An SRAM single-bit error is corrected and counted. -/
  | sramCorrectedError
  /-- `UNCORRECTABLE_ERROR` (R391): An uncorrectable error poisons, orphans or kills its consumer. -/
  | uncorrectableError
  /-- `SURVEYOR_REPLAY` (R395): A sample is replayed on another quad and compared. -/
  | surveyorReplay
  /-- `LINK_DOWN` (R402): A group link goes down and traffic moves to the others. -/
  | linkDown
  /-- `POWER_ON` (R403): The root verifies images and bring-up begins. -/
  | powerOn
  /-- `BRING_UP_COMPLETE` (R409): Bring-up finishes and function registers become readable. -/
  | bringUpComplete
  /-- `ATTESTATION_REQUEST` (R404): The root returns a signed attestation of the running images. -/
  | attestationRequest
  /-- `POWER_ARBITER_PERIOD` (R407): Every 10 µs the arbiter grants each die its power share. -/
  | powerArbiterPeriod
  /-- `THERMAL_THROTTLE` (R408): A die at 105 °C drops to 1.0 GHz and raises event 8. -/
  | thermalThrottle
  /-- `THERMAL_UNTHROTTLE` (R408): A die below 100 °C starts raising its clock. -/
  | thermalUnthrottle
  /-- `THERMAL_STOP` (R408): A die at 115 °C halts every partition. -/
  | thermalStop
  /-- `THERMAL_CLOCK_STOP` (R408): Once the halts complete, arithmetic clocks stop. -/
  | thermalClockStop
  /-- `THERMAL_RESTART` (R408): All dies below 95 °C: clocks restart and partitions resume. -/
  | thermalRestart
  /-- `REGISTER_WRITE` (R10): A write to a device register that has no row of its own. -/
  | registerWrite
  /-- `REFUSED_COMMAND_OP` (R280): A translation command with OP 0 or 8 to 255 is taken from the ring and completes with STATUS 0x01. -/
  | cmdRefused
  /-- `LINK_UP` (R402): A group link comes up and the group agent spreads traffic over it again. -/
  | linkUp
  deriving DecidableEq, Repr

end Sys2Proof
end

