-- ==== Sys2Proof/Machine/Float.lean ====
section
/-! DEFINITION. Floating formats, exact values and rounding (R71 to R83 of 04_number_formats.md).  Every finite value is
a sign and an exact nonnegative fraction; an operation computes exactly and is rounded once. -/

namespace Sys2Proof.Machine

/-! ### Sticky flags, at their bits of MODE (R34) -/

def fSA : Word := 0x200
def fIV : Word := 0x400
def fDZ : Word := 0x800
def fOF : Word := 0x1000
def fUF : Word := 0x2000
def fNX : Word := 0x4000
def fBO : Word := 0x8000

/-! ### Formats (R71) -/

/-- A floating format: exponent bits, mantissa bits, and whether it is E4M3 with its exceptions (R72). -/
structure Fmt where
  ebits : Nat
  mbits : Nat
  e4m3 : Bool := false
  deriving DecidableEq, Repr

def fp32 : Fmt := { ebits := 8, mbits := 23 }
def fp16 : Fmt := { ebits := 5, mbits := 10 }
def bf16 : Fmt := { ebits := 8, mbits := 7 }
def fE4M3 : Fmt := { ebits := 4, mbits := 3, e4m3 := true }
def fE5M2 : Fmt := { ebits := 5, mbits := 2 }

/-- The exponent of the smallest subnormal, negated: a subnormal code M has value M / 2^`low`. -/
def Fmt.low (f : Fmt) : Nat := 2 ^ (f.ebits - 1) - 2 + f.mbits

/-- The weight of the sign bit. -/
def Fmt.signW (f : Fmt) : Nat := 2 ^ (f.ebits + f.mbits)

/-- The code of infinity; E4M3 has none. -/
def Fmt.infCode (f : Fmt) : Nat := (2 ^ f.ebits - 1) * 2 ^ f.mbits

/-- The code of the largest finite value (R71). -/
def Fmt.maxCode (f : Fmt) : Nat := if f.e4m3 then 0x7F else f.infCode - 1

/-- The canonical NaN (R71). -/
def Fmt.nan (f : Fmt) : Nat := if f.e4m3 then 0x80 else f.infCode + 2 ^ (f.mbits - 1)

/-- The code of an infinity of a sign. -/
def Fmt.inf (f : Fmt) (neg : Bool) : Nat := f.infCode + neg.toNat * f.signW

/-- The code of a zero of a sign; E4M3 has one zero (R72). -/
def Fmt.zero (f : Fmt) (neg : Bool) : Nat := if f.e4m3 then 0 else neg.toNat * f.signW

/-- What an encoding stands for (R72, R73): `fin neg n d` is n / d with a sign. -/
inductive Num where
  | nan (signalling : Bool)
  | inf (neg : Bool)
  | fin (neg : Bool) (n d : Nat)
  deriving DecidableEq, Repr

/-- Reads an encoding of a format (R72). -/
def Fmt.read (f : Fmt) (code : Nat) : Num :=
  let c := code % (2 * f.signW)
  let neg := f.signW ≤ c
  let mag := c % f.signW
  let e := mag / 2 ^ f.mbits
  let m := mag % 2 ^ f.mbits
  if f.e4m3 && c == 0x80 then .nan false
  else if !f.e4m3 && f.infCode ≤ mag then
    if m = 0 then .inf neg else .nan (m < 2 ^ (f.mbits - 1))
  else if e = 0 then .fin neg m (2 ^ f.low)
  else .fin neg ((2 ^ f.mbits + m) * 2 ^ (e - 1)) (2 ^ f.low)

def Num.isSnan : Num → Bool
  | .nan s => s
  | _ => false

def Num.isNan : Num → Bool
  | .nan _ => true
  | _ => false

/-- An exact outcome before rounding: `nan iv` with whether IV is set, an infinity, an exact zero of a sign, or a
nonzero n / d of a sign. -/
inductive Exact where
  | nan (iv : Bool)
  | inf (neg : Bool)
  | zero (neg : Bool)
  | real (neg : Bool) (n d : Nat)
  deriving DecidableEq, Repr

/-- The exact outcome that is a value read: a NaN sets IV if it signals (R73). -/
def Num.exact : Num → Exact
  | .nan s => .nan s
  | .inf n => .inf n
  | .fin neg 0 _ => .zero neg
  | .fin neg n d => .real neg n d

/-- A sum of exact outcomes; a zero total of addends that are not zeros of one sign is +0, or −0 under RDN (R79,
R106). -/
def Exact.add (rdn : Bool) : Exact → Exact → Exact
  | .nan i, .nan j => .nan (i || j)
  | .nan i, _ => .nan i
  | _, .nan j => .nan j
  | .inf x, .inf y => if x = y then .inf x else .nan true
  | .inf x, _ => .inf x
  | _, .inf y => .inf y
  | .zero x, .zero y => .zero (if x = y then x else rdn)
  | .zero _, .real y n d => .real y n d
  | .real x n d, .zero _ => .real x n d
  | .real x n d, .real y m e =>
    let a := n * e
    let b := m * d
    if x = y then .real x (a + b) (d * e)
    else if a = b then .zero rdn
    else if a < b then .real y (b - a) (d * e)
    else .real x (a - b) (d * e)

/-- A product of exact outcomes: 0 × ∞ is undefined and sets IV (R106). -/
def Exact.mul : Exact → Exact → Exact
  | .nan i, .nan j => .nan (i || j)
  | .nan i, _ => .nan i
  | _, .nan j => .nan j
  | .inf x, .inf y => .inf (x != y)
  | .inf _, .zero _ => .nan true
  | .zero _, .inf _ => .nan true
  | .inf x, .real y _ _ => .inf (x != y)
  | .real x _ _, .inf y => .inf (x != y)
  | .zero x, .zero y => .zero (x != y)
  | .zero x, .real y _ _ => .zero (x != y)
  | .real x _ _, .zero y => .zero (x != y)
  | .real x n d, .real y m e => .real (x != y) (n * m) (d * e)

def Exact.neg : Exact → Exact
  | .nan i => .nan i
  | .inf x => .inf (!x)
  | .zero x => .zero (!x)
  | .real x n d => .real (!x) n d

/-- A value multiplied by 2^e. -/
def Exact.scale (e : Int) : Exact → Exact
  | .real x n d => if 0 ≤ e then .real x (n * 2 ^ e.toNat) d else .real x n (d * 2 ^ (-e).toNat)
  | r => r

/-! ### Rounding (R79, R80, R81) -/

/-- The outcome of a rounding: the code, the flags, and the discarded fraction D of R79 as 32 bits. -/
structure Rounded where
  code : Nat
  flags : Word := 0
  d : Nat := 0
  deriving DecidableEq, Repr

/-- Whether the candidate of larger magnitude is taken, for a value with truncated quotient `q` and remainder `r` over
`den`, `0 < r`; `draw` is the lane's draw under the stochastic mode (R79). -/
def roundUp (rnd : Rnd) (neg : Bool) (q r den draw : Nat) : Bool :=
  match rnd with
  | .mode | .rne => 2 * r > den || (2 * r == den && q % 2 == 1)
  | .rtz => false
  | .rup => !neg
  | .rdn => neg
  | .rna => 2 * r ≥ den
  | .sr => draw < r * 2 ^ 32 / den

/-- floor(log2(n / d)) for positive n and d. -/
def log2Floor (n d : Nat) : Int :=
  let l : Int := (n.log2 : Int) - (d.log2 : Int)
  let below := if 0 ≤ l then n < d * 2 ^ l.toNat else n * 2 ^ (-l).toNat < d
  if below then l - 1 else l

/-- The exponent above the subnormal grid of the unit in the last place of n / d in a format. -/
def Fmt.unit (f : Fmt) (n d : Nat) : Nat := (log2Floor n d - f.mbits + f.low).toNat

/-- The quotient, remainder and divisor of n / d in units of the last place (R79). -/
def Fmt.split (f : Fmt) (n d : Nat) : Nat × Nat × Nat :=
  let a := n * 2 ^ f.low
  let b := d * 2 ^ f.unit n d
  (a / b, a % b, b)

/-- The discarded fraction D of R79. -/
def Fmt.discard (f : Fmt) : Exact → Nat
  | .real _ n d => let (_, r, b) := f.split n d; r * 2 ^ 32 / b
  | _ => 0

/-- The overflowed result (R80). -/
def Fmt.overflow (f : Fmt) (rnd : Rnd) (sat neg : Bool) : Rounded :=
  let sign := neg.toNat * f.signW
  if sat then ⟨f.maxCode + sign, fSA ||| fNX, 0⟩
  else if rnd = .rtz || (rnd = .rdn && !neg) || (rnd = .rup && neg) then ⟨f.maxCode + sign, fOF ||| fNX, 0⟩
  else if f.e4m3 then ⟨f.nan, fOF ||| fNX, 0⟩
  else ⟨f.inf neg, fOF ||| fNX, 0⟩

/-- Rounds a nonzero n / d of a sign to a format (R79 to R81). -/
def Fmt.roundReal (f : Fmt) (rnd : Rnd) (sat : Bool) (draw : Nat) (neg : Bool) (n d : Nat) : Rounded :=
  let (q, r, b) := f.split n d
  let up := r ≠ 0 && roundUp rnd neg q r b draw
  let code := f.unit n d * 2 ^ f.mbits + (if up then q + 1 else q)
  if code > f.maxCode then { f.overflow rnd sat neg with d := r * 2 ^ 32 / b }
  else
    let inexact := r ≠ 0
    { code := if code = 0 then f.zero neg else code + neg.toNat * f.signW
      flags := (if inexact then fNX else 0) ||| (if inexact && code < 2 ^ f.mbits then fUF else 0)
      d := r * 2 ^ 32 / b }

/-- Rounds an exact outcome to a format: an infinity goes into E4M3 as R80 says. -/
def Fmt.round (f : Fmt) (rnd : Rnd) (sat : Bool) (draw : Nat) : Exact → Rounded
  | .nan iv => ⟨f.nan, if iv then fIV else 0, 0⟩
  | .inf neg =>
    if f.e4m3 then if sat then ⟨f.maxCode + neg.toNat * f.signW, fSA, 0⟩ else ⟨f.nan, fIV, 0⟩
    else ⟨f.inf neg, 0, 0⟩
  | .zero neg => ⟨f.zero neg, 0, 0⟩
  | .real neg n d => f.roundReal rnd sat draw neg n d

/-! ### Integers and their clamping (R75, R82) -/

/-- An integer format: its bits and whether it is signed. -/
structure IFmt where
  width : Nat
  signed : Bool
  deriving DecidableEq, Repr

def IFmt.lo (f : IFmt) : Int := if f.signed then -(2 ^ (f.width - 1) : Nat) else 0
def IFmt.hi (f : IFmt) : Int := if f.signed then (2 ^ (f.width - 1) : Nat) - 1 else (2 ^ f.width : Nat) - 1

/-- The value of the low bits of a code. -/
def IFmt.read (f : IFmt) (code : Nat) : Int :=
  let c := code % 2 ^ f.width
  if f.signed && 2 ^ (f.width - 1) ≤ c then (c : Int) - (2 ^ f.width : Nat) else c

def IFmt.inRange (f : IFmt) (x : Int) : Bool := f.lo ≤ x && x ≤ f.hi
def IFmt.clamp (f : IFmt) (x : Int) : Int := if x < f.lo then f.lo else if x > f.hi then f.hi else x

/-- The low 64 bits of an integer, as a register pair holds it: an 8-bit or 16-bit result is sign- or zero-extended
(R75). -/
def IFmt.write (f : IFmt) (x : Int) : Nat :=
  (f.read (x % (2 ^ f.width : Nat)).toNat % (2 ^ 64 : Nat)).toNat

/-- Saturating or wrapping narrowing of an exact integer: SA where SAT clamps (R82, R94). -/
def IFmt.narrow (f : IFmt) (sat : Bool) (x : Int) : Rounded :=
  if sat && !f.inRange x then ⟨f.write (f.clamp x), fSA, 0⟩ else ⟨f.write x, 0, 0⟩

/-- Rounds n / d of a sign on the integer grid: the integer, and whether it is inexact. -/
def roundInt (rnd : Rnd) (draw : Nat) (neg : Bool) (n d : Nat) : Int × Bool :=
  let q := n / d
  let r := n % d
  let up := r ≠ 0 && roundUp rnd neg q r d draw
  let m : Int := if up then q + 1 else q
  (if neg then -m else m, r ≠ 0)

/-- Float to integer (R82). -/
def IFmt.ofExact (f : IFmt) (rnd : Rnd) (sat : Bool) (draw : Nat) : Exact → Rounded
  | .nan _ => ⟨0, fIV, 0⟩
  | .zero _ => ⟨0, 0, 0⟩
  | .inf neg => ⟨f.write (if neg then f.lo else f.hi), fNX ||| (if sat then fSA else fIV), 0⟩
  | .real neg n d =>
    let (x, inexact) := roundInt rnd draw neg n d
    let dd := n % d * 2 ^ 32 / d
    if f.inRange x then ⟨f.write x, if inexact then fNX else 0, dd⟩
    else ⟨f.write (f.clamp x), fNX ||| (if sat then fSA else fIV), dd⟩

/-- An integer as an exact outcome: zero is +0. -/
def exactOfInt (x : Int) : Exact :=
  if x = 0 then .zero false else .real (x < 0) x.natAbs 1

/-! ### Comparison and sign (R107 to R110) -/

/-- A number's place in the order in which −0 stands below +0 (R107). -/
def Fmt.key (f : Fmt) (code : Nat) : Int :=
  let c := code % (2 * f.signW)
  if f.signW ≤ c then -(c - f.signW : Nat) - 1 else c

/-- The smaller (`max = false`) or larger of two encodings under R107; `prop` gives NaN for any NaN. -/
def Fmt.minMax (f : Fmt) (max prop : Bool) (a b : Nat) : Rounded :=
  let x := f.read a
  let y := f.read b
  let fl := if x.isSnan || y.isSnan then fIV else 0
  let c := 2 * f.signW
  if x.isNan && y.isNan then ⟨f.nan, fl, 0⟩
  else if prop && (x.isNan || y.isNan) then ⟨f.nan, fl, 0⟩
  else if x.isNan then ⟨b % c, fl, 0⟩
  else if y.isNan then ⟨a % c, fl, 0⟩
  else if (f.key a < f.key b) = (max = false) then ⟨a % c, fl, 0⟩
  else ⟨b % c, fl, 0⟩

/-- The numeric order of two values that are not NaN: −1, 0 or 1; the zeros are equal (R109). -/
def Num.cmp : Num → Num → Int
  | .inf x, .inf y => if x = y then 0 else if x then -1 else 1
  | .inf x, _ => if x then -1 else 1
  | _, .inf y => if y then 1 else -1
  | .fin x n d, .fin y m e =>
    let a : Int := (if x then -1 else 1) * (n * e : Nat)
    let b : Int := (if y then -1 else 1) * (m * d : Nat)
    if a < b then -1 else if a = b then 0 else 1
  | _, _ => 0

/-- The class of an encoding, as a bit number (R110). -/
def Fmt.classOf (f : Fmt) (code : Nat) : Nat :=
  match f.read code with
  | .nan s => if s then 8 else 9
  | .inf neg => if neg then 0 else 7
  | .fin neg 0 _ => if neg then 3 else 4
  | .fin neg _ _ =>
    let sub := code % f.signW < 2 ^ f.mbits
    if neg then (if sub then 2 else 1) else (if sub then 5 else 6)

/-- The sign bit replaced, a NaN becoming canonical (R108). -/
def Fmt.withSign (f : Fmt) (code : Nat) (neg : Bool) : Rounded :=
  match f.read code with
  | .nan s => ⟨f.nan, if s then fIV else 0, 0⟩
  | _ => ⟨code % f.signW + neg.toNat * f.signW, 0, 0⟩

def Fmt.signOf (f : Fmt) (code : Nat) : Bool := f.signW ≤ code % (2 * f.signW)

/-- Rounding to an integral value in the same format, with the sign kept and no NX (R111). -/
def Fmt.rint (f : Fmt) (rnd : Rnd) (code : Nat) : Rounded :=
  match f.read code with
  | .nan s => ⟨f.nan, if s then fIV else 0, 0⟩
  | .inf neg => ⟨f.inf neg, 0, 0⟩
  | .fin neg n d =>
    let (x, _) := roundInt rnd 0 neg n d
    if x = 0 then ⟨f.zero neg, 0, 0⟩ else { f.roundReal .rtz false 0 neg x.natAbs 1 with flags := 0, d := 0 }

/-! ### Square roots -/

/-- floor(sqrt x) by trying bits from `k` - 1 down. -/
def isqrtBits (x : Nat) : Nat → Nat → Nat
  | 0, r => r
  | k + 1, r => isqrtBits x k (if (r + 2 ^ k) * (r + 2 ^ k) ≤ x then r + 2 ^ k else r)

def isqrt (x : Nat) : Nat := isqrtBits x (x.log2 / 2 + 1) 0

/-- A fraction that rounds as the square root of n / d: exact where it is a square, else the middle of the interval of
2^-`k` the root lies strictly inside. -/
def sqrtFrac (k n d : Nat) : Nat × Nat :=
  let x := n * d * 4 ^ k
  let r := isqrt x
  if r * r = x then (r, d * 2 ^ k) else (2 * r + 1, d * 2 ^ (k + 1))

/-- The square root (R111). -/
def Num.sqrt : Num → Exact
  | .nan s => .nan s
  | .inf neg => if neg then .nan true else .inf false
  | .fin neg 0 _ => .zero neg
  | .fin neg n d => if neg then .nan true else let (a, b) := sqrtFrac 64 n d; .real false a b

/-- A quotient and its DZ flag (R111, R81); an exact zero quotient, of a zero by a number or of a finite number by an infinity, is
+0 (R79). -/
def Num.div : Num → Num → Exact × Word
  | .nan s, y => (.nan (s || y.isSnan), 0)
  | _, .nan s => (.nan s, 0)
  | .inf _, .inf _ => (.nan true, 0)
  | .inf x, .fin y _ _ => (.inf (x != y), 0)
  | .fin .., .inf _ => (.zero false, 0)
  | .fin x n d, .fin y m e =>
    if m = 0 then if n = 0 then (.nan true, 0) else (.inf (x != y), fDZ)
    else if n = 0 then (.zero false, 0)
    else (.real (x != y) (n * e) (d * m), 0)

/-- An exact zero is +0 where the instruction states no rule of its own for zeros (R79, log 39). -/
def quietZero : Exact → Exact
  | .zero _ => .zero false
  | r => r

/-- A value that passes unrounded: only a NaN changes (R73, R122, R124). -/
def passF32 (a : Nat) : Rounded :=
  match fp32.read a with
  | .nan s => ⟨fp32.nan, if s then fIV else 0, 0⟩
  | _ => ⟨a, 0, 0⟩

end Sys2Proof.Machine
end

