-- ==== Sys2Proof/Machine/Cells.lean ====
section
/-! DEFINITION. A sparse table in canonical form: pairs of a key and a value with keys strictly rising and no entry
equal to the table's default, so that equal tables are equal data.  Registers, memory bytes and other sparse state are
held in it. -/

namespace Sys2Proof.Machine

/-- A sparse table from natural numbers. -/
abbrev Cells (α : Type) := List (Nat × α)

variable {α : Type}

/-- The value at key `k`; `d` where no entry has it. -/
def Cells.get (d : α) : Cells α → Nat → α
  | [], _ => d
  | (j, v) :: m, k => if j = k then v else Cells.get d m k

/-- Every entry but those of key `k`. -/
def Cells.erase : Cells α → Nat → Cells α
  | [], _ => []
  | (j, v) :: m, k => if j = k then Cells.erase m k else (j, v) :: Cells.erase m k

/-- An entry put before the first greater key. -/
def Cells.insert : Cells α → Nat → α → Cells α
  | [], k, v => [(k, v)]
  | (j, w) :: m, k, v => if k < j then (k, v) :: (j, w) :: m else (j, w) :: Cells.insert m k v

/-- The table with `v` at key `k`; writing the default removes the entry. -/
def Cells.set [DecidableEq α] (d : α) (m : Cells α) (k : Nat) (v : α) : Cells α :=
  if v = d then m.erase k else (m.erase k).insert k v

/-- Every key of the table is above `k`, and the rest likewise: keys strictly rise; no value is the default. -/
def Cells.wf [DecidableEq α] (d : α) : Cells α → Bool
  | [] => true
  | (k, v) :: m => m.all (fun e => k < e.1) && v != d && Cells.wf d m

/-- Writes a list of values at rising keys from `k`. -/
def Cells.setMany [DecidableEq α] (d : α) (m : Cells α) (k : Nat) : List α → Cells α
  | [] => m
  | v :: vs => Cells.setMany d (m.set d k v) (k + 1) vs

/-- The default at every key from `k`, `n` of them. -/
def Cells.clear (m : Cells α) (k n : Nat) : Cells α := m.filter (fun e => !(k ≤ e.1 && e.1 < k + n))

/-- The `n` values at keys from `k`. -/
def Cells.getMany (d : α) (m : Cells α) (k n : Nat) : List α :=
  (List.range n).map (fun i => Cells.get d m (k + i))

end Sys2Proof.Machine
end

