-- ==== Sys2Proof/Machine/State.lean ====
section
/-! DEFINITION. The state of one package: everything the spec gives the machine, as plain data.  INVENTORY.md lists
every piece with the rule that names it and its reset value. -/

namespace Sys2Proof.Machine

/-! ### A group and a control thread -/

/-- A context is a group of 32 lanes, or the control thread of a quad sequencer (R4, R300). -/
inductive Kind where
  | group | thread
  deriving DecidableEq, Repr

/-- Where a context stands (R159 CORELOC, R195, R308): for a thread, `slot` is its thread slot. -/
structure Loc where
  die : Nat := 0
  core : Nat := 0
  pipe : Nat := 0
  slot : Nat := 0
  deriving DecidableEq, Repr

/-- Why a context's next instruction has not issued; a `susp` names the rows it lacks. -/
inductive Stall where
  | wait | counter | racq | susp (point rows : Nat) | bar | arrive | bwait | fence | queue | board | reservation | gate
  | translation | hold | collective | request (page : Nat) (stage2 : Bool) | gather (page : Nat) | boarding | reading
  deriving DecidableEq, Repr

/-- A `racq` that has issued and not completed (R199): its issue order on its core, the blocks it wants, when it issued (R200), and
whether its units are taken, so that it completes at its fragment's next turn. -/
structure Racq where
  seq : Nat := 0
  want : Nat := 0
  at' : Nat := 0
  taken : Bool := false
  deriving DecidableEq, Repr

/-- A fragment slot (R22).  `age` counts the group's issue turns since the fragment issued (R26). -/
structure Frag where
  pc : Word64 := 0
  fmask : Word := 0
  amask : Word := 0
  join : Option Nat := none
  age : Nat := 0
  /-- The barrier it waits at, and that it has completed (R212). -/
  bar : Option Nat := none
  barGo : Bool := false
  /-- While another fragment of the group issues: why this one's next instruction has not, and its failed requests. -/
  stall : Option Stall := none
  failed : List (Nat × Bool) := []
  /-- The `racq` that this fragment waits in (R199). -/
  racq : Option Racq := none
  deriving DecidableEq, Repr

/-- A join record (R22). -/
structure Join where
  jaddr : Word64 := 0
  jmask : Word := 0
  jarr : Word := 0
  jexm : Word := 0
  jparent : Option Nat := none
  deriving DecidableEq, Repr

/-- The clause a context is in: its header (R39), its words as fetched (log 6), the position of the next instruction in
words, and the latch window, newest first (R31).  `waiting` holds until the WAIT of R42 passes. -/
structure Clause where
  isOpen : Bool := false
  hdr : Word64 := 0
  count : Nat := 0
  cls : Nat := 0
  wait : Nat := 0
  yieldHint : Bool := false
  susp : Bool := false
  waiting : Bool := false
  words : List Word := []
  pos : Nat := 0
  win : List (Option (List Word)) := []
  /-- SPLITV as it stood at the start of the clause (R33). -/
  splitv : Word := 1
  /-- What the Surveyor logs of a work unit so far (R394). -/
  log : List Byte := []
  deriving DecidableEq, Repr

/-- What trap entry saves beside the trap registers (R153): EPC as written, the clause with its latch window, and the
fragment's AMASK. -/
structure Saved where
  epc : Word64
  clause : Clause
  amask : Word
  deriving DecidableEq, Repr

/-- A copy error not yet reported (R150). -/
structure CopyErr where
  tag : Nat
  lanes : Word
  addr : Word64
  deriving DecidableEq, Repr

/-- The recipe a group runs before it resumes (R172): the address past its last word, and RESUME. -/
structure RecipeRun where
  stop : Word64
  resume : Word64
  deriving DecidableEq, Repr

/-- A trap about to be raised: its code, detail and value, and its lanes where it is checked per lane (R152). -/
structure Trap where
  code : Nat
  detail : Nat := 0
  tval : Word64 := 0
  lanes : Option Word := none
  deriving DecidableEq, Repr

/-- A context: the registers of R27, R151, R159 and, for a thread, R309. -/
structure Ctx where
  /-- The model's own name of the context; 0 is no context. -/
  uid : Nat := 0
  kind : Kind := .group
  team : Nat := 0
  grpid : Nat := 0
  teamid : Nat := 0
  clusid : Nat := 0
  ngrp : Nat := 1
  loc : Loc := {}
  /-- The acquired count (R29). -/
  acq : Nat := 32
  /-- v registers: lane i of vr at key 32r + i. -/
  v : Cells Word := []
  /-- s registers, or k registers of a thread. -/
  s : Cells Word := []
  /-- p registers as lane masks; p0 is not stored. -/
  p : Cells Word := []
  mode : Word := 0x31
  frags : List (Option Frag) := []
  joins : List (Option Join) := []
  /-- The slot of the fragment that issues (R26). -/
  fsel : Nat := 0
  clause : Clause := {}
  /-- The in-flight counters in the order of R42. -/
  ctr : Cells Nat := []
  lastwct : Nat := 0
  sample : Option Word64 := none
  tcause : Word := 0
  epc : Word64 := 0
  tvec : Word64 := 0
  tval : Word64 := 0
  tlanes : Word := 0
  priv : Bool := false
  svec : Word64 := 0
  srsel : Word := 0
  dbgctl : Word := 0
  saved : Option Saved := none
  /-- The trap that a request refused after its issue owes: Partition-port of an engine's (R376), or Shard-write of an `abin` that
  an eviction refused (R299). -/
  owedTrap : Option Trap := none
  copyErrs : List CopyErr := []
  recipe : Option RecipeRun := none
  /-- The Barrier-abandoned trap has been taken (R214). -/
  abandonTaken : Bool := false
  /-- Halted for the debugger (R156), or with its partition (R378). -/
  halted : Bool := false
  /-- Ended, with its slot occupied until its counters read zero (R132). -/
  ended : Bool := false
  /-- Lanes whose registers took an uncorrectable error (R391). -/
  regError : Bool := false
  stall : Option Stall := none
  /-- Pages, by stage, whose page request failed: the next fault there is Page-fault (R287). -/
  failed : List (Nat × Bool) := []
  /-- The issue order of a thread's waiting `mres` on its quad (R315); 0 while none waits. -/
  resSeq : Nat := 0
  /-- Issue turns of the pipe for which the group has been ready (R197). -/
  ready : Nat := 0
  /-- When it last issued, in package time; its place in the order of issue turns; and whether its last clause had YIELD
  (R197). -/
  lastIssue : Nat := 0
  issueSeq : Nat := 0
  yielded : Bool := false
  /-- The checkpoint slot of each lane (R202 CKPT). -/
  ckpts : List Nat := []
  /-- The lane of the launch that each lane goes on from, through frames, rows and flashback; an empty list is of lanes that
  began here (R260). -/
  whos : List Nat := []
  /-- Creation order, for the youngest group (R200). -/
  born : Nat := 0
  /-- Row, column and term predicates of a thread (R309). -/
  mrp : Nat := 0
  mcp : Nat := 0
  mkp : Nat := 0
  /-- The recorded load error of a thread (R317, R344): DETAIL, and TVAL. -/
  loadErr : Option (Nat × Word64) := none
  /-- The signature of the thread's latest retired pass (R329). -/
  sig : Word64 := 0
  deriving DecidableEq, Repr

/-! ### Kernels, teams and rows -/

/-- A recipe entry (R184). -/
structure Recipe where
  code : Word64 := 0
  words : Nat := 0
  out : List Nat := []
  deriving DecidableEq, Repr

/-- A suspend-point entry (R183), with its recipe. -/
structure Point where
  id : Nat := 0
  flash : Bool := false
  live : List Nat := []
  thresh : Nat := 32
  flush : Nat := 8192
  resume : Word64 := 0
  recipe : Option Recipe := none
  /-- The virtual addresses of its entry and of its image's recipe table; 0 where the model placed the point itself. -/
  at' : Nat := 0
  rct : Nat := 0
  deriving DecidableEq, Repr

/-- A kernel record (R182) as the dispatcher read it. -/
structure Kernel where
  krec : Word64 := 0
  img : Word64 := 0
  thread : Bool := false
  entry : Word64 := 0
  trapvec : Word64 := 0
  groups : Nat := 1
  quads : Nat := 1
  teams : Nat := 1
  regblk : Nat := 0
  scratch : Nat := 0
  flashcost : Nat := 0xFFFFFFFF
  audit : Nat := 0
  points : List Point := []
  deriving DecidableEq, Repr

/-- A pair (team, point): its tile on the core, if one is bound, and its controls (R201, R203, R205, R209, R345). -/
structure Pair where
  point : Nat := 0
  tile : Option Nat := none
  /-- THRESH as `fthr` set it; else it is the point's (R205, R209). -/
  thresh : Option Nat := none
  gateClosed : Bool := false
  seq : Nat := 0
  twct : Nat := 0
  flushDue : Bool := false
  deriving DecidableEq, Repr

/-- Where a row is held: a row of the pair's tile, a spill slot, or a checkpoint slot (R202, R207, R211). -/
inductive Place where
  | tile (row : Nat)
  | spill (slot : Nat)
  | ckpt (slot : Nat)
  deriving DecidableEq, Repr

/-- A used row (R202): its header's fields, its columns, its write age, its wake time and the LASTWCT kept with a
flashback row (R211). -/
structure Row where
  point : Nat := 0
  place : Place := .tile 0
  woke : Bool := false
  wakeTime : Nat := 0
  mon : Bool := false
  grp : Nat := 0
  lane : Nat := 0
  seq : Nat := 0
  ckpt : Nat := 0
  cols : List Word := []
  age : Nat := 0
  lwct : Nat := 0
  /-- The lane of the launch it goes on from (R260). -/
  who : Nat := 0
  /-- Its group was flashed back by an uncorrectable error, and has not loaded from a flashback point since (R391). -/
  regError : Bool := false
  /-- It has an uncorrectable error, which kills its lane as it is loaded (R391). -/
  bad : Bool := false
  deriving DecidableEq, Repr

/-- What a lane's checkpoint slot records (R210): a point and its columns. -/
structure Ckpt where
  point : Nat := 0
  grp : Nat := 0
  lane : Nat := 0
  seq : Nat := 0
  cols : List Word := []
  deriving DecidableEq, Repr

/-! ### A quad's matrix array (16_matrix_engine.md) -/

/-- A reservation entry (R313); team 0 is none. -/
structure Rsv where
  team : Nat := 0
  kind : Nat := 0
  pri : Nat := 0
  fmt : Nat := 0
  /-- The format record that FMT names, as `mres` read it. -/
  fmtRec : Nat := 0
  blk : Nat := 0
  base : Nat := 0
  len : Nat := 0
  soff : Nat := 0
  zoff : Nat := 0
  /-- The reservation time. -/
  time : Nat := 0
  /-- Of an `sa` range: the values that its bytes have held since then and have lost, by offset, and that a write to it has not
  retired before a fence of the team (R326). -/
  old : List (Nat × Byte) := []
  unfenced : Bool := false
  deriving DecidableEq, Repr

/-- What fills a macro slot: a tile in memory (R317), or a tile of a layer on a ring (R342). -/
inductive FillFrom where
  | memory (tile side : Word64)
  | ring (ring layer tile pt fmt : Nat)
  deriving DecidableEq, Repr

/-- A macro slot (R312); team 0 is none.  `fmt` and `fmtRec` are the format id and record recorded when its latest fill issued;
`full` is whether its contents are a tile, of the record `tileRec`, and `latest` the fill that put it there.  It is filling
while a fill or a board of the quad names it. -/
structure MSlot where
  team : Nat := 0
  fmt : Nat := 0
  fmtRec : Nat := 0
  full : Bool := false
  tileRec : Nat := 0
  tile : Cells Byte := []
  side : Cells Byte := []
  latest : Option FillFrom := none
  deriving DecidableEq, Repr

/-- The type of an accumulator tile (R312, R322). -/
inductive AccType where
  | none | i32 | f32
  deriving DecidableEq, Repr

/-- An accumulator tile (R312): entry (m, n) at key 128 m + n; team 0 is none. -/
structure AccTile where
  team : Nat := 0
  ty : AccType := .none
  acc : Cells Word := []
  deriving DecidableEq, Repr

/-- A queued pass or drain (R322 to R324) with what it captured at issue. -/
structure Cmd where
  op : Nat := 0
  uid : Nat := 0
  team : Nat := 0
  pass : Bool := true
  /-- SUBOP `acc` and SAT of a pass. -/
  acc : Bool := false
  sat : Bool := false
  /-- The type its pass leaves the tile with (R322). -/
  ty : AccType := .none
  tile : Nat := 0
  handle : Nat := 0
  slot : Nat := 0
  /-- ZERO, OUT and DEST `toob` of a drain, with its operands. -/
  zero : Bool := false
  out : Nat := 0
  toob : Bool := false
  addr : Nat := 0
  pitch : Nat := 0
  rp : Nat := 0
  cp : Nat := 0
  kp : Nat := 0
  /-- The instruction's words, for the signature (R329). -/
  word : Word := 0
  desc : Word := 0
  issued : Nat := 0
  /-- A pass over an `sa` range to which a write is not fenced (R326). -/
  raced : Bool := false
  /-- Places of the operand buffer that a drain has written already (R328). -/
  wrote : List Nat := []
  /-- What bytes of the operand buffer held before `obst` wrote them while the array performed the pass, by place (R328). -/
  old : List (Nat × Byte) := []
  /-- When its head became ready, and grants it was passed over at (R325). -/
  readyAt : Option Nat := none
  passedOver : Nat := 0
  deriving DecidableEq, Repr

/-- A fill of a macro slot in flight: its operation and what it reads (R317), held on a page request. -/
structure Fill where
  op : Nat := 0
  uid : Nat := 0
  team : Nat := 0
  slot : Nat := 0
  tile : Word64 := 0
  side : Word64 := 0
  fmtRec : Nat := 0
  wait : Option (Nat × Bool) := none
  failed : List (Nat × Bool) := []
  /-- Bytes read before the rest, by their offset: the tile's, then the side array's (R237, R317). -/
  got : List (Nat × List Byte) := []
  deriving DecidableEq, Repr

/-- An operand-cache entry (R326). -/
structure OcEntry where
  team : Nat := 0
  handle : Nat := 0
  gen : Nat := 0
  block : Nat := 0
  data : List Byte := []
  deriving DecidableEq, Repr

/-- How a board's tile stands: awaited, with the bad sighting before it, captured, or failed (R344). -/
inductive BoardTile where
  | awaited (bad : Bool)
  | captured
  | failed (detail : Nat)
  deriving DecidableEq, Repr

/-- A board (R342, R343): its operation, what it names, whether it has reached the stop, the count of tiles that had
passed the stop then, and its tiles. -/
structure Board where
  op : Nat := 0
  uid : Nat := 0
  team : Nat := 0
  part : Nat := 0
  ring : Nat := 0
  layer : Nat := 0
  first : Nat := 0
  count : Nat := 0
  slot : Nat := 0
  pt : Nat := 0
  fmt : Nat := 0
  fmtRec : Nat := 0
  reached : Bool := false
  /-- How far the stop's passing had come when the board reached it (`Ring.passed`): a lap whose window had opened then is
  not attempted. -/
  after : Nat := 0
  tiles : List BoardTile := []
  deriving DecidableEq, Repr

/-- A quad: its array, its sequencer's queues, its stops' boards, and its Surveyor state (R312, R324, R342, R393, R396). -/
structure Quad where
  rsv : Cells Rsv := []
  slots : Cells MSlot := []
  tiles : Cells AccTile := []
  obuf : Cells Byte := []
  queue : List Cmd := []
  running : Option Nat := none
  fills : List Fill := []
  cache : List OcEntry := []
  boards : List Board := []
  /-- Boards withdrawn before they reached the stop, whose slots are still to be emptied after earlier passes (R328, R347). -/
  gone : List Board := []
  gen : Word := 1
  suspects : Nat := 0
  retired : Bool := false
  deriving DecidableEq, Repr

/-- What a swapped-out team holds of its quad (R332, R379): handles with their records, the bytes of its ranges (2^19 ×
handle + offset), its accumulator tiles, its queue, and its slots. -/
structure Stash where
  rsv : List (Nat × Rsv) := []
  bytes : Cells Byte := []
  tiles : List (Nat × AccTile) := []
  slots : List (Nat × MSlot) := []
  queue : List Cmd := []
  fills : List Fill := []
  boards : List Board := []
  gone : List Board := []
  deriving DecidableEq, Repr

/-- A team (R195, R367): the scratchpad's bytes, its rows and its collective registers. -/
structure Team where
  id : Nat := 0
  part : Nat := 0
  tcb : Nat := 0
  clusid : Nat := 0
  teamid : Nat := 0
  die : Nat := 0
  core : Nat := 0
  /-- Its number among the teams of its core (R289 BAR). -/
  slot : Nat := 0
  kern : Kernel := {}
  args : List Word := []
  priv : Bool := false
  scratch : Cells Byte := []
  /-- Its barrier objects, each from its `binit` on, by their offset / 16 (R213; log 49). -/
  objs : List Nat := []
  gen : Nat := 0
  abandoned : Bool := false
  pairs : List Pair := []
  rows : List Row := []
  ckpts : List Ckpt := []
  spq : Nat := 0
  spillBase : Nat := 0
  ckptBase : Nat := 0
  /-- t0 to t7 as numbers of 256 bits (R350). -/
  t : List Nat := []
  /-- The greatest WCT of its stores, for GRID_END (R372). -/
  maxWct : Nat := 0
  /-- Its context is in shadow storage (R379), with its quad's holdings. -/
  out : Bool := false
  stash : Stash := {}
  deriving DecidableEq, Repr

/-! ### Operations in flight -/

/-- Where a part of an operation is performed: at a home slice (or, on a page Private to the issuing core, in that
core's cache), over the host link, in a team's scratchpad, or in a quad's operand buffer. -/
inductive Space where
  | home | host | scratch | opbuf
  deriving DecidableEq, Repr

/-- How far a part of an operation has come. -/
inductive Phase where
  | sent | performed | replied | abandoned
  deriving DecidableEq, Repr

/-- What a part does to its bytes. -/
inductive Act where
  | load
  | store
  /-- A load that a prefetch makes: no register waits for it (R144). -/
  | prefetch
  /-- An integer atomic of R244, of a width in bytes. -/
  | int (subop : Nat)
  /-- A float atomic of R245. -/
  | flt (subop : Nat)
  /-- The three bin deltas of R246, or the NaN marker. -/
  | bin (nan : Bool) (d0 d1 d2 : Int)
  | cas
  deriving DecidableEq, Repr

/-- One enabled lane's part of an operation.  `key` is the byte's place in `mem` (a memory type and a physical address),
or an offset in a scratchpad or operand buffer. -/
structure Piece where
  lane : Nat := 0
  act : Act := .load
  space : Space := .home
  va : Word64 := 0
  key : Nat := 0
  len : Nat := 0
  /-- Data to store, an operand, or the swap value; and the compare value. -/
  data : List Byte := []
  cmp : List Byte := []
  /-- Bytes read. -/
  got : List Byte := []
  phase : Phase := .sent
  /-- Weak: a lease is taken, and the line may be installed (R229). -/
  lease : Bool := false
  expiry : Nat := 0
  install : Bool := true
  /-- Performed in the issuing core's own cache, on a page Private to it (R227), through this leaf entry. -/
  owner : Bool := false
  entry : Nat := 0
  /-- Held until the page of this leaf entry is reclassified (R226). -/
  held : Option Nat := none
  wct : Nat := 0
  /-- Wakes not yet acknowledged (R255). -/
  acks : Nat := 0
  /-- A host loop has read its value (R260). -/
  looped : Bool := false
  /-- A store that is not sent before its lane's loop ends (R260). -/
  late : Bool := false
  /-- The loaded line as replied, for installation; stores sent meanwhile are applied to it (R229). -/
  fill : List Byte := []
  poisoned : Bool := false
  /-- The aligned 8-byte parts of a 16-byte or 32-byte access that are performed already (R141). -/
  torn : List Nat := []
  /-- When it last moved: what its message causes comes later (R228). -/
  moved : Nat := 0
  /-- The lane of the launch that sent it, where another part may have to follow it (R260). -/
  who : Nat := 0
  /-- log2 of the range that the translation it used covers (R296). -/
  span : Nat := 12
  /-- SCOPE, and for `abin` its EMAX and SUBOP as 4 × EMAX + SUBOP: what requests that merge agree in (R248). -/
  scope : Scope := .grp
  binRec : Int := 0
  /-- Its host completion came with an error (R391). -/
  hostErr : Bool := false
  deriving DecidableEq, Repr

/-- An asynchronous copy's lane as it stands: addresses, valid bytes, and how far its bytes have come (R148 to R150). -/
structure CopyLane where
  lane : Nat := 0
  dstGlobal : Bool := false
  srcGlobal : Bool := false
  dst : Word64 := 0
  src : Word64 := 0
  n : Nat := 0
  /-- The lane of the launch that it copies for (R260). -/
  who : Nat := 0
  phase : Phase := .sent
  /-- Once its addresses have translated: the places of the destination, of the source's first byte, and of its first byte on a
  second page.  From then on nothing abandons the lane. -/
  place : Option (Nat × Nat × Nat) := none
  /-- log2 of the greatest range that a translation it used covers (R296). -/
  span : Nat := 12
  /-- Bytes of the block that are read and not yet written, and those that are written (R148, R149, R237). -/
  got : List (Nat × Byte) := []
  torn : List Nat := []
  moved : Nat := 0
  /-- The page request the lane is held on (R150), and whether one failed. -/
  wait : Option (Nat × Bool) := none
  failed : List (Nat × Bool) := []
  deriving DecidableEq, Repr

/-- What an operation does when it retires. -/
inductive OpKind where
  /-- A load into `regs` vector registers from `dst`, or a scalar register; `bytes` per lane. -/
  | load (dst regs bytes : Nat) (sx scalar : Bool)
  | store
  | copy (tag : Nat) (lanes : List CopyLane) (err : Word) (errAddr : Word64)
  /-- An atomic that writes its old value to `regs` vector registers from `dst` (0 registers: none). -/
  | atomic (dst regs : Nat)
  /-- A prefetch: it raises no counter. -/
  | prefetch
  /-- What a `launch` of a fragment reads (R374): it raises no counter, and goes when the `launch` has issued. -/
  | reads (frag : Nat)
  | fill (op : Nat)
  | engine
  /-- A collective descriptor load (R351) into register t. -/
  | collLoad (t : Nat)
  /-- A membership record operation (R358): its sub-operation, the mask it proposed, and its STATUS. -/
  | member (sub mask status : Nat)
  deriving DecidableEq, Repr

/-- A part of an `abin`. -/
def Piece.isBin (p : Piece) : Bool :=
  match p.act with
  | .bin _ _ _ _ => true
  | _ => false

/-- An operation in flight: its name in issue order, the context, team and counter it belongs to, and its parts. -/
structure Op where
  id : Nat := 0
  uid : Nat := 0
  team : Nat := 0
  die : Nat := 0
  core : Nat := 0
  part : Nat := 0
  ctr : Nat := 0
  counted : Bool := true
  kind : OpKind := .store
  lease : Nat := 0
  pieces : List Piece := []
  wct : Nat := 0
  /-- BO to be set at retirement (R246). -/
  bo : Bool := false
  /-- The engine's work is complete. -/
  done : Bool := false
  /-- Wakes that the operation's engine writes caused and that are not yet acknowledged (R255). -/
  acks : Nat := 0
  /-- The handles (0 to 15), slots (100 and up) and accumulator tiles (200 and up) it names, in use until it retires
  (R316); 300 marks a drain to scratchpad (R327). -/
  uses : List Nat := []
  /-- The signature of a pass that read its slot (R322, R329). -/
  sig : Option Word64 := none
  /-- The trap that it owes at its retirement: a request of its engine met a forbidden port (R376), or an eviction refused its
  `abin` (R299). -/
  owes : Option Trap := none
  deriving DecidableEq, Repr

/-- A line in a first-level cache (R223, R227, R229): `core` is 128 × die + core; a leased copy has an expiry. -/
structure Line where
  core : Nat := 0
  line : Nat := 0
  data : List Byte := []
  priv : Bool := false
  dirty : Bool := false
  expiry : Nat := 0
  /-- The leaf entry a Private page's line was filled through. -/
  entry : Nat := 0
  deriving DecidableEq, Repr

/-- An arrival of evicted stripes whose values its owner adds one by one (R293): its sender, its page, and the values or bins
still to be added, by their offset in the page. -/
structure Arrival where
  fn : Nat := 0
  member : Nat := 0
  page : Nat := 0
  units : List (Nat × List Byte) := []
  deriving DecidableEq, Repr

/-- How far a monitor has come: its arm on the way, registered at home, its wake on the way, its acknowledgement on the
way, done (R253 to R255). -/
inductive MonPhase where
  | arming | armed | waking | acking | done
  deriving DecidableEq, Repr

/-- A condition monitor (R252 to R254).  It belongs to a lane of a context, or to the row of `age` of its team. -/
structure Mon where
  id : Nat := 0
  team : Nat := 0
  uid : Nat := 0
  lane : Nat := 0
  row : Option Nat := none
  key : Nat := 0
  len : Nat := 4
  subop : Nat := 0
  cmp : Word64 := 0
  phase : MonPhase := .arming
  /-- Marked fired while pending. -/
  fired : Bool := false
  /-- The operation and lane of the write that fired it, whose WCT waits for the acknowledgement (lane 32: an engine's
  write). -/
  cause : Option (Nat × Nat) := none
  /-- The home slice that holds it (R253). -/
  slice : Nat := 0
  /-- Held until the page of this leaf entry is reclassified (R226, R256). -/
  held : Option Nat := none
  moved : Nat := 0
  deriving DecidableEq, Repr

/-! ### Translation (14_translation_sharded_pages.md) -/

/-- A translation as a walk answers it (R271, R273, R282). -/
structure Leaf where
  pa : Nat := 0
  /-- log2 of the page size. -/
  bits : Nat := 12
  w : Bool := false
  x : Bool := false
  u : Bool := false
  cls : Nat := 0
  mt : Nat := 0
  gps : Nat := 0
  home : Nat := 0
  owner : Nat := 0
  a : Bool := false
  d : Bool := false
  /-- Where the stage-1 leaf entry lies, and the stage-2 one. -/
  entry : Nat := 0
  entry2 : Option Nat := none
  /-- Sixteen leaves merged into one, `entry` being the first (R275). -/
  merged : Bool := false
  /-- log2 of the stage-1 leaf's own size, and the stage-2 leaf entries that mapped the tables its walk read (R276). -/
  bits1 : Nat := 12
  tables : List Nat := []
  /-- log2 of the stage-2 leaf's own size (R238). -/
  bits2 : Nat := 12
  deriving DecidableEq, Repr

/-- The leaf was made from an entry, alone or among the sixteen of a merged translation (R275). -/
def Leaf.madeFrom (l : Leaf) (entry : Nat) : Bool := l.entry == entry || (l.merged && l.entry == entry / 128 * 128)

/-- A cached translation: of a core (`level` 1) or of a die (`level` 2) (R277). -/
structure TlbEntry where
  level : Nat := 1
  place : Nat := 0
  fn : Nat := 0
  /-- The virtual address whose walk the translation came from. -/
  base : Nat := 0
  leaf : Leaf := {}
  /-- When its walk's answer has come (R228). -/
  since : Nat := 0
  deriving DecidableEq, Repr

/-- The kinds of access that R285 and R291 tell apart. -/
inductive Want where
  | load | store | atomic | bin | mwait | fetch
  deriving DecidableEq, Repr

/-- What a walk ends in: a leaf; an entry with V = 0 at a level and stage, its PRQ bit and the page address in that
stage; a reserved bit at a level and stage, from GPS = 7 or not; or an entry in a poisoned line (R391). -/
inductive Walk where
  | leaf (l : Leaf)
  | missing (level : Nat) (stage2 prq : Bool) (page : Nat)
  | reserved (level : Nat) (stage2 gps7 : Bool)
  | poison (key : Nat)
  deriving DecidableEq, Repr

/-- As what an access touches its page (R224, R225): as no agent, as the core that it names, or as a second agent. -/
inductive Toucher where
  | nobody | core | engine
  deriving DecidableEq, Repr

/-- An access that is to be translated (R278): `who` names who makes it, `toucher` as what, and `at'` is when it missed. -/
structure Miss where
  die : Nat := 0
  core : Nat := 0
  fn : Nat := 0
  va : Nat := 0
  len : Nat := 1
  want : Want := .load
  priv : Bool := false
  who : Nat := 0
  toucher : Toucher := .core
  at' : Nat := 0
  deriving DecidableEq, Repr

/-- What the walk for an access that waited has come to; the answer is there from the time `since` on (R228, R278). -/
structure Walked where
  miss : Miss := {}
  res : Walk
  since : Nat := 0
  deriving DecidableEq, Repr

/-- A prefetch's lane that waits for a walk (R144, R278): the miss, and what its instruction gave it. -/
structure Pref where
  miss : Miss := {}
  uid : Nat := 0
  team : Nat := 0
  loc : Loc := {}
  mode : Word := 0
  d : Desc
  lane : Nat := 0
  va : Word64 := 0
  who : Nat := 0
  deriving DecidableEq, Repr

/-- An entry that a walk has read, or that a die's walk cache holds (R277): its level and stage, its place, its value, and whether it
was poisoned (R391); `since` is when the answer has come (R228). -/
structure WalkEntry where
  die : Nat := 0
  level : Nat := 0
  stage2 : Bool := false
  addr : Nat := 0
  entry : Nat := 0
  poisoned : Bool := false
  since : Nat := 0
  deriving DecidableEq, Repr

/-- A walk in progress in one of a die's 256 walkers, which carries both stages of an address (R278): the access it was begun
for, those that have joined it, the entries it has read so far, and when it moved last (R228). -/
structure Walker where
  first : Miss := {}
  joined : List Miss := []
  seen : List WalkEntry := []
  moved : Nat := 0
  deriving DecidableEq, Repr

/-- The translation registers of a function (R279), its event ring (R401) and its cache ways (R400). -/
structure Fn where
  tctl : Word := 0
  t1root : Word64 := 0
  t2root : Word64 := 0
  pcqbase : Word64 := 0
  pcqsize : Nat := 4
  pcqtail : Nat := 0
  pcqhead : Nat := 0
  prqbase : Word64 := 0
  prqsize : Nat := 4
  prqhead : Nat := 0
  prqtail : Nat := 0
  /-- The physical function's stage-2 request ring for this function. -/
  prq2base : Word64 := 0
  prq2size : Nat := 4
  prq2head : Nat := 0
  prq2tail : Nat := 0
  evqbase : Word64 := 0
  evqsize : Nat := 4
  evqhead : Nat := 0
  evqtail : Nat := 0
  evqlost : Nat := 0
  cwaymask : Word := 0xFFFF
  /-- MSI-X vectors signalled. -/
  msix : List Nat := []
  /-- The partition bound to it by FWMBOX op 2 (R399). -/
  part : Option Nat := none
  deriving DecidableEq, Repr

/-- A page request (R283). -/
structure PageReq where
  id : Nat := 0
  fn : Nat := 0
  stage2 : Bool := false
  page : Nat := 0
  write : Bool := false
  fetch : Bool := false
  level : Nat := 0
  /-- Its tag, once the record is written. -/
  tag : Option Nat := none
  /-- Answered: failed or resolved. -/
  answer : Option Bool := none
  deriving DecidableEq, Repr

/-- What a frame waits for: a gathered page of a function, or a page request (R264, R287). -/
inductive Await where
  | gather (fn page : Nat)
  | request (id : Nat)
  deriving DecidableEq, Repr

/-- A gather frame or page-request frame (R264, R287): `issue` names the faulting issue; `clause` stands at the faulting
instruction with its latch window. -/
structure Frame where
  issue : Nat := 0
  team : Nat := 0
  wait : Await := .request 0
  woken : Bool := false
  failed : Option (Nat × Bool) := none
  lane : Nat := 0
  acq : Nat := 32
  v : List Word := []
  p : List Bool := []
  s : Cells Word := []
  mode : Word := 0x31
  lastwct : Nat := 0
  clause : Clause := {}
  mon : Option Nat := none
  priv : Bool := false
  recipe : Option RecipeRun := none
  ckpt : Nat := 0
  who : Nat := 0
  regError : Bool := false
  deriving DecidableEq, Repr

/-! ### Shard groups (R288 to R295) -/

/-- An agreement round (R294): who proposed it and when, the proposed version and mask, and who has accepted. -/
structure Round where
  proposer : Nat := 0
  start : Nat := 0
  version : Nat := 0
  mask : Nat := 0
  accepted : Nat := 0
  deriving DecidableEq, Repr

/-- A tenant's shard-group descriptor (R288) with the group agent's state (R294, R352). -/
structure Shard where
  present : Bool := false
  group : Nat := 0
  version : Nat := 0
  members : Nat := 0
  self : Nat := 0
  stripe : Nat := 3
  timeout : Nat := 2000
  round : Option Round := none
  /-- Committed versions that wait for the swap-in of R380. -/
  pending : List (Nat × Nat) := []
  /-- When each member was last heard (R294). -/
  heard : List (Nat × Nat) := []
  lastBeat : Nat := 0
  seq : Nat := 0
  deriving DecidableEq, Repr

/-- A page the page agent manages: the Atlas entry's virtual address (R289). -/
structure AtlasRef where
  fn : Nat := 0
  page : Nat := 0
  addr : Nat := 0
  deriving DecidableEq, Repr

/-- A gather in progress (R264, R265). -/
structure Gather where
  fn : Nat := 0
  page : Nat := 0
  start : Nat := 0
  slow : Bool := false
  deriving DecidableEq, Repr

/-- A message sent to another member or to the supervisor of the group (R264, R292 to R294). -/
inductive Msg where
  | request (fn member page version : Nat) (stripes : List Nat)
  | reply (fn member page version : Nat) (answer : ReplyKind) (stripes : List (Nat × List Byte))
  | busy (fn member page : Nat)
  | reduce (fn member page : Nat) (stripes : List (Nat × List Byte))
  | ack (fn member page : Nat)
  | heartbeat (fn : Nat)
  | proposal (fn version mask : Nat)
  | accept (fn version proposer : Nat)
  | contribution (coll : Nat) (data : List Byte)
  | failed (coll err : Nat)
  deriving DecidableEq, Repr

/-- A stripe request held by a pre-empted tenant (R265). -/
structure Deferred where
  fn : Nat := 0
  member : Nat := 0
  page : Nat := 0
  version : Nat := 0
  stripes : List Nat := []
  /-- The evicted stripes of an arrival deferred instead of a request (R361). -/
  reduce : Option (List (Nat × List Byte)) := none
  deriving DecidableEq, Repr

/-! ### Partitions, queues and grids (19_launch_scheduling_partitions.md) -/

/-- The Meridian registers of a partition for one ring (R336). -/
structure MRing where
  itin : Nat := 0xFFFF
  rate : Nat := 1
  img : Word64 := 0
  deriving DecidableEq, Repr

/-- A partition's register block (R366) and its state in the rota (R377, R378). -/
structure Part where
  slices : Nat := 0
  state : Nat := 0
  quant : Nat := 0
  tcbbase : Word64 := 0
  count : Nat := 0
  hcnt : Nat := 0
  debt : Nat := 0
  vault : Nat := 0
  powner : Nat := 0
  psvec : Word64 := 0
  vwbase : Word64 := 0
  mrec : MRing := {}
  mrecW : MRing := {}
  mwgt : Nat := 1
  mpfa : Nat := 0
  /-- Laps taken on each ring; MLAP shows the latest one's number. -/
  laps : Nat := 0
  lapsW : Nat := 0
  credit : Int := 0
  creditW : Int := 0
  chosen : Option Nat := none
  quantStart : Nat := 0
  /-- What debt takes off the current quantum, in µs (R381). -/
  quantCut : Nat := 0
  haltAt : Option Nat := none
  haltedAt : Option Nat := none
  /-- Halted by the thermal stop (R408), with no deadline. -/
  thermal : Bool := false
  /-- The thermal stop came while it was swapped in: its context is restored as it resumes (R380, R408). -/
  entering : Bool := false
  /-- The watchdog has acted on this halt (R381). -/
  watched : Bool := false
  /-- When each of its slices halted, at key 8 × die + slice (R381). -/
  drained : List (Nat × Nat) := []
  /-- The vault units of its shadow storage (R379). -/
  shadow : Nat := 0
  deriving DecidableEq, Repr

/-- A launch queue (R370, R371). -/
structure Queue where
  part : Nat := 0
  owner : Nat := 0
  weight : Nat := 0
  sup : Bool := false
  en : Bool := false
  index : Nat := 0
  qerr : Nat := 0
  fifo : List Nat := []
  credit : Int := 0
  deriving DecidableEq, Repr

/-- A slice lent (R382, R383). -/
structure Loan where
  die : Nat := 0
  slice : Nat := 0
  lender : Nat := 0
  borrower : Nat := 0
  start : Nat := 0
  recallAt : Option Nat := none
  /-- When the borrower's clusters there had drained (R383). -/
  drainedAt : Option Nat := none
  deriving DecidableEq, Repr

/-! ### Rings and collectives (17_meridian_ring_collectives.md) -/

/-- A tile on a ring (R338): `seq` counts the ring's tiles, `lapId` its laps, and `idx` the tiles of its lap; `head` is the
stop of the ring head that injects it. -/
structure WireTile where
  seq : Nat := 0
  lapId : Nat := 0
  idx : Nat := 0
  head : Nat := 0
  part : Nat := 0
  lap : Nat := 0
  layer : Nat := 0
  tile : Nat := 0
  fmt : Nat := 0
  reason : Nat := 0
  bytes : List Byte := []
  side : List Byte := []
  deriving DecidableEq, Repr

/-- A ring: the lap in progress and its tiles in ring order with the next to emit, the effective denominator (R346), the
tiles on the wire, how far each stop's passing has come (2k: k tiles have passed; 2k + 1: the next is passing), and the
fill of each stop's capture buffer. -/
structure Ring where
  part : Option Nat := none
  lap : Nat := 0
  lapId : Nat := 0
  img : Nat := 0
  itin : Nat := 0xFFFF
  order : List (Nat × Nat) := []
  pos : Nat := 0
  r : Nat := 1
  /-- The ring has doubled it, and no calm lap has restored it (R346). -/
  slowed : Bool := false
  calm : Bool := true
  /-- A buffer has held more than 147,456 bytes since the ring last doubled it, and the count of its tiles then (R346). -/
  brimmed : Bool := false
  slowAt : Option Nat := none
  /-- Bytes of the next tile that its head has read already, by their offset in tile and side array (R360). -/
  got : List (Nat × List Byte) := []
  seq : Nat := 0
  wire : List WireTile := []
  passed : Cells Nat := []
  bufs : Cells Nat := []
  /-- The pages its heads wait on, and those whose request failed and that no tile has reported yet (R340): function, page,
  stage 2. -/
  asked : List (Nat × Nat × Bool) := []
  failed : List (Nat × Nat × Bool) := []
  deriving DecidableEq, Repr

/-- A collective (R352 to R357): its register, who has joined with which operation, and once started its descriptor,
sequence number and what has arrived. -/
structure Coll where
  id : Nat := 0
  team : Nat := 0
  t : Nat := 0
  obj : Nat := 0
  joined : List (Nat × Nat) := []
  started : Bool := false
  start : Nat := 0
  /-- Peer-slow has been raised for it (R357). -/
  slow : Bool := false
  seq : Nat := 0
  desc : Nat := 0
  members : Nat := 0
  self : Nat := 0
  /-- It runs over the links; nothing until the root switch answers (R355). -/
  link : Option Bool := none
  data : List (Nat × List Byte) := []
  /-- Bytes of its own source read before the rest, by their offset (R237). -/
  got : List (Nat × List Byte) := []
  /-- Ranges of its destination written before the rest, by offset and length; and that all is written, or after an error
  spoilt (R149, R357). -/
  put : List (Nat × Nat) := []
  /-- The merges by which an `addbin` adds the members' contributions, by element, as pairs of places among the partial sums that are
  left, fixed as the first bytes are written (R354, R355). -/
  orders : Option (List (Nat × List Nat)) := none
  placed : Bool := false
  spoilt : Bool := false
  bo : Bool := false
  err : Nat := 0
  /-- Pages an `evict` has still to see Sharded or Orphaned. -/
  pages : List Nat := []
  wct : Nat := 0
  acks : Nat := 0
  wait : Option (Nat × Bool) := none
  failed : List (Nat × Bool) := []
  /-- Arrivals its engine still owes its object (R356, R357). -/
  owed : Nat := 0
  complete : Bool := false
  deriving DecidableEq, Repr

/-! ### Reliability and the system (20_reliability_host_system.md) -/

/-- A record of the error log (R389). -/
structure LogRec where
  kind : Nat := 0
  src : Nat := 0
  seq : Nat := 0
  time : Nat := 0
  loc : Nat := 0
  data : Nat := 0
  deriving DecidableEq, Repr

/-- A Surveyor sample not yet replayed (R330, R394): its quad, its signature, and the bytes logged. -/
structure Sample where
  quad : Nat := 0
  pass : Bool := false
  sig : Word64 := 0
  bytes : List Byte := []
  deriving DecidableEq, Repr

/-- A die: its arithmetic clock in steps of 62.5 MHz, its share of the power, its temperature, whether the heat holds its
clock down (R407, R408), its CCARVE (R386). -/
structure Die where
  clock : Nat := 32
  share : Nat := 0
  temp : Nat := 30
  hot : Bool := false
  /-- CCARVE's TARGET as it was last written, and the number of units that the last write not refused asks for (R386). -/
  target : Nat := 0
  goal : Nat := 0
  cur : Nat := 0
  cstat : Nat := 0
  deriving DecidableEq, Repr

/-- The thermal stop (R408): running, halting, or with the clocks stopped. -/
inductive Heat where
  | run | halting | stopped
  deriving DecidableEq, Repr

/-- The package's system registers and firmware state (R388 to R409). -/
structure System where
  filter : Cells Bool := []
  bankrep : Cells Nat := []
  bankthr : Nat := 16
  log : List LogRec := []
  logSeq : Nat := 0
  svK : Nat := 20
  svEnp : Bool := false
  svEnw : Bool := false
  svdrop : Nat := 0
  samples : List Sample := []
  life : Cells Nat := []
  usage : Cells Nat := []
  hostatt : Nat := 0
  pbudget : Nat := 3200
  fwmbox : Cells Word := []
  links : Nat := 0
  powered : Bool := false
  booted : Bool := false
  images : List FirmwareImage := []
  rollback : Cells Nat := []
  attest : List Byte := []
  /-- The device attestation key: the private and the public half, from first boot on (R404). -/
  attKey : Option (BitVec 256 × BitVec 512) := none
  heat : Heat := .run
  /-- When the power arbiter last granted shares (R407). -/
  arbiter : Nat := 0
  /-- When the power went above the budget, and how long it stays at or below it after the last time (R407). -/
  excursion : Option Nat := none
  calmUntil : Nat := 0
  dies : Cells Die := []
  /-- Bank pages remapped by firmware (R406). -/
  remaps : List (Nat × Nat) := []
  /-- When each slice was last seen occupied (R382). -/
  sliceSeen : Cells Nat := []
  loans : List Loan := []
  /-- Vault units reserved for shadow storage (R379, R386). -/
  shadow : Nat := 0
  /-- When a group last left each core (R200), at key 128 × die + core. -/
  deadlock : Cells Nat := []
  /-- The group that took each pipe's last issue turn (R197), at key 8 × (128 × die + core) + pipe. -/
  issuer : Cells Nat := []
  /-- Commands taken and still in progress, in the order in which they were taken: the function of the ring, the slot and the
  bytes (R280). -/
  commands : List (Nat × Nat × List Byte) := []
  /-- A home migration in progress: the function, its page's leaf entry, the new die and address, the pass, and the lines
  stored to since the previous pass (R238). -/
  migration : Option (Nat × Nat × Nat × Nat × Nat) := none
  migLines : List Nat := []
  deriving DecidableEq, Repr

/-- A cluster placed (R372). -/
structure Cluster where
  clusid : Nat := 0
  die : Nat := 0
  slice : Nat := 0
  quad : Nat := 0
  start : Nat := 0
  deriving DecidableEq, Repr

/-- A grid in progress. -/
structure Grid where
  part : Nat := 0
  tcb : Nat := 0
  queue : Nat := 0
  owner : Nat := 0
  total : Nat := 0
  next : Nat := 0
  /-- Flashed-back clusters to place again (R380). -/
  again : List Nat := []
  kern : Kernel := {}
  clusters : List Cluster := []
  maxWct : Nat := 0
  /-- Its spill and checkpoint areas: offsets in the vault window, and lengths (R367). -/
  areas : List (Nat × Nat) := []
  deriving DecidableEq, Repr

/-! ### Faults and refusals -/

/-- Why the machine stops: for no reason at all, since the spec names none and every instruction has an effect. -/
inductive Fault where
  deriving DecidableEq, Repr

/-- Why a meaning is refused. -/
inductive Refusal where
  /-- The instruction has no meaning in the model: raised only by the arms of `exec` that say so.  Safe. -/
  | notModelled (mnemonic : String)
  deriving DecidableEq, Repr

/-! ### The turn list (log 3) -/

/-- What moves next: an event with what chooses it, a pipe with the fragment its scheduler took, a control thread, or
nothing for a while. -/
inductive Turn where
  | event (i : Instr) (args : EventArgs)
  | pipe (die core pipe : Nat) (frag : Nat)
  | thread (uid : Nat)
  | advance (ns : Nat)
  /-- An agent outside the package stores bytes, or reads where there are none (R225, R239, R296); the leaf entry is the page's,
  where it may be Private under two stages. -/
  | store (entry : Option Nat) (key : Nat) (bytes : List Byte)
  deriving DecidableEq, Repr

/-- The state of the package. -/
structure State where
  /-- Package time in ns (R9). -/
  time : Nat
  /-- What the current event was given (log 3). -/
  args : EventArgs
  turns : List Turn
  /-- Counters of the model: free values taken, and names given. -/
  free : Nat
  uids : Nat
  /-- The context that issues, and the others. -/
  cur : Ctx
  others : List Ctx
  teams : List Team
  /-- The generator S of each pipe, at key 8 × (128 × die + core) + pipe (R84). -/
  gens : Cells Word64
  /-- Main memory: key 2^48 × memory type + physical address (R270, R273). -/
  mem : Cells Byte
  /-- Poisoned lines, by key / 128 (R391). -/
  poison : List Nat
  lines : List Line
  /-- The latest lease E the home granted on each line (R231). -/
  leases : Cells Nat
  mons : List Mon
  ops : List Op
  fns : Cells Fn
  tlb : List TlbEntry
  walks : List WalkEntry
  /-- Walks in progress, and the misses that wait for a walker, in order of arrival (R278). -/
  walkers : List Walker
  misses : List Miss
  /-- What walks have come to, for the accesses that waited for them and have not gone on yet. -/
  walked : List Walked
  /-- Lanes of prefetches that wait for one. -/
  prefs : List Pref
  requests : List PageReq
  parts : Cells Part
  queues : Cells Queue
  grids : List Grid
  frames : List Frame
  /-- The shard group of each partition's tenant. -/
  shards : Cells Shard
  atlas : List AtlasRef
  gathers : List Gather
  deferred : List Deferred
  arrivals : List Arrival
  outbox : List Msg
  /-- CONNMAT, at key 8 × die + slice; a register nothing has written allows every port (R376, log 1). -/
  connmat : Cells Nat
  /-- Quads at key 32 × die + quad; the two rings; the collectives. -/
  quads : Cells Quad
  rings : Cells Ring
  colls : List Coll
  sys : System
  deriving DecidableEq, Repr

/-- The machine right after reset (R27, R279, R366, R370, R386, R388, R393, R399 to R401, R407, R409; log 1): nothing is
launched, nothing is mapped, and every register holds its reset value. -/
def State.reset : State :=
  { time := 0, args := {}, turns := [], free := 0, uids := 0, cur := {}, others := [], teams := [], gens := [], mem := [],
    poison := [], lines := [], leases := [], mons := [], ops := [], fns := [], tlb := [], walks := [], walkers := [], misses := [], walked := [], prefs := [], requests := [],
    parts := [], queues := [], grids := [], frames := [], shards := [], atlas := [], gathers := [], deferred := [], arrivals := [],
    outbox := [], connmat := [], quads := [], rings := [], colls := [], sys := {} }

end Sys2Proof.Machine
end

