-- ==== Sys2Proof/Machine/Mem.lean ====
section
/-! DEFINITION. Bytes of main memory and of byte lists, in little-endian order (R7), and the tables of numbered
registers of State. -/

namespace Sys2Proof.Machine

/-- The number a little-endian list of bytes stands for (R7). -/
def leNat : List Byte → Nat
  | [] => 0
  | b :: bs => b.toNat + 256 * leNat bs

/-- The low `n` bytes of a number, little-endian. -/
def natLE : Nat → Nat → List Byte
  | 0, _ => []
  | n + 1, x => BitVec.ofNat 8 x :: natLE n (x / 256)

/-- Bits `[hi:lo]` of a number. -/
def fld (x hi lo : Nat) : Nat := x / 2 ^ lo % 2 ^ (hi + 1 - lo)

/-- A number with bits `[hi:lo]` replaced. -/
def setFld (x hi lo v : Nat) : Nat :=
  x - fld x hi lo * 2 ^ lo + v % 2 ^ (hi + 1 - lo) * 2 ^ lo

/-- Bit k of a predicate. -/
def bitOf (x k : Nat) : Bool := x / 2 ^ k % 2 = 1

/-- The bits set in a predicate of n bits, ascending. -/
def bitsOf (x n : Nat) : List Nat := (List.range n).filter (bitOf x)

/-- The place of a physical byte: memory types 0 HBM, 1 vault, 2 host (R273). -/
def memKey (mt pa : Nat) : Nat := mt * 2 ^ 48 + pa

/-- The canonical form of a memory (log 2): keys strictly rise, and no entry is the 0 that an unlisted byte reads. -/
def Memory.wf (m : Cells Byte) : Bool := Cells.wf 0 m

/-- One byte of main memory; an unlisted byte reads 0 (log 2). -/
def State.byteAt (s : State) (key : Nat) : Byte := Cells.get 0 s.mem key

def State.readBytes (s : State) (key n : Nat) : List Byte := Cells.getMany 0 s.mem key n

def State.readLE (s : State) (key n : Nat) : Nat := leNat (s.readBytes key n)

def State.writeBytes (s : State) (key : Nat) (bs : List Byte) : State :=
  { s with mem := Cells.setMany 0 s.mem key bs }

def State.writeLE (s : State) (key n x : Nat) : State := s.writeBytes key (natLE n x)

/-- The line of a byte (R223). -/
def lineOf (key : Nat) : Nat := key / 128

/-- A byte range touches a poisoned line (R391). -/
def State.poisoned (s : State) (key n : Nat) : Bool := s.poison.any (fun l => key < l * 128 + 128 && l * 128 < key + n)

/-- A list with the elements from `off` on replaced by `xs`. -/
def patch {α : Type} (bs : List α) (off : Nat) (xs : List α) : List α :=
  bs.take off ++ xs ++ bs.drop (off + xs.length)

/-- The elements of a list from `off`, `n` of them. -/
def slice {α : Type} (bs : List α) (off n : Nat) : List α := (bs.drop off).take n

/-- An element put before the first that it does not follow. -/
def insertBy {α : Type} (le : α → α → Bool) (x : α) : List α → List α
  | [] => [x]
  | y :: ys => if le x y then x :: y :: ys else y :: insertBy le x ys

/-- A list sorted by an order; equal elements keep theirs. -/
def sortBy {α : Type} (le : α → α → Bool) : List α → List α
  | [] => []
  | x :: xs => insertBy le x (sortBy le xs)

/-! ### Records of State by number -/

def State.fn (s : State) (n : Nat) : Fn := Cells.get {} s.fns n
def State.setFn (s : State) (n : Nat) (f : Fn) : State := { s with fns := Cells.set {} s.fns n f }
def State.part (s : State) (n : Nat) : Part := Cells.get {} s.parts n
def State.setPart (s : State) (n : Nat) (p : Part) : State := { s with parts := Cells.set {} s.parts n p }
def State.queue (s : State) (n : Nat) : Queue := Cells.get {} s.queues n
def State.setQueue (s : State) (n : Nat) (q : Queue) : State := { s with queues := Cells.set {} s.queues n q }

/-- The team of an id; an empty team where there is none. -/
def State.team (s : State) (id : Nat) : Team := (s.teams.find? (·.id == id)).getD {}

/-- A team replaced under its id. -/
def State.setTeam (s : State) (t : Team) : State :=
  { s with teams := s.teams.map (fun u => if u.id == t.id then t else u) }

/-- The function bound to a partition (R399): the lowest-numbered one. -/
def State.fnOfPart (s : State) (p : Nat) : Nat :=
  ((s.fns.find? (fun e => e.2.part == some p)).map (·.1)).getD 0

/-- The context of a uid, wherever it stands. -/
def State.ctx (s : State) (uid : Nat) : Option Ctx :=
  if s.cur.uid == uid then some s.cur else s.others.find? (·.uid == uid)

/-- The lane of the launch that a lane goes on from (R260). -/
def Ctx.whoOf (c : Ctx) (i : Nat) : Nat := c.whos.getD i (32 * c.uid + i)

/-- A context replaced under its uid. -/
def State.setCtx (s : State) (c : Ctx) : State :=
  if s.cur.uid == c.uid then { s with cur := c }
  else { s with others := s.others.map (fun d => if d.uid == c.uid then c else d) }

/-- Every context: the one that issues and the others. -/
def State.ctxs (s : State) : List Ctx := (if s.cur.uid = 0 then [] else [s.cur]) ++ s.others

/-- The context `uid` becomes the one that issues. -/
def State.focus (s : State) (uid : Nat) : State :=
  if s.cur.uid == uid then s
  else match s.others.find? (·.uid == uid) with
    | none => s
    | some c =>
      { s with cur := c, others := (if s.cur.uid = 0 then [] else [s.cur]) ++ s.others.filter (·.uid != uid) }

/-- A context taken away; another becomes the one that issues, if there is any. -/
def State.dropCtx (s : State) (uid : Nat) : State :=
  let rest := s.others.filter (·.uid != uid)
  if s.cur.uid == uid then
    match rest with
    | [] => { s with cur := {}, others := [] }
    | c :: cs => { s with cur := c, others := cs }
  else { s with others := rest }

/-- A free value's number: a counter that each use advances (log 3). -/
def State.takeFree (s : State) : Nat × State := (s.free, { s with free := s.free + 1 })

end Sys2Proof.Machine
end

