-- ==== Sys2Proof/Machine/Binned.lean ====
section
/-! DEFINITION. Binned values (R87 to R89) and format records (R90, R91). -/

namespace Sys2Proof.Machine

/-! ### Format records -/

/-- Fields of a format record word (R90). -/
def fmtKind (r : Nat) : Nat := fld r 3 0
def fmtGroup (r : Nat) : Nat := fld r 6 4
def fmtEmax (r : Nat) : Nat := fld r 15 8

/-- A format record that R91's table allows. -/
def fmtLegal (r : Nat) : Bool :=
  fld r 7 7 = 0 && fld r 31 16 = 0 &&
  (match fmtKind r with
   | 0 | 1 | 2 | 3 | 4 | 5 | 6 => fmtGroup r = 0 && fmtEmax r = 0
   | 7 | 8 => 1 ≤ fmtGroup r && fmtGroup r ≤ 4 && fmtEmax r = 0
   | 9 | 10 => fmtGroup r = 2 && fmtEmax r = 0
   | 11 => fmtGroup r = 0 && 1 ≤ fmtEmax r && fmtEmax r ≤ 254
   | _ => false)

/-- Legal as matrix A, and as matrix B (R91). -/
def fmtLegalA (r : Nat) : Bool := fmtLegal r && 1 ≤ fmtKind r && fmtKind r ≤ 10
def fmtLegalB (r : Nat) : Bool := fmtLegal r && 3 ≤ fmtKind r && fmtKind r ≤ 10

/-- A legal BIN record (R91, R246). -/
def fmtLegalBin (r : Nat) : Bool := fmtLegal r && fmtKind r = 11

/-- The group length of a GROUP code, 0 for none (R90). -/
def groupLen (r : Nat) : Nat :=
  match fmtGroup r with
  | 1 => 32 | 2 => 48 | 3 => 64 | 4 => 128 | _ => 0

/-- The block length along K of R313 BLK. -/
def fmtBlock (r : Nat) : Nat :=
  match fmtKind r with
  | 1 | 2 | 9 | 10 => 48
  | 7 | 8 => groupLen r
  | _ => 0

/-! ### Binned values -/

/-- The NaN marker of bin 0 (R87). -/
def nanMarker : Nat := 2 ^ 63

/-- A 64-bit pattern as a signed number, and back. -/
def toI64 (x : Nat) : Int := (word64 x).toInt
def ofI64 (x : Int) : Nat := (BitVec.ofInt 64 x).toNat

/-- satAdd64: the sum clamped to ±(2^63 − 1), and whether it clamped (R88). -/
def satAdd64 (a b : Int) : Int × Bool :=
  let m : Int := (2 ^ 63 : Nat) - 1
  let x := a + b
  if x > m then (m, true) else if x < -m then (-m, true) else (x, false)

/-- The split of a contribution in its lane (R88): the deltas of the bins, or the NaN marker, and the flags. -/
def binSplit (f : Fmt) (emax code : Nat) : (Bool × Int × Int × Int) × Word :=
  match f.read code with
  | .nan _ => ((true, 0, 0, 0), fIV)
  | .inf neg => (digits neg (2 ^ 72 - 1), fBO)
  | .fin neg n d =>
    -- |x| / u with u = 2 ^ (emax − 127 − 71)
    let (n, d) := if emax ≤ 198 then (n * 2 ^ (198 - emax), d) else (n, d * 2 ^ (emax - 198))
    let q := n / d
    let r := n % d
    let q := if 2 * r > d || (2 * r = d && q % 2 = 1) then q + 1 else q
    if q > 2 ^ 72 - 1 then
      (digits neg (2 ^ 72 - 1), fBO ||| (if (2 ^ 72 - 1) * d == n then 0 else fNX))
    else (digits neg q, if q * d == n then 0 else fNX)
where
  digits (neg : Bool) (q : Nat) : Bool × Int × Int × Int :=
    let sg : Int := if neg then -1 else 1
    (false, sg * (q / 2 ^ 48 : Nat), sg * (q / 2 ^ 24 % 2 ^ 24 : Nat), sg * (q % 2 ^ 24 : Nat))

/-- Adds deltas to the three bins of 24 bytes, and whether a bin clamped (R88). -/
def binAdd (old : List Byte) (nan : Bool) (d0 d1 d2 : Int) : List Byte × Bool :=
  let b0 := leNat (slice old 0 8)
  let b1 := leNat (slice old 8 8)
  let b2 := leNat (slice old 16 8)
  if b0 == nanMarker then (old, false)
  else if nan then (natLE 8 nanMarker ++ natLE 8 b1 ++ natLE 8 b2, false)
  else
    let r0 := satAdd64 (toI64 b0) d0
    let r1 := satAdd64 (toI64 b1) d1
    let r2 := satAdd64 (toI64 b2) d2
    (natLE 8 (ofI64 r0.1) ++ natLE 8 (ofI64 r1.1) ++ natLE 8 (ofI64 r2.1), r0.2 || r1.2 || r2.2)

/-- The total of a binned value as an exact number (R89): its bins over u = 2 ^ (emax − 127 − 71), with emax as the format
record holds it; nothing where bin 0 holds the NaN marker. -/
def binTotal (emax : Nat) (v : List Byte) : Option Exact :=
  if leNat (slice v 0 8) == nanMarker then none
  else
    let t := toI64 (leNat (slice v 0 8)) * 2 ^ 48 + toI64 (leNat (slice v 8 8)) * 2 ^ 24 + toI64 (leNat (slice v 16 8))
    if t = 0 then some (.zero false)
    else if emax ≤ 198 then some (.real (decide (t < 0)) t.natAbs (2 ^ (198 - emax)))
    else some (.real (decide (t < 0)) (t.natAbs * 2 ^ (emax - 198)) 1)

/-- A binned value read as FP32 (R81, R89): the canonical NaN for the marker, else the total rounded by RNE, with OF where it
overflows. -/
def binRead (emax : Nat) (v : List Byte) : Rounded :=
  match binTotal emax v with
  | none => ⟨fp32.nan, 0, 0⟩
  | some x => fp32.round .rne false 0 x

/-- The addition of an arriving bin to a held one, as reductions make it (R293): `first` is bin 0, whose NaN marker
stays. -/
def binMerge (first : Bool) (held arriving : Nat) : Nat × Bool :=
  if first && (held == nanMarker || arriving == nanMarker) then (nanMarker, false)
  else
    let r := satAdd64 (toI64 held) (toI64 arriving)
    (ofI64 r.1, r.2)

end Sys2Proof.Machine
end

