-- ==== Sys2Proof/Machine/Xlate.lean ====
section
/-! DEFINITION. The translation walk (R270 to R276, R282, R410) the translation caches (R277), and the
merging of sixteen leaves (R275). -/

namespace Sys2Proof.Machine

def Want.writes : Want → Bool
  | .store | .atomic | .bin => true
  | _ => false

/-- The place of the poisoned entry that a walk met. -/
def Walk.bad? : Walk → Option Nat
  | .poison key => some key
  | _ => none

/-- The page size of a leaf at a level, as log2 (R271). -/
def leafBits (lvl : Nat) (g64 : Bool) : Nat := if g64 then 16 else if lvl = 1 then 12 else 21

/-- The index into a table at a level (R270). -/
def walkIdx (va lvl : Nat) (g64 : Bool) : Nat := if g64 then fld va 20 16 else fld va (12 + 9 * lvl - 1) (3 + 9 * lvl)

/-- ADDR is not aligned to the leaf size (R274). -/
def leafMisaligned (e bits : Nat) : Bool :=
  if bits = 16 then fld e 31 28 != 0 else if bits = 21 then fld e 36 28 != 0 else false

/-- An address outside its memory type's range (R274). -/
def addrOutOfRange (mt pa : Nat) : Bool := (mt = 0 && 2 ^ 40 ≤ pa) || (mt = 1 && 2 ^ 31 ≤ pa)

/-- The conditions on the kind of page (R274): they are made on the combined translation with two stages (R410). -/
def kindBad (mt cls gps : Nat) : Bool :=
  ((mt = 1 || mt = 2) && cls != 3) || (gps != 0 && (mt != 0 || cls < 2))

/-- A table entry that R274 refuses at a level. -/
def tableBad (e lvl : Nat) (g64 : Bool) : Bool :=
  if lvl = 1 || g64 then true
  else fld e 27 3 != 0 || (lvl ≥ 3 && fld e 2 2 = 1)

/-- A stage-1 leaf that R274 refuses; with two stages only R410's part is checked. -/
def leaf1Bad (e bits : Nat) (s2 : Bool) : Bool :=
  leafMisaligned e bits || fld e 12 10 = 7 || (fld e 25 16 != 0 && fld e 7 6 != 1) ||
    (!s2 && (fld e 9 8 = 3 || kindBad (fld e 9 8) (fld e 7 6) (fld e 12 10)
      || addrOutOfRange (fld e 9 8) (fld e 63 28 * 4096)))

/-- A stage-2 leaf that R274 and R410 refuse. -/
def leaf2Bad (e bits : Nat) : Bool :=
  leafMisaligned e bits || fld e 7 6 != 0 || fld e 12 10 != 0 || fld e 25 16 != 0 || fld e 4 4 = 1
    || fld e 9 8 = 3 || addrOutOfRange (fld e 9 8) (fld e 63 28 * 4096)

/-- The leaf an entry describes, for an address. -/
def leafOf (e bits va key : Nat) : Leaf :=
  { pa := fld e 63 28 * 4096 + va % 2 ^ bits, bits, w := fld e 2 2 = 1, x := fld e 3 3 = 1, u := fld e 4 4 = 1,
    cls := fld e 7 6, mt := fld e 9 8, gps := fld e 12 10, home := fld e 15 13, owner := fld e 25 16,
    a := fld e 26 26 = 1, d := fld e 27 27 = 1, entry := key, bits1 := bits }

/-- A table address in HBM that is not there: HBM ends at 2^40 (R2, R274). -/
def tableAbsent (key : Nat) : Bool := 2 ^ 40 ≤ key && key < 2 ^ 48

/-- The entry of a level and stage at a place, among those that are held. -/
def heldEntry (l : List WalkEntry) (die lvl : Nat) (stage2 : Bool) (key : Nat) : Option WalkEntry :=
  l.find? (fun w => w.die == die && w.level == lvl && w.stage2 == stage2 && w.addr == key)

/-- A table entry at its home; a free value where no HBM is (log 7). -/
def State.homeEntry (s : State) (key : Nat) : Nat := if tableAbsent key then (Config.absentEntry key).toNat else s.readLE key 8

/-- A table entry as a walk has it: as it was read, where it has been, else from its home. -/
def State.tableEntry (s : State) (die lvl : Nat) (stage2 : Bool) (key : Nat) : Nat :=
  match heldEntry s.walks die lvl stage2 key with
  | some w => w.entry
  | none => s.homeEntry key

/-- A table entry that a walk reads lies in a poisoned line (R391). -/
def State.tablePoisoned (s : State) (die lvl : Nat) (stage2 : Bool) (key : Nat) : Bool :=
  match heldEntry s.walks die lvl stage2 key with
  | some w => w.poisoned
  | none => !tableAbsent key && s.poisoned key 8

/-- A stage-2 walk of a guest physical address from level `lvl` (R282). -/
def State.walk2 (s : State) (die gpa : Nat) : Nat → Nat → Bool → Walk
  | 0, _, _ => .reserved 0 true false
  | lvl + 1, t, g64 =>
    let key := t + 8 * walkIdx gpa (lvl + 1) g64
    let e := s.tableEntry die (lvl + 1) true key
    if s.tablePoisoned die (lvl + 1) true key then .poison key
    else if fld e 0 0 = 0 then .missing (lvl + 1) true true (gpa / 4096 * 4096)
    else if fld e 1 1 = 1 then
      if lvl + 1 ≥ 3 then .reserved (lvl + 1) true false
      else
        let bits := leafBits (lvl + 1) g64
        if leaf2Bad e bits then .reserved (lvl + 1) true (fld e 12 10 = 7)
        else .leaf (leafOf e bits gpa key)
    else if tableBad e (lvl + 1) g64 then .reserved (lvl + 1) true false
    else s.walk2 die gpa lvl (fld e 63 28 * 4096) (lvl + 1 = 2 && fld e 2 2 = 1)

/-- Translates an address the stage-1 walk reads: itself without stage 2 (R271, R282). -/
def State.stage2 (s : State) (f : Fn) (die gpa : Nat) : Walk :=
  if fld f.tctl.toNat 1 1 = 1 then s.walk2 die gpa 4 (fld f.t2root.toNat 47 12 * 4096) false
  else .leaf { pa := gpa }

/-- The level of the leaf that a stage-2 translation of a page size came from (R410). -/
def levelOfBits (bits : Nat) : Nat := if bits = 12 then 1 else if bits = 16 then 1 else 2

/-- The two stages combined (R282, R410). -/
def combine (l1 l2 : Leaf) : Walk :=
  if kindBad l2.mt l1.cls l1.gps then .reserved (levelOfBits l2.bits) true false
  else .leaf { l1 with pa := l2.pa, bits := min l1.bits l2.bits, w := l1.w && l2.w, x := l1.x && l2.x, mt := l2.mt,
                       home := l2.home, a := l1.a && l2.a, d := l1.d && l2.d, entry2 := some l2.entry, bits2 := l2.bits }

/-- log2 of the size of the page that the home migration of a leaf moves: of the leaf that names the physical page (R238). -/
def Leaf.homeBits (l : Leaf) : Nat := if l.entry2.isSome then l.bits2 else l.bits

/-- A stage-1 walk from level `lvl` (R271); `tabs` are the stage-2 leaf entries that mapped the tables read so far. -/
def State.walk1 (s : State) (f : Fn) (die va : Nat) : Nat → Nat → Bool → List Nat → Walk
  | 0, _, _, _ => .reserved 0 false false
  | lvl + 1, t, g64, tabs =>
    let two := fld f.tctl.toNat 1 1 = 1
    match s.stage2 f die (t + 8 * walkIdx va (lvl + 1) g64) with
    | .leaf l =>
      let key := memKey l.mt l.pa
      let tabs := if two then tabs ++ [l.entry] else tabs
      let e := s.tableEntry die (lvl + 1) false key
      if s.tablePoisoned die (lvl + 1) false key then .poison key
      else if fld e 0 0 = 0 then .missing (lvl + 1) false (fld e 2 2 = 1) (va / 4096 * 4096)
      else if fld e 1 1 = 1 then
        if lvl + 1 ≥ 3 then .reserved (lvl + 1) false false
        else
          let bits := leafBits (lvl + 1) g64
          if leaf1Bad e bits two then .reserved (lvl + 1) false (fld e 12 10 = 7)
          else
            let l1 := { leafOf e bits va key with tables := tabs.eraseDups }
            if two then
              match s.stage2 f die l1.pa with
              | .leaf l2 => combine l1 l2
              | w => w
            else .leaf l1
      else if tableBad e (lvl + 1) g64 then .reserved (lvl + 1) false false
      else s.walk1 f die va lvl (fld e 63 28 * 4096) (lvl + 1 = 2 && fld e 2 2 = 1) tabs
    | w => w

/-- The whole walk of a virtual address of a function (R271, R282), past every cache. -/
def State.walkFresh (s : State) (fn die va : Nat) : Walk :=
  let f := s.fn fn
  State.walk1 { s with walks := [] } f die va 5 (fld f.t1root.toNat 47 12 * 4096) false []

/-- A core's number in the package (R273 OWNER). -/
def coreNo (die core : Nat) : Nat := 128 * die + core

/-- Two records are of one access, whenever it missed. -/
def Miss.same (m k : Miss) : Bool := { m with at' := 0 } == { k with at' := 0 }

/-- A cached translation an access may use without an update of its leaf's A or D (R276). -/
def settled (write : Bool) (l : Leaf) : Bool := l.a && (l.d || !write)

/-- The page of a translation has the class in which the access can go on (R224, R225): an access of a core needs a page that has
been claimed or shared, and a fetch one that is not another core's; an access of another agent needs a Shared page, but an arm is
held on a Private one until that is reclassified (R256). -/
def Miss.classFits (m : Miss) (l : Leaf) : Bool :=
  match m.toucher with
  | .nobody => true
  | .core => l.cls != 0 && (m.want != .fetch || l.cls != 1 || l.owner == coreNo m.die m.core)
  | .engine => 2 ≤ l.cls || (l.cls = 1 && m.want == .mwait)

/-- A cached translation serves an access: no bit of its leaf is to be set (R276), and none of its page's class (R224, R225). -/
def Miss.served (m : Miss) (l : Leaf) : Bool := settled m.want.writes l && m.classFits l

/-- A cached translation that covers an access (R277), as a leaf for its address, where its walk's answer has come (R228). -/
def State.cached (s : State) (level place : Nat) (m : Miss) : Option Leaf :=
  (s.tlb.find? (fun e => e.level == level && e.place == place && e.fn == m.fn && e.since ≤ s.time
    && e.base / 2 ^ e.leaf.bits == m.va / 2 ^ e.leaf.bits)).map
    (fun e => { e.leaf with pa := e.leaf.pa - e.base % 2 ^ e.leaf.bits + m.va % 2 ^ e.leaf.bits })

/-- What the walk for an access has come to, where its answer has come (R228, R278). -/
def State.walkAnswer (s : State) (m : Miss) : Option Walk :=
  (s.walked.find? (fun r => r.miss.same m && r.since ≤ s.time)).map (·.res)

/-- The translation an access uses: that of its own walk, else one that its core's first-level cache holds, else its die's (R277);
nothing where it misses, or where a bit of the leaf must be set first (R276). -/
def State.xlate (s : State) (m : Miss) : Option Walk :=
  match s.walkAnswer m with
  | some w => some w
  | none => match (s.cached 1 (coreNo m.die m.core) m).filter m.served with
    | some l => some (.leaf l)
    | none => ((s.cached 2 m.die m).filter m.served).map .leaf

/-- The translation of an engine that has no cache: a fresh walk. -/
def State.xlateFresh (s : State) (fn va : Nat) : Walk := s.walkFresh fn 0 va

/-- Keeps the first `n` entries that satisfy a test, and all the others. -/
def keepFirst {α : Type} (p : α → Bool) : Nat → List α → List α
  | _, [] => []
  | n, x :: xs => if p x then (if n = 0 then keepFirst p 0 xs else x :: keepFirst p (n - 1) xs) else x :: keepFirst p n xs

/-- Caches a translation in the core's cache of 64 and the die's of 4,096, the oldest leaving (R277): it is there as the answer of
its walk comes, which is later than the walk's reads (R228). -/
def State.cache (s : State) (fn die core va : Nat) (l : Leaf) : State :=
  let place := coreNo die core
  let others := s.tlb.filter (fun e => !(((e.level == 1 && e.place == place) || (e.level == 2 && e.place == die))
    && e.fn == fn && e.base / 2 ^ e.leaf.bits == va / 2 ^ e.leaf.bits))
  let new := [⟨1, place, fn, va, l, s.time + 1⟩, ⟨2, die, fn, va, l, s.time + 1⟩]
  let trimmed := keepFirst (fun e : TlbEntry => e.level == 1 && e.place == place) 64 (new ++ others)
  { s with tlb := keepFirst (fun e : TlbEntry => e.level == 2 && e.place == die) 4096 trimmed }

/-- A walk of a function has come to a leaf for which a test holds, or to no leaf: an access that it answers misses again, as after
any walk (R277), where such translations are dropped. -/
def Walked.hit (r : Walked) (fn : Nat → Bool) (leaf : Nat → Leaf → Bool) : Bool :=
  fn r.miss.fn && (match r.res with
    | .leaf l => leaf r.miss.va l
    | _ => true)

/-- Drops the translations of some functions for which a test of an address of the page and of the leaf holds: those cached, and
those that walks have answered; a walk in progress reads its tables again. -/
def State.dropHits (s : State) (fn : Nat → Bool) (leaf : Nat → Leaf → Bool) : State :=
  { s with tlb := s.tlb.filter (fun e => !(fn e.fn && leaf e.base e.leaf)), walked := s.walked.filter (fun r => !r.hit fn leaf),
           walkers := s.walkers.map (fun w => if fn w.first.fn then { w with seen := [] } else w) }

/-- Drops every translation of a function that covers an address (R296). -/
def State.uncache (s : State) (fn va : Nat) : State :=
  s.dropHits (· == fn) (fun base l => base / 2 ^ l.bits == va / 2 ^ l.bits)

/-- Drops every translation made from a leaf entry (R226 step 4). -/
def State.uncacheEntry (s : State) (entry : Nat) : State :=
  { s with tlb := s.tlb.filter (fun e => !e.leaf.madeFrom entry),
           walked := s.walked.filter (fun r => match r.res with | .leaf l => !l.madeFrom entry | _ => true) }

/-! ### The reads of a walk (R271, R277, R282) -/

/-- What a stage-2 walk of a guest physical address reads, in order: level, stage and place. -/
def State.reads2 (s : State) (die gpa : Nat) : Nat → Nat → Bool → List (Nat × Bool × Nat)
  | 0, _, _ => []
  | lvl + 1, t, g64 =>
    let key := t + 8 * walkIdx gpa (lvl + 1) g64
    let e := s.tableEntry die (lvl + 1) true key
    (lvl + 1, true, key) ::
      (if s.tablePoisoned die (lvl + 1) true key || fld e 1 0 != 1 || tableBad e (lvl + 1) g64 then []
       else s.reads2 die gpa lvl (fld e 63 28 * 4096) (lvl + 1 = 2 && fld e 2 2 = 1))

/-- What the translation of an address that stage 1 reads or ends in reads. -/
def State.guestReads (s : State) (f : Fn) (die gpa : Nat) : List (Nat × Bool × Nat) :=
  if fld f.tctl.toNat 1 1 = 1 then s.reads2 die gpa 4 (fld f.t2root.toNat 47 12 * 4096) false else []

/-- What a walk of an address reads, in order. -/
def State.reads1 (s : State) (f : Fn) (die va : Nat) : Nat → Nat → Bool → List (Nat × Bool × Nat)
  | 0, _, _ => []
  | lvl + 1, t, g64 =>
    let gpa := t + 8 * walkIdx va (lvl + 1) g64
    s.guestReads f die gpa ++
      (match s.stage2 f die gpa with
       | .leaf l =>
         let key := memKey l.mt l.pa
         let e := s.tableEntry die (lvl + 1) false key
         (lvl + 1, false, key) ::
           (if s.tablePoisoned die (lvl + 1) false key || fld e 0 0 = 0 then []
            else if fld e 1 1 = 1 then
              let bits := leafBits (lvl + 1) g64
              if 3 ≤ lvl + 1 || leaf1Bad e bits (fld f.tctl.toNat 1 1 = 1) then [] else s.guestReads f die (leafOf e bits va key).pa
            else if tableBad e (lvl + 1) g64 then []
            else s.reads1 f die va lvl (fld e 63 28 * 4096) (lvl + 1 = 2 && fld e 2 2 = 1))
       | _ => [])

/-- The next entry that a walk which has read some is to read. -/
def State.nextRead (s : State) (m : Miss) (seen : List WalkEntry) : Option (Nat × Bool × Nat) :=
  let f := s.fn m.fn
  (State.reads1 { s with walks := seen } f m.die m.va 5 (fld f.t1root.toNat 47 12 * 4096) false).find?
    (fun r => (heldEntry seen m.die r.1 r.2.1 r.2.2).isNone)

/-- What a walk of an address has come to, of the entries that have been read. -/
def State.walkOn (s : State) (seen : List WalkEntry) (fn die va : Nat) : Walk :=
  let f := s.fn fn
  State.walk1 { s with walks := seen } f die va 5 (fld f.t1root.toNat 47 12 * 4096) false []

/-- An entry that leads a walk on to another table. -/
def WalkEntry.isTable (e : WalkEntry) : Bool := 2 ≤ e.level && !e.poisoned && fld e.entry 1 0 = 1 && !tableBad e.entry e.level false

/-- Caches the table entries that a walk has read, 128 for each level and stage of a die (R277); they are there as their answers have
come (R228). -/
def State.cacheWalk (s : State) (die : Nat) (seen : List WalkEntry) : State :=
  let new := ((seen.filter (fun e => e.isTable && !tableAbsent e.addr)).map (fun e => { e with since := s.time + 1 })).eraseDups
  let old := s.walks.filter (fun w => (heldEntry new w.die w.level w.stage2 w.addr).isNone)
  let cut := fun (l : List WalkEntry) (k : Nat × Bool) =>
    keepFirst (fun w : WalkEntry => w.die == die && w.level == k.1 && w.stage2 == k.2) 128 l
  { s with walks := [(2, false), (3, false), (4, false), (5, false), (2, true), (3, true), (4, true)].foldl cut (new ++ old) }

/-- The caches of a core and its die lose what they hold for an address: no hit is promised (R277). -/
def State.forget (s : State) (fn die core va : Nat) : State :=
  let place := coreNo die core
  { s with walks := s.walks.filter (·.die != die),
           tlb := s.tlb.filter (fun e => !(((e.level == 1 && e.place == place) || (e.level == 2 && e.place == die))
             && e.fn == fn && e.base / 2 ^ e.leaf.bits == va / 2 ^ e.leaf.bits)) }

/-! ### Walkers (R278) -/

/-- The 4 KiB page of a miss. -/
def Miss.page (m : Miss) : Nat := m.va / 4096

/-- A walk in progress is of a miss's page, function and die. -/
def Walker.covers (w : Walker) (m : Miss) : Bool := w.first.die == m.die && w.first.fn == m.fn && w.first.page == m.page

/-- The misses that a walk in progress serves. -/
def Walker.all (w : Walker) : List Miss := w.first :: w.joined

/-- An access waits: for a walk in progress, for a walker, or for the answer that a walk has sent. -/
def State.pending (s : State) (m : Miss) : Bool :=
  s.walkers.any (·.all.any (·.same m)) || s.misses.any (·.same m) || s.walked.any (fun r => r.miss.same m && s.time < r.since)

/-- A miss begins a walk, joins the one of its page that is in progress, or waits for a walker; one that waits already goes on
waiting. -/
def State.miss (s : State) (m : Miss) : State :=
  let m := { m with at' := s.time }
  if s.pending m then s
  else if s.walkers.any (·.covers m) then
    { s with walkers := s.walkers.map (fun w => if w.covers m then { w with joined := w.joined ++ [m] } else w) }
  else if (s.walkers.filter (·.first.die == m.die)).length < 256 then { s with walkers := s.walkers ++ [{ first := m, moved := s.time }] }
  else { s with misses := s.misses ++ [m] }

/-- A walker goes on: it takes what its die's walk caches hold, up to the next entry that it must read at its home, as a strong load
is read there (R271). -/
def State.readOn (s : State) (w : Walker) : Nat → Walker
  | 0 => w
  | n + 1 =>
    let die := w.first.die
    match s.nextRead w.first w.seen with
    | none => w
    | some (lvl, st2, key) =>
      match heldEntry (s.walks.filter (fun e => e.since ≤ s.time)) die lvl st2 key with
      | some e => s.readOn { w with seen := w.seen ++ [e] } n
      | none =>
        let e : WalkEntry := { die, level := lvl, stage2 := st2, addr := key, entry := s.homeEntry key,
                               poisoned := !tableAbsent key && s.poisoned key 8 }
        { w with seen := w.seen ++ [e] }

/-- The leaf entries of a translation hold at home what the walk has read of them, so that its compare-and-swap succeeds (R276). -/
def State.unchanged (s : State) (seen : List WalkEntry) (l : Leaf) : Bool :=
  seen.all (fun e => !(e.addr == l.entry || l.entry2 == some e.addr || l.tables.contains e.addr) || e.entry == s.homeEntry e.addr)

/-- A walk has ended: its walker takes the miss that has waited longest on the die, with the misses of its page. -/
def State.nextMiss (s : State) (die : Nat) : State :=
  match s.misses.find? (·.die == die) with
  | none => s
  | some m =>
    let same := fun (k : Miss) => k.die == m.die && k.fn == m.fn && k.page == m.page
    { s with misses := s.misses.filter (fun k => !same k),
             walkers := s.walkers ++ [{ first := m, joined := (s.misses.filter same).filter (· != m), moved := s.time }] }

/-- The place where a walk of an address ends among the entries that may be leaves, whatever it holds: where it lies, log2 of
a leaf's size there, and the stage-2 leaf entries that mapped the tables read (R271, R275). -/
def State.leafPlace (s : State) (f : Fn) (die va : Nat) : Nat → Nat → Bool → List Nat → Option (Nat × Nat × List Nat)
  | 0, _, _, _ => none
  | lvl + 1, t, g64, tabs =>
    match s.stage2 f die (t + 8 * walkIdx va (lvl + 1) g64) with
    | .leaf l =>
      let key := memKey l.mt l.pa
      let tabs := if fld f.tctl.toNat 1 1 = 1 then tabs ++ [l.entry] else tabs
      let e := s.readLE key 8
      let table := fld e 1 0 = 1 && !tableBad e (lvl + 1) g64
      if table then s.leafPlace f die va lvl (fld e 63 28 * 4096) (lvl + 1 = 2 && fld e 2 2 = 1) tabs
      else if 3 ≤ lvl + 1 || tableAbsent key then none
      else some (key, leafBits (lvl + 1) g64, tabs.eraseDups)
    | _ => none

/-- The merged translation that a walker may build of the sixteen leaves around the one of an address (R275): the first of them
is valid and has CH = 1, GPS = 0 and CLS 2 or 3, and its flags and ADDR serve all sixteen, whatever the others hold, the
address's own among them. -/
def State.mergedLeaf (s : State) (fn die va : Nat) : Option Leaf :=
  let f := s.fn fn
  let two := fld f.tctl.toNat 1 1 = 1
  (State.leafPlace { s with walks := [] } f die va 5 (fld f.t1root.toNat 47 12 * 4096) false []).bind fun p =>
  let first := p.1 / 128 * 128
  let e := s.readLE first 8
  let m := { leafOf e (p.2.1 + 4) va first with bits1 := p.2.1, tables := p.2.2, merged := true }
  if fld e 1 0 = 3 && !leaf1Bad e p.2.1 two && fld e 5 5 = 1 && m.gps = 0 && 2 ≤ m.cls
      && (two || !addrOutOfRange m.mt (fld e 63 28 * 4096 + 2 ^ m.bits - 1))
  then
    if two then
      match s.stage2 f die m.pa with
      | .leaf l2 => match combine m l2 with
        | .leaf x => some x
        | _ => none
      | _ => none
    else some m
  else none

/-- The place of a virtual address for an engine of the hardware, by a fresh walk; nothing where it does not
translate. -/
def State.keyOf (s : State) (fn va : Nat) : Option Nat :=
  match s.xlateFresh fn va with
  | .leaf l => some (memKey l.mt l.pa)
  | _ => none

end Sys2Proof.Machine
end

