-- ==== Sys2Proof/Machine/Home.lean ====
section
/-! DEFINITION. First-level caches and the home: leased and Private lines (R223, R227, R229), what a write at home does
(R231, R254), updates of leaf entries (R276), read-modify-write (R243 to R247), reclassification (R226), and the reads and
writes of the hardware's own agents (R224, R225). -/

namespace Sys2Proof.Machine

/-! ### The error log and its counters (R389, R397) -/

/-- Adds to a lifetime counter, which saturates (R397): 0 power-on seconds, 100 + stack corrected DRAM errors, 200 + 16 ×
die + kind corrected SRAM errors, 400 + SRC uncorrectable errors, 500 samples, 501 drops, 502 mismatches, 503 quads
retired, 504 energy, 505 excursions, 600 + bin temperature seconds. -/
def State.count (s : State) (k n : Nat) : State :=
  { s with sys := { s.sys with life := Cells.set 0 s.sys.life k (min (Cells.get 0 s.sys.life k + n) (2 ^ 64 - 1)) } }

/-- Writes a record of the error log; the oldest of 16,384 is overwritten (R389). -/
def State.logRec (s : State) (kind src loc data : Nat) : State :=
  let r : LogRec := { kind, src, seq := s.sys.logSeq % 2 ^ 32, time := s.time, loc, data }
  { s with sys := { s.sys with log := (r :: s.sys.log).take 16384, logSeq := s.sys.logSeq + 1 } }

/-- An uncorrectable error is found (R391): a record of KIND 2 with its source and address, whose syndrome is a free value
(log 36), and its count. -/
def State.found (s : State) (src addr : Nat) : State :=
  let data := (Config.freeWord s.free).toNat + 2 ^ 32 * (Config.freeWord (s.free + 1)).toNat
  ((State.logRec { s with free := s.free + 2 } 2 src addr data).count (400 + src) 1)

/-! ### First-level lines -/

/-- A line that serves: Private, or leased until after now (R229). -/
def State.lineLive (s : State) (l : Line) : Bool := l.priv || s.time < l.expiry

/-- The live copy of a line in a core's cache. -/
def State.copyOf (s : State) (core line : Nat) : Option Line :=
  s.lines.find? (fun l => l.core == core && l.line == line && s.lineLive l)

/-- Drops a core's copy of a line. -/
def State.dropLine (s : State) (core line : Nat) : State :=
  { s with lines := s.lines.filter (fun l => !(l.core == core && l.line == line)) }

/-- The lines that a range of bytes touches, and those it covers whole. -/
def linesOf (key n : Nat) : List Nat := (List.range (lineOf (key + n - 1) + 1 - lineOf key)).map (lineOf key + ·)

def wholeLines (key n : Nat) : List Nat := (linesOf key n).filter (fun l => key ≤ l * 128 && l * 128 + 128 ≤ key + n)

/-- The lines that a migration pass in progress must copy again, since they have been written (R238). -/
def State.noteLines (s : State) (key n : Nat) : State :=
  if s.sys.migration.isSome then { s with sys := { s.sys with migLines := linesOf key n ++ s.sys.migLines } } else s

/-- A watched value meets a monitor's condition (R252). -/
def monHolds (subop len : Nat) (val cmp : Nat) : Bool :=
  let sv := fun (x : Nat) => if len = 8 then toI64 x else (word x).toInt
  match subop with
  | 0 => val == cmp | 1 => val != cmp | 2 => val < cmp | 3 => val ≤ cmp | 4 => val > cmp | 5 => val ≥ cmp
  | 6 => sv val < sv cmp | 7 => sv val ≤ sv cmp | 8 => sv val > sv cmp | 9 => sv val ≥ sv cmp
  | 10 => Nat.land val cmp != 0
  | _ => Nat.land val cmp == 0

/-- A monitor's condition holds at home now. -/
def State.monTrue (s : State) (m : Mon) : Bool :=
  monHolds m.subop m.len (s.readLE m.key m.len) (m.cmp.toNat % 2 ^ (8 * m.len))

/-- The armed monitors that a write of `n` bytes at a place fires, with the write as their cause (R254). -/
def State.fire (s : State) (key n : Nat) (cause : Option (Nat × Nat)) : State × Nat :=
  let hit := fun (m : Mon) => m.phase = .armed && key < m.key + m.len && m.key < key + n && s.monTrue m
  ({ s with mons := s.mons.map (fun m => if hit m then { m with phase := .waking, cause, moved := s.time } else m) },
   (s.mons.filter hit).length)

/-- A write performed at home by an agent of the hardware (R231, R254): the bytes, the lines a migration pass must copy again
(R238), and the monitors it fires; the number of wakes it sends. -/
def State.agentWrite (s : State) (key : Nat) (bs : List Byte) (cause : Option (Nat × Nat)) : State × Nat :=
  ((s.writeBytes key bs).noteLines key bs.length).fire key bs.length cause

/-- Writes a dirty line back to its home (R226, R227), where that is a write like any other (R254). -/
def State.writeBack (s : State) (l : Line) : State :=
  if l.dirty then (s.agentWrite (l.line * 128) l.data none).1 else s

/-- Takes a line out of a cache, written back if dirty. -/
def State.evict (s : State) (l : Line) : State := (s.writeBack l).dropLine l.core l.line

/-- The leased line of a list with the earliest expiry. -/
def earliest (ls : List Line) : Option Line :=
  ls.foldl (fun b l => match b with
    | none => some l
    | some x => if l.expiry < x.expiry then some l else some x) none

/-- Fills a core's cache with a line (R223, R229): it replaces a copy held; in a full set an expired line goes, then a
Private one, the oldest first (log 14), and only then the leased one that expires first. -/
def State.install (s : State) (n : Line) : State :=
  let s := s.dropLine n.core n.line
  let set := s.lines.filter (fun l => l.core == n.core && l.line % 1024 == n.line % 1024)
  let s :=
    if set.length < 12 then s
    else match set.find? (fun l => !s.lineLive l) with
      | some l => s.evict l
      | none => match set.find? (·.priv) with
        | some l => s.evict l
        | none => match earliest set with
          | some l => s.evict l
          | none => s
  { s with lines := s.lines ++ [n] }

/-- Writes bytes into a core's live copy of their line, if it holds one (R231 item 2). -/
def State.patchCopy (s : State) (core key : Nat) (bs : List Byte) : State :=
  { s with lines := s.lines.map (fun l =>
      if l.core == core && l.line == lineOf key && s.lineLive l then { l with data := patch l.data (key % 128) bs } else l) }

/-- The line of a byte as the home holds it. -/
def State.homeLine (s : State) (key : Nat) : List Byte := s.readBytes (lineOf key * 128) 128

/-- The owner core reads bytes of one line of a Private page in its cache: a miss fills the line, except for a bypassing
load (R227); a leased copy from before the page became Private is no such line. -/
def State.ownerRead1 (s : State) (core entry key n : Nat) (allocate : Bool) : State × List Byte :=
  match (s.copyOf core (lineOf key)).filter (·.priv) with
  | some l => (s, slice l.data (key % 128) n)
  | none =>
    if allocate then
      (s.install { core, line := lineOf key, data := s.homeLine key, priv := true, entry }, s.readBytes key n)
    else (s, s.readBytes key n)

/-- The owner core writes bytes of one line of a Private page in its cache (R227). -/
def State.ownerWrite1 (s : State) (core entry key : Nat) (bs : List Byte) : State :=
  let (s, _) := s.ownerRead1 core entry key 1 true
  { s with lines := s.lines.map (fun l =>
      if l.core == core && l.line == lineOf key && l.priv then { l with data := patch l.data (key % 128) bs, dirty := true }
      else l) }

/-- The bytes of a range that lie in its first line. -/
def firstPart (key n : Nat) : Nat := min n (128 - key % 128)

/-- Reads a range of a Private page in the owner's cache; a binned value may lie in two lines (R87). -/
def State.ownerRead (s : State) (core entry key n : Nat) (allocate : Bool) : State × List Byte :=
  let k := firstPart key n
  let (s, a) := s.ownerRead1 core entry key k allocate
  if k = n then (s, a)
  else
    let (s, b) := s.ownerRead1 core entry (key + k) (n - k) allocate
    (s, a ++ b)

/-- Writes a range of a Private page in the owner's cache. -/
def State.ownerWrite (s : State) (core entry key : Nat) (bs : List Byte) : State :=
  let k := firstPart key bs.length
  let s := s.ownerWrite1 core entry key (bs.take k)
  if k = bs.length then s else s.ownerWrite1 core entry (key + k) (bs.drop k)

/-! ### At home -/

/-- The latest lease the home granted on a line (R231). -/
def State.latestLease (s : State) (line : Nat) : Nat := Cells.get 0 s.leases line

/-- Grants a lease on a line until `e` (R229). -/
def State.grant (s : State) (line e : Nat) : State :=
  { s with leases := Cells.set 0 s.leases line (max e (s.latestLease line)) }

/-- The WCT of a write of `n` bytes performed now (R231). -/
def State.wctOf (s : State) (key n : Nat) : Nat :=
  max s.time (max (s.latestLease (lineOf key)) (s.latestLease (lineOf (key + n - 1))))

/-- A leaf entry found in a function's tables: where it lies, the place its page begins at (of a guest's stage-1 leaf the guest
physical address), log2 of the page's size, and the address that leads to it. -/
structure LeafAt where
  entry : Nat
  at' : Nat
  bits : Nat
  base : Nat

/-- Two ranges, each a first element and a count, have one in common. -/
def meets (a b : Nat × Nat) : Bool := a.1 < b.1 + b.2 && b.1 < a.1 + a.2

/-- The places of a leaf's page. -/
def LeafAt.range (e : LeafAt) : Nat × Nat := (e.at', 2 ^ e.bits)

/-- The leaf entries that the table at `t` and those below it hold, for addresses from `base` on; the tables of a `guest` are
reached through its stage 2 (R282). -/
def State.leavesUnder (s : State) (guest : Option Fn) : Nat → Nat → Bool → Nat → List LeafAt
  | 0, _, _, _ => []
  | lvl + 1, t, g64, base =>
    let place := match guest with
      | none => some t
      | some f => match State.stage2 { s with walks := [] } f 0 t with
        | .leaf l => some (memKey l.mt l.pa)
        | _ => none
    match place with
    | none => []
    | some t =>
      let size := if g64 then 256 else 4096
      let ks := (s.mem.filter (fun e => t ≤ e.1 && e.1 < t + size && e.1 % 8 = 0 && e.2.getLsbD 0)).map (·.1)
      ks.flatMap (fun k =>
        let e := s.readLE k 8
        let pa := fld e 63 28 * 4096
        let base := base + (k - t) / 8 * 2 ^ (if g64 then 16 else 12 + 9 * lvl)
        if fld e 1 1 = 1 then [⟨k, if guest.isSome then pa else memKey (fld e 9 8) pa, leafBits (lvl + 1) g64, base⟩]
        else s.leavesUnder guest lvl pa (lvl + 1 = 2 && fld e 2 2 = 1) base)

/-- The function translates in two stages. -/
def Fn.twoStages (f : Fn) : Bool := fld f.tctl.toNat 1 1 = 1

/-- The stage-1 and the stage-2 leaf entries of a function. -/
def State.leaves1 (s : State) (f : Fn) : List LeafAt :=
  s.leavesUnder (if f.twoStages then some f else none) 5 (fld f.t1root.toNat 47 12 * 4096) false 0
def State.leaves2 (s : State) (f : Fn) : List LeafAt :=
  if f.twoStages then s.leavesUnder none 4 (fld f.t2root.toNat 47 12 * 4096) false 0 else []

/-- Of a stage-2 leaf the guest physical range that it maps to a range of places. -/
def LeafAt.guestRange (e : LeafAt) (r : Nat × Nat) : Nat × Nat :=
  let lo := max r.1 e.at'
  (e.base + (lo - e.at'), min (r.1 + r.2) (e.at' + 2 ^ e.bits) - lo)

/-- Of a stage-2 leaf the places to which it maps a guest physical range. -/
def LeafAt.placeRange (e : LeafAt) (r : Nat × Nat) : Nat × Nat :=
  let lo := max r.1 e.base
  (e.at' + (lo - e.base), min (r.1 + r.2) (e.base + 2 ^ e.bits) - lo)

/-- The stage-1 leaf entries, which hold the classes, of the pages that lie in a range of places (R224, R282). -/
def State.entriesIn (s : State) (r : Nat × Nat) : List Nat :=
  s.fns.flatMap (fun f =>
    let rs := if f.2.twoStages then ((s.leaves2 f.2).filter (fun e => meets e.range r)).map (·.guestRange r) else [r]
    ((s.leaves1 f.2).filter (fun e => rs.any (meets e.range))).map (·.entry))

/-- The ranges of places that a leaf entry, of either stage, takes part in mapping. -/
def State.entryRanges (s : State) (hit : Nat → Bool) : List (Nat × Nat) :=
  s.fns.flatMap (fun f =>
    let two := s.leaves2 f.2
    (two.filter (fun e => hit e.entry)).map (·.range) ++
      ((s.leaves1 f.2).filter (fun e => hit e.entry)).flatMap (fun e =>
        if f.2.twoStages then (two.filter (fun e2 => meets (e2.base, 2 ^ e2.bits) e.range)).map (·.placeRange e.range)
        else [e.range]))

/-- Poison leaves the page of a leaf entry that a store rewrites (R391; log 15). -/
def State.unpoisonLeaf (s : State) (key n : Nat) : State :=
  if s.poison.isEmpty then s
  else
    let hit := fun (entry : Nat) => meets (entry, 8) (key, n)
    let cached := (s.tlb.filter (fun e => hit e.leaf.entry || (e.leaf.entry2.map hit).getD false)).map (fun e =>
      (memKey e.leaf.mt e.leaf.pa / 2 ^ e.leaf.bits * 2 ^ e.leaf.bits, 2 ^ e.leaf.bits))
    { s with poison := s.poison.filter (fun line => !(cached ++ s.entryRanges hit).any (meets (line * 128, 128))) }

/-- A store, copy or drain performed at home: besides, it ends the poison of each line it writes whole, and of the page whose
leaf entry it rewrites (R391). -/
def State.homeWrite (s : State) (key : Nat) (bs : List Byte) (cause : Option (Nat × Nat)) : State × Nat :=
  let s := s.unpoisonLeaf key bs.length
  let s := if s.poison.isEmpty then s else { s with poison := s.poison.filter (fun l => !(wholeLines key bs.length).contains l) }
  s.agentWrite key bs cause

/-! ### Updates of leaf entries (R276) -/

/-- Writes a leaf entry at its home, in that address's single order (R276). -/
def State.setEntry (s : State) (key e : Nat) : State := if e = s.readLE key 8 then s else (s.agentWrite key (natLE 8 e) none).1

/-- Sets A, and D for a write, in the leaf entries of a translation, and A in the stage-2 leaves that map the tables its
walk read. -/
def State.markLeaf (s : State) (l : Leaf) (write : Bool) : State :=
  let upd := fun (s : State) (key : Nat) =>
    let e := s.readLE key 8
    s.setEntry key (setFld (setFld e 26 26 1) 27 27 (if write then 1 else fld e 27 27))
  let s := l.tables.foldl (fun s key => s.setEntry key (setFld (s.readLE key 8) 26 26 1)) s
  let s := upd s l.entry
  match l.entry2 with
  | some k => upd s k
  | none => s

/-- Sets A in all sixteen entries of a merged translation (R276). -/
def State.markSixteen (s : State) (m : Leaf) : State :=
  (List.range 16).foldl (fun s k => s.setEntry (m.entry + 8 * k) (setFld (s.readLE (m.entry + 8 * k) 8) 26 26 1)) s

/-- Writes CLS and OWNER of a stage-1 leaf entry (claim and reclassification, R276). -/
def State.setClass (s : State) (entry cls owner : Nat) : State :=
  let e := s.readLE entry 8
  s.setEntry entry (setFld (setFld e 7 6 cls) 25 16 owner)

/-- Writes GPS of a stage-1 leaf entry (R290). -/
def State.setGps (s : State) (entry gps : Nat) : State :=
  s.setEntry entry (setFld (s.readLE entry 8) 12 10 gps)

/-! ### Read-modify-write (R244 to R247) -/

/-- An integer operation of a width in bytes (R244). -/
def intAtomic (subop w old c : Nat) : Nat :=
  let m : Nat := 2 ^ (8 * w)
  let sgn := fun (x : Nat) => if w = 8 then toI64 x else (word x).toInt
  let wrap := fun (x : Int) => (x % (m : Int)).toNat
  let hi : Int := (m / 2 : Nat) - 1
  match subop with
  | 0 => (old + c) % m
  | 1 => wrap (max (-hi - 1) (min hi (sgn old + sgn c)))
  | 2 => wrap (max 0 (min ((m : Int) - 1) ((old : Int) + sgn c)))
  | 3 => if sgn c < sgn old then c else old
  | 4 => min old c
  | 5 => if sgn old < sgn c then c else old
  | 6 => max old c
  | 7 => Nat.land old c
  | 8 => Nat.lor old c
  | 9 => Nat.xor old c
  | _ => c

/-- A floating addition rounded by RNE, any NaN canonical (R245). -/
def addRne (f : Fmt) (a b : Nat) : Nat := (f.round .rne false 0 ((f.read a).exact.add false (f.read b).exact)).code

/-- A float operation on a word (R245). -/
def fltAtomic (subop old c : Nat) : Nat :=
  match subop with
  | 0 => addRne fp32 old c
  | 1 => addRne bf16 (old % 65536) (c % 65536) + 65536 * addRne bf16 (old / 65536) (c / 65536)
  | 2 => addRne fp16 (old % 65536) (c % 65536) + 65536 * addRne fp16 (old / 65536) (c / 65536)
  | 3 => (fp32.minMax false false old c).code
  | _ => (fp32.minMax true false old c).code

/-- What an atomic writes over the old bytes, if it writes, and whether a bin clamped. -/
def Act.rmw (a : Act) (old data cmp : List Byte) : Option (List Byte) × Bool :=
  match a with
  | .int op => (some (natLE old.length (intAtomic op old.length (leNat old) (leNat data))), false)
  | .flt op => (some (natLE 4 (fltAtomic op (leNat old) (leNat data))), false)
  | .bin nan d0 d1 d2 => let r := binAdd old nan d0 d1 d2; (some r.1, r.2)
  | .cas => (if old == cmp then some data else none, false)
  | .store => (some data, false)
  | _ => (none, false)

/-- An act is an atomic. -/
def Act.isAtomic : Act → Bool
  | .int _ | .flt _ | .bin _ _ _ _ | .cas => true
  | _ => false

def Act.isLoad : Act → Bool
  | .load | .prefetch => true
  | _ => false

/-! ### Parts of operations -/

def State.op (s : State) (id : Nat) : Option Op := s.ops.find? (·.id == id)

/-- An operation replaced under its id. -/
def State.setOp (s : State) (o : Op) : State := { s with ops := s.ops.map (fun p => if p.id == o.id then o else p) }

/-- The part of an operation for a lane. -/
def Op.piece (o : Op) (lane : Nat) : Option Piece := o.pieces.find? (·.lane == lane)

def Op.setPiece (o : Op) (p : Piece) : Op :=
  { o with pieces := o.pieces.map (fun q => if q.lane == p.lane then p else q) }

def Op.coreNo (o : Op) : Nat := Machine.coreNo o.die o.core

/-- A part of an operation as it has just moved (R228). -/
def State.putPiece (s : State) (o : Op) (p : Piece) : State := s.setOp (o.setPiece { p with moved := s.time })

/-- The parts not yet performed of an access of 16 or 32 bytes, each with its bytes of the data (R141). -/
def Piece.partsLeft (p : Piece) : List (Nat × List Byte) :=
  ((List.range (p.len / 8)).filter (fun k => !p.torn.contains k)).map (fun k => (k, slice p.data (8 * k) 8))

/-- Bytes read, with the parts read earlier as they were read. -/
def Piece.keepTorn (p : Piece) (now : List Byte) : List Byte :=
  p.torn.foldl (fun l k => patch l (8 * k) (slice p.got (8 * k) 8)) now

/-- A lane that a poisoned byte or a failed completion kills: of a load, or of an atomic that returns data (R391). -/
def Op.consumer (o : Op) (p : Piece) : Bool :=
  match p.act with
  | .load => (match o.kind with | .member _ _ _ => false | _ => true)
  | .prefetch | .store => false
  | _ => match o.kind with
    | .atomic _ (_ + 1) => true
    | _ => false

/-- The bad lane of an operation, the lowest first, and its source of R392. -/
def Op.bad (o : Op) : Option (Nat × Piece) :=
  (o.pieces.find? (fun p => (p.poisoned || p.hostErr) && o.consumer p)).map (fun p => (if p.hostErr then 4 else 1, p))

/-- A part has met poison, or a failed completion: it is logged once for its operation, where it is a consumer's; the group is
killed as the operation would retire (R391, R392; log 36). -/
def State.noteBad (s : State) (o : Op) (p : Piece) (src : Nat) : State :=
  if o.consumer p && o.bad.isNone then s.found src (p.key % 2 ^ 48) else s

/-- The bytes of a store that are still to be performed, each part by its place. -/
def Piece.rest (p : Piece) : List (Nat × List Byte) :=
  if p.torn.isEmpty then [(p.key, p.data)] else p.partsLeft.map (fun e => (p.key + 8 * e.1, e.2))

/-- A part performed in the owner's cache (R227, R243): a store or atomic takes the time as its WCT. -/
def State.ownerPerform (s : State) (core : Nat) (p : Piece) : State × Piece × Bool :=
  if p.act = .store then
    (p.rest.foldl (fun s (k, bs) => s.ownerWrite core p.entry k bs) s, { p with phase := .replied, wct := s.time, torn := [] }, false)
  else
    let (s, old) := s.ownerRead core p.entry p.key p.len (!(p.act.isLoad && !p.install))
    let p := { p with got := p.keepTorn old, phase := .replied, poisoned := s.poisoned p.key p.len }
    match p.act.rmw old p.data p.cmp with
    | (some new, bo) => (s.ownerWrite core p.entry p.key new, { p with wct := s.time }, bo)
    | (none, _) => (s, p, false)

def Space.isMain : Space → Bool
  | .home | .host => true
  | _ => false

/-- A line whose every byte an operation's performed stores have written is no longer poisoned (R391). -/
def State.coverLine (s : State) (id line : Nat) : State :=
  if !s.poison.contains line then s
  else
    match s.op id with
    | none => s
    | some o =>
      let done := o.pieces.filter (fun p => p.act = .store && p.phase != .sent && p.space.isMain)
      if (List.range 128).all (fun i => done.any (fun p => p.key ≤ line * 128 + i && line * 128 + i < p.key + p.len))
      then { s with poison := s.poison.filter (· != line) } else s

/-- Performs a part of an operation in the owner's cache, in place; a store may end the poison of its line (R391). -/
def State.performOwned (s : State) (o : Op) (p : Piece) : State :=
  let (s, p, bo) := s.ownerPerform o.coreNo p
  match s.op o.id with
  | some o => ((if p.poisoned then s.noteBad o p 1 else s).putPiece { o with bo := o.bo || bo } p).coverLine o.id (lineOf p.key)
  | none => s

/-- A request performed at home (R243). -/
def State.homeAtomic (s : State) (o : Op) (p : Piece) : State :=
  let old := s.readBytes p.key p.len
  let poisoned := s.poisoned p.key p.len
  let s := if poisoned then s.noteBad o p 1 else s
  let p := { p with got := old, phase := .performed, poisoned }
  match p.act.rmw old p.data p.cmp with
  | (some new, bo) =>
    let wct := s.wctOf p.key p.len
    let (s, n) := s.homeWrite p.key new (some (o.id, p.lane))
    s.putPiece { o with bo := o.bo || bo } { p with wct, acks := n }
  | (none, _) => s.putPiece o p

/-- A PCI Express AtomicOp exists for it (R259). -/
def Act.direct : Act → Bool
  | .int 0 | .int 10 | .cas => true
  | _ => false

/-! ### Sending (R231, R243, R260) -/

/-- Two parts touch a byte in common. -/
def overlap (p q : Piece) : Bool := p.key < q.key + q.len && q.key < p.key + p.len

/-- A part is an atomic of the host that runs as a loop of its own (R260). -/
def looping (q : Piece) : Bool := q.act.isAtomic && !q.act.direct && q.space = .host

/-- A lane of the launch has not ended its loop on a byte of the host, of an operation older than a given one (R260). -/
def State.loopOn (s : State) (before who key : Nat) : Bool :=
  s.ops.any (fun o => o.id < before && o.pieces.any (fun q => looping q && q.phase = .sent && q.who == who && q.key ≤ key && key < q.key + q.len))

/-- A part of the operation `id` is not to be sent yet: its lane's loop on one of its bytes comes before it (R260). -/
def State.isLate (s : State) (id : Nat) (p : Piece) : Bool :=
  p.space = .host && (List.range p.len).any (fun k => s.loopOn id p.who (p.key + k))

/-- A part has issued and is not sent: it is held (R226), or waits for its lane's loop (R260). -/
def Piece.unsent (p : Piece) : Bool := p.late || p.held.isSome

/-- Copies outstanding fills of a line on a core that were requested before a store was sent (R229): the store is applied
to them. -/
def State.patchFills (s : State) (core key : Nat) (bs : List Byte) : State :=
  { s with ops := s.ops.map (fun o =>
      if o.coreNo == core then
        { o with pieces := o.pieces.map (fun p =>
            if p.lease && p.phase = .performed && lineOf p.key == lineOf key then { p with fill := patch p.fill (key % 128) bs } else p) }
      else o) }

/-- What sending a part does in its core's cache: a store is written into the core's copy and its outstanding fills (R229, R231), an
atomic discards the copy (R243). -/
def State.sent (s : State) (core : Nat) (p : Piece) : State :=
  if p.act = .store then (s.patchCopy core p.key p.data).patchFills core p.key p.data
  else if p.act.isAtomic then (s.dropLine core (lineOf p.key)).dropLine core (lineOf (p.key + p.len - 1))
  else s

/-- Sends a part of the operation `id`, unless its lane's loop on its bytes comes before it: it is sent as that ends (R260). -/
def State.trySend (s : State) (id core : Nat) (p : Piece) : State × Piece :=
  if !p.act.isLoad && s.isLate id p then (s, { p with late := true }) else (s.sent core p, { p with late := false })

/-- Sends a part that has waited and is held no longer, where its lane's loop lets it (R226, R260). -/
def State.sendPart (s : State) (e : Nat × Nat) : State :=
  match (s.op e.1).bind (fun o => (o.piece e.2).map (fun p => (o.coreNo, p))) with
  | none => s
  | some (core, p) =>
    let (s, q) := s.trySend e.1 core { p with held := none }
    match s.op e.1 with
    | some o => if p.late && q.late then s else s.putPiece o q
    | none => s

/-- Sends, in the order of their operations, the parts that a test picks. -/
def State.sendDue (s : State) (pick : Piece → Bool) : State :=
  (s.ops.flatMap (fun o => (o.pieces.filter pick).map (fun p => (o.id, p.lane)))).foldl State.sendPart s

/-! ### Reclassification (R226) -/

/-- The owner of a page drops the leased copies of its lines, as it drops every line of a page that is reclassified (R218, R226). -/
def State.dropLeased (s : State) (owner entry : Nat) : State :=
  if s.lines.any (fun l => l.core == owner && !l.priv) then
    let page := s.entryRanges (· == entry)
    { s with lines := s.lines.filter (fun l => !(l.core == owner && page.any (meets (l.line * 128, 128)))) }
  else s

/-- Reclassification of the page of a leaf entry (R226, R276), in one step: what the owner had issued is performed in its
cache, its lines of the page are written back and discarded, leased copies too (R218), its translations dropped, the class set to
Shared, and every access held is released and sent. -/
def State.reclassify (s : State) (entry : Nat) : State :=
  let owner := fld (s.readLE entry 8) 25 16
  let due := s.ops.flatMap (fun o => (o.pieces.filter (fun p => p.owner && p.entry == entry && p.phase = .sent)).map (fun p => (o, p)))
  let s := due.foldl (fun s (o, p) => s.performOwned o p) s
  let s := (s.lines.filter (fun l => l.priv && l.entry == entry)).foldl State.evict s
  let s := ((s.dropLeased owner entry).uncacheEntry entry).setClass entry 2 0
  State.sendDue { s with mons := s.mons.map (fun m => if m.held = some entry then { m with held := none } else m) } (·.held = some entry)

/-- An engine's access through a leaf (R225, R236): a Private page is reclassified first, and an Unclaimed one becomes
Shared (R224). -/
def State.engineTouch (s : State) (l : Leaf) : State :=
  if l.cls = 1 then s.reclassify l.entry
  else if l.cls = 0 then (s.setClass l.entry 2 0).uncacheEntry l.entry
  else s

/-- The host port or the migration engine reaches the page of a leaf entry (R224, R225). -/
def State.entryTouch (s : State) (entry : Nat) : State :=
  let cls := fld (s.readLE entry 8) 7 6
  if cls = 1 then s.reclassify entry else if cls = 0 then (s.setClass entry 2 0).uncacheEntry entry else s

/-! ### Reads and writes of the hardware's own agents (R224, R225) -/

/-- The latest bytes at a place: from the first-level line that holds a Private page's data, else from home. -/
def State.latest (s : State) (key n : Nat) : List Byte :=
  (List.range n).map (fun i =>
    match s.lines.find? (fun l => l.priv && l.line == lineOf (key + i)) with
    | some l => l.data.getD ((key + i) % 128) 0
    | none => s.byteAt (key + i))

/-- An agent that is not a core's vector pipes reaches the pages of a range: it is a second agent of each (R225), or the first
to touch it (R224); it sets A in each leaf, and D where it writes (R276). -/
def State.vtouch (s : State) (fn va n : Nat) (write : Bool := false) : State :=
  ((List.range ((va + n - 1) / 4096 + 1 - va / 4096)).map (fun i => max va ((va / 4096 + i) * 4096))).foldl (fun s a =>
    match s.xlateFresh fn a with
    | .leaf l => (s.markLeaf l write).engineTouch l
    | _ => s) s

/-- The bytes at a virtual address as an agent of the hardware reads them, a second agent of each page (R225); a byte that does
not translate reads 0. -/
def State.vread (s : State) (fn va n : Nat) : List Byte :=
  let s := s.vtouch fn va n
  (List.range n).flatMap (fun i => match s.keyOf fn (va + i) with
    | some k => s.latest k 1
    | none => [0])

def State.vreadLE (s : State) (fn va n : Nat) : Nat := leNat (s.vread fn va n)

/-- Writes bytes at a virtual address that lies in one page; nothing where it does not translate. -/
def State.vwrite (s : State) (fn va : Nat) (bs : List Byte) : State :=
  match s.keyOf fn va with
  | some k => ((s.vtouch fn va bs.length true).agentWrite k bs none).1
  | none => s

def State.vwriteLE (s : State) (fn va n x : Nat) : State := s.vwrite fn va (natLE n x)

end Sys2Proof.Machine
end

