-- ==== Sys2Proof/Machine/Ending.lean ====
section
/-! DEFINITION. How a context ends: the completion report in the grid's TCB (R367, R369), the slot (R132), and the
abandonment of a team (R155, R214). -/

namespace Sys2Proof.Machine

/-- The virtual address of a TCB (R367). -/
def State.tcbAddr (s : State) (part tcb : Nat) : Nat := (s.part part).tcbbase.toNat + 384 * tcb

/-- A field of a TCB. -/
def State.tcbGet (s : State) (part tcb off n : Nat) : Nat :=
  s.vreadLE (s.fnOfPart part) (s.tcbAddr part tcb + off) n

def State.tcbSet (s : State) (part tcb off n x : Nat) : State :=
  s.vwriteLE (s.fnOfPart part) (s.tcbAddr part tcb + off) n x

/-- Records an abnormal end in the grid's TCB; a later one changes nothing (R369). -/
def State.reportEnd (s : State) (team : Team) (status : Nat) (tcause : Word) (tval : Word64) : State :=
  if s.tcbGet team.part team.tcb 0x44 4 = 0 then
    let s := s.tcbSet team.part team.tcb 0x44 4 status
    let s := s.tcbSet team.part team.tcb 0x58 4 tcause.toNat
    s.tcbSet team.part team.tcb 0x60 8 tval.toNat
  else s

/-- Every in-flight counter reads zero (R136). -/
def Ctx.idle (c : Ctx) : Bool := c.ctr.all (fun e => e.2 == 0)

/-- The team remembers the greatest WCT of its groups (R372). -/
def State.noteWct (s : State) (team wct : Nat) : State :=
  let t := s.team team
  s.setTeam { t with maxWct := max t.maxWct wct }

/-! ### Register units (R196, R199) -/

/-- The storage units of an acquired count. -/
def unitsOf (acq : Nat) : Nat := (acq + 31) / 32

/-- The contexts resident on a core. -/
def State.onCore (s : State) (die core : Nat) : List Ctx :=
  s.ctxs.filter (fun c => c.kind = .group && c.loc.die == die && c.loc.core == core)

/-- The free units of a core: 128 less those of its groups that have not ended. -/
def State.freeUnits (s : State) (die core : Nat) : Nat :=
  128 - ((s.onCore die core).filter (!·.ended)).foldl (fun n c => n + unitsOf c.acq) 0

/-- The registers below a count (R29, R199). -/
def keepRegs (v : Cells Word) (acq : Nat) : Cells Word := v.filter (fun e => e.1 < 32 * acq)

/-- The waiting `racq`s of a group, each with its fragment's slot. -/
def Ctx.racqs (c : Ctx) : List (Nat × Racq) :=
  c.frags.zipIdx.filterMap (fun (o, k) => (o.bind (·.racq)).bind (fun r => if r.taken then none else some (k, r)))

/-- What a `racq` asks for still lies within the register file (R199). -/
def Ctx.racqFits (c : Ctx) (r : Racq) : Bool := c.acq + 16 * r.want ≤ 128

/-- The waiting `racq` of a core that issued first: its group, its fragment's slot, and it.  One that another of its group has made
too large in the meantime takes nothing (log 57). -/
def State.racqHead (s : State) (die core : Nat) : Option (Ctx × Nat × Racq) :=
  let all := ((s.onCore die core).filter (!·.ended)).flatMap (fun c => (c.racqs.filter (fun e => c.racqFits e.2)).map (fun e => (c, e.1, e.2)))
  all.foldl (fun (b : Option (Ctx × Nat × Racq)) e => match b with
    | none => some e
    | some d => if e.2.2.seq < d.2.2.seq then some e else some d) none

/-- A waiting `racq` of a group takes its units; new registers read 0 (R199). -/
def Ctx.takeUnits (c : Ctx) (k : Nat) (r : Racq) : Ctx :=
  { c with acq := c.acq + 16 * r.want, v := keepRegs c.v c.acq,
           frags := c.frags.modify k (Option.map (fun f => { f with racq := some { r with taken := true } })) }

/-- Waiting `racq`s of a core take their units in issue order, as far as enough are free (R199). -/
def State.grantUnits (s : State) (die core : Nat) : Nat → State
  | 0 => s
  | n + 1 =>
    match s.racqHead die core with
    | none => s
    | some (c, k, r) =>
      if unitsOf (c.acq + 16 * r.want) - unitsOf c.acq ≤ s.freeUnits die core then
        (s.setCtx (c.takeUnits k r)).grantUnits die core n
      else s

/-- Frees the slot of an ended context: an unreported copy error of the lowest tag goes to the TCB (R132, R150).  DESIGN CHOICE
(log 51): FRAG and INH of its TCAUSE are 0, since no fragment of the group is left to report it. -/
def State.freeSlot (s : State) (c : Ctx) : State :=
  let s := s.noteWct c.team c.lastwct
  let s := match [0, 1, 2, 3].findSome? (fun t => c.copyErrs.find? (·.tag == t)) with
    | none => s
    | some e => s.reportEnd (s.team c.team) 0x13 (word (9 + e.tag * 2 ^ 16 + c.priv.toNat * 2 ^ 24)) e.addr
  s.dropCtx c.uid

/-- Discards the monitors that satisfy a test (R253); one whose wake is on its way stays only to acknowledge it (R255). -/
def State.discardMons (s : State) (p : Mon → Bool) : State :=
  { s with mons := s.mons.filterMap (fun m =>
      if p m then
        (if m.phase = .waking || m.phase = .acking then some { m with uid := 0, team := 0, lane := 0, row := none } else none)
      else some m) }

/-- Ends a context: its fragments and pending monitors go, and its slot is freed once its counters read zero (R25, R132,
R253). -/
def State.endCtx (s : State) (uid : Nat) : State :=
  match s.ctx uid with
  | none => s
  | some c =>
    let s := s.discardMons (fun m => m.uid == uid && m.row.isNone)
    let s := { s with sys := { s.sys with deadlock := Cells.set 0 s.sys.deadlock (coreNo c.loc.die c.loc.core) s.time } }
    let c := { c with frags := [], joins := [], clause := {}, ended := true, stall := none }
    (if c.idle then s.freeSlot c else s.setCtx c).grantUnits c.loc.die c.loc.core 384

/-- Marks a team abandoned (R214). -/
def State.abandon (s : State) (team : Nat) : State := s.setTeam { s.team team with abandoned := true }

/-! ### Reports (R389, R392, R397, R401) -/

/-- Adds to a usage counter of an owner (R385): 0 BUSY, 1 LENTOUT, 2 BORROWED, 3 DEBT, 4 LAUNCHES, 5 KILLS. -/
def State.charge (s : State) (owner k n : Nat) : State :=
  let key := 8 * owner + k
  { s with sys := { s.sys with usage := Cells.set 0 s.sys.usage key (min (Cells.get 0 s.sys.usage key + n) (2 ^ 64 - 1)) } }

/-- A ring of 2^size entries is full: the tail would meet the head (R283, R401; log 13). -/
def ringFull (head tail size : Nat) : Bool := (tail + 1) % 2 ^ size == head % 2 ^ size

/-- Writes an event record to a function's ring and signals its vector; a full ring drops it, and EVQLOST counts modulo 2^32
(R401; log 46).  The spec does not say what DETAIL and ARG1 hold: they are free values (log 17). -/
def State.event (s : State) (fn type part arg0 : Nat) : State :=
  let f := s.fn fn
  if ringFull f.evqhead f.evqtail f.evqsize then s.setFn fn { f with evqlost := (f.evqlost + 1) % 2 ^ 32 }
  else
    let key := memKey 2 (f.evqbase.toNat + 32 * f.evqtail)
    let open' := (List.range 9).map (fun k => Config.freeByte (s.free + k))
    let rec' := natLE 1 type ++ open'.take 1 ++ natLE 1 part ++ natLE 5 0 ++ natLE 8 s.time ++ natLE 8 arg0 ++ open'.drop 1
    ({ s with free := s.free + 9 }.writeBytes key rec').setFn fn
      { f with evqtail := (f.evqtail + 1) % 2 ^ f.evqsize, msix := f.msix ++ [type - 1] }

/-- An event about a partition goes to the function bound to it (R401). -/
def State.partEvent (s : State) (part type arg0 : Nat) : State := s.event (s.fnOfPart part) type part arg0

/-- Kills a group or thread on an uncorrectable error that is logged (R392): TCAUSE and TVAL, STATUS 0x12, event 6, and the team
abandoned; one that has ended already is not killed. -/
def State.killLogged (s : State) (uid src : Nat) (tval : Word64) (addr : Nat) : State :=
  match s.ctx uid with
  | none => s
  | some c =>
    if c.ended then s
    else
      let tcause := word (0x36 + c.fsel % 8 * 2 ^ 8 + src * 2 ^ 16 + c.priv.toNat * 2 ^ 24)
      let team := s.team c.team
      let s := s.reportEnd team 0x12 tcause tval
      let s := s.partEvent team.part 6 addr
      let s := s.setCtx { c with tcause, tval }
      (s.abandon c.team).endCtx uid

/-- Logs an uncorrectable error and kills the group or thread that met it (R391, R392). -/
def State.kill (s : State) (uid src : Nat) (tval : Word64) (addr : Nat) : State :=
  (s.found src addr).killLogged uid src tval addr

end Sys2Proof.Machine
end

