-- ==== Sys2Proof/Machine/Flags.lean ====
section
/-! DEFINITION. MODE: its rounding mode, lease and seed, the writes it refuses (R34), and the sticky flags (R35). -/

namespace Sys2Proof.Machine

/-- Sets sticky flags; the hardware only ever sets them (R35). -/
def Ctx.stick (c : Ctx) (flags : Word) : Ctx := { c with mode := c.mode ||| flags }

/-- MODE's RND (R34). -/
def modeRnd (mode : Word) : Rnd :=
  match mode.toNat % 8 with
  | 2 => .rtz | 3 => .rup | 4 => .rdn | 5 => .rna | 6 => .sr | _ => .rne

/-- MODE's SRSRC, LEASE and SEED (R34). -/
def modeSrsrc (mode : Word) : Bool := mode.getLsbD 3
def modeLease (mode : Word) : Nat := mode.toNat / 16 % 16
def modeSeed (mode : Word) : Nat := mode.toNat / 65536

/-- The effective rounding mode of an instruction: RND 0 takes MODE's, and stochastic MODE rounds by RNE where the
opcode does not round stochastically (R83). -/
def effRnd (mode : Word) (stochastic : Bool) (r : Rnd) : Rnd :=
  match r with
  | .mode => if modeRnd mode = .sr && !stochastic then .rne else modeRnd mode
  | r => r

/-- A write of MODE that raises illegal-operand: RND 0 or 7, LEASE above 8, or bit 8 (R34). -/
def modeBad (x : Word) : Bool := x.toNat % 8 = 0 || x.toNat % 8 = 7 || modeLease x > 8 || x.getLsbD 8

/-- Flags joined over lanes. -/
def joinFlags (l : List Word) : Word := l.foldl (· ||| ·) 0

/-! ### Counters (R135, R136) -/

def Ctx.counter (c : Ctx) (k : Nat) : Nat := Cells.get 0 c.ctr k

def Ctx.setCounter (c : Ctx) (k n : Nat) : Ctx := { c with ctr := Cells.set 0 c.ctr k n }

end Sys2Proof.Machine
end

