-- ==== Sys2Proof/Machine/OpTable.lean ====
section
/-! DEFINITION. What each instruction's words may hold: its opcode, engine class and form (R58 to R60), the class of
its destination (R45), what each source field reads (R46, R50, R92, R96), and the modifier or descriptor codes it
accepts (R54 to R56).  One row per constructor; the checks of order 1 to 3 of R62 are read off these rows. -/

namespace Sys2Proof

/-- How a source field is read.  `none`: not read, must hold 0x00 (R46); `vec`: a 32-bit operand per lane; `uni`: a
32-bit group-uniform operand (R96); `wide`, `wideUni`: 64-bit operands (R50); `wideOpt`: as `wideUni`, or the byte 0x00
for no operand (R317); `pair`: an even scalar register (R131); `span n`: `n` vector registers (R142); `low`: v0 to v31
(R125); `literal`: the byte itself (R158). -/
inductive SrcKind where
  | none | vec | uni | wide | wideUni | wideOpt | pair | span (n : Nat) | low | literal
  deriving DecidableEq, Repr

/-- The destination classes of R45; `v n` is a span of `n` registers (R142), so `v 2` is the class V64. -/
inductive DstKind where
  | none | v (n : Nat) | s | s64 | p | lit (bits : Nat)
  deriving DecidableEq, Repr

/-- The row of one instruction. -/
structure Shape where
  /-- The engine class (R41, R60). -/
  cls : Nat
  dst : DstKind := .none
  a : SrcKind := .none
  b : SrcKind := .none
  c : SrcKind := .none
  e : SrcKind := .none
  /-- The greatest RND code accepted (R54). -/
  rnd : Nat := 0
  sat : Bool := false
  /-- PRED and PNEG are accepted. -/
  pred : Bool := false
  ty : List Ty := [.dflt]
  subop : List Nat := [0]
  /-- SCOPE is accepted, with any of the codes 0 to 6. -/
  scope : Bool := false
  width : List Width := [.b32]
  ord : List Ord := [.weak]
  /-- Every other condition on the second word or on a literal holds. -/
  rest : Bool := true
  deriving DecidableEq, Repr

/-! ### System registers (R159) -/

/-- A system register's facts: width in registers, supervisor level, and whether `wrsys` may name it. -/
structure SysReg where
  wide : Bool
  supervisor : Bool
  writable : Bool
  deriving DecidableEq, Repr

/-- The table of R159; a number not in it answers nothing. -/
def sysReg (n : Nat) : Option SysReg :=
  match n with
  | 0x00 => some ⟨false, false, false⟩
  | 0x01 => some ⟨true, false, true⟩
  | 0x02 => some ⟨true, false, true⟩
  | 0x03 => some ⟨true, false, false⟩
  | 0x04 => some ⟨false, false, false⟩
  | 0x05 => some ⟨false, false, false⟩
  | 0x06 => some ⟨false, false, false⟩
  | 0x07 => some ⟨true, false, false⟩
  | 0x08 => some ⟨false, false, false⟩
  | 0x10 => some ⟨true, true, true⟩
  | 0x11 => some ⟨false, true, true⟩
  | 0x12 => some ⟨true, true, true⟩
  | 0x13 => some ⟨false, true, true⟩
  | _ => none

/-! ### Codes of the source byte (R47 to R49) -/

/-- The byte of a special source (R48). -/
def Special.code : Special → BitVec 8
  | .laneid => 0x88
  | .exm => 0x89
  | .mode => 0x8A
  | .splitv => 0x8B
  | .lastwct => 0x8C
  | .lastwcth => 0x8D
  | .grpid => 0x8E
  | .imm => 0x8F
  | .lvl c => 0x90 + c.setWidth 8
  | .teamid => 0x98
  | .clusid => 0x99
  | .ngrp => 0x9A
  | .ptime => 0x9B
  | .ptimeh => 0x9C

/-- The byte that names a source (R47). -/
def Src.toByte : Src → BitVec 8
  | .v n => n.setWidth 8
  | .latch k => 0x80 + k.setWidth 8
  | .special x => x.code
  | .reserved n => 0x9D + BitVec.ofNat 8 n.val
  | .const n => 0xA0 + n.setWidth 8
  | .s n => 0xC0 + n.setWidth 8

/-- The source a byte names (R47). -/
def Src.ofByte (b : BitVec 8) : Src :=
  let n := b.toNat
  if n < 0x80 then .v (b.setWidth 7)
  else if n < 0x88 then .latch (b.setWidth 3)
  else if n < 0xA0 then
    match n with
    | 0x88 => .special .laneid
    | 0x89 => .special .exm
    | 0x8A => .special .mode
    | 0x8B => .special .splitv
    | 0x8C => .special .lastwct
    | 0x8D => .special .lastwcth
    | 0x8E => .special .grpid
    | 0x8F => .special .imm
    | 0x98 => .special .teamid
    | 0x99 => .special .clusid
    | 0x9A => .special .ngrp
    | 0x9B => .special .ptime
    | 0x9C => .special .ptimeh
    | 0x9D => .reserved 0
    | 0x9E => .reserved 1
    | 0x9F => .reserved 2
    | _ => .special (.lvl (b.setWidth 3))
  else if n < 0xC0 then .const (b.setWidth 5)
  else .s (b.setWidth 6)

/-! ### Rows by family -/

/-- The four 32-bit and 16-bit float types and the packed ones that R106 lists. -/
def tyFloat : List Ty := [.dflt, .f32, .f16, .bf16, .bf16x2, .f16x2]

def Ty.isWideInt (t : Ty) : Bool := t == .i64 || t == .n64

/-- A lane-wise vector row of class `cls`, with `PRED` (R92). -/
def shV (cls : Nat) (b : SrcKind := .vec) : Shape :=
  { cls, dst := .v 1, a := .vec, b, pred := true }

/-- Integer arithmetic (R97). -/
def shInt (b : SrcKind) (ty : List Ty) (sat : Bool) : Shape := { shV 0 b with ty, sat }

def shIcmp (m : Mods) : Shape :=
  let k := if m.ty.isWideInt then SrcKind.wide else .vec
  { cls := 0, dst := .p, a := k, b := k, pred := true, ty := [.dflt, .i32, .n32, .i64, .n64], subop := List.range 6 }

def shMov (m : Mods) : Shape :=
  { cls := 0, dst := .v (if m.ty = .i64 then 2 else 1), a := if m.ty = .i64 then .wide else .vec, pred := true,
    ty := [.dflt, .i64] }

def shSmov (m : Mods) : Shape :=
  let w := m.subop = 11 ∨ m.subop = 12
  { cls := 0, dst := if w then .s64 else .s, a := if w then .wideUni else .uni,
    b := if m.subop = 0 then .none else if w then .wideUni else .uni, subop := List.range 13 }

/-- Address arithmetic (R104). -/
def shAddr (c : SrcKind) : Shape :=
  { cls := 0, dst := .v 2, a := .wide, b := .vec, c, pred := true, ty := [.dflt, .i32, .n32] }

/-- Dot products of integers (R105): `mx` needs the signed type. -/
def shDot (m : Mods) (signed unsigned : Ty) : Shape :=
  { shV 0 with c := .vec, sat := true, subop := [0, 1],
               ty := if m.subop = 1 then [.dflt, signed] else [.dflt, signed, unsigned] }

/-- Floating arithmetic (R106). -/
def shF (b c : SrcKind) (rnd : Nat) (sat : Bool) (ty : List Ty) (subop : List Nat := [0]) : Shape :=
  { shV 1 b with c, rnd, sat, ty, subop }

def shCvt (m : Mods) : Shape :=
  { cls := 1, dst := .v (if m.ty.isWideInt then 2 else 1),
    a := if m.subop = 9 ∨ m.subop = 13 then .wide else .vec, pred := true, rnd := 6, sat := true,
    ty := [.dflt, .f32, .f16, .bf16, .e4m3, .e5m2, .i8, .i16, .i32, .i64, .n8, .n16, .n32, .n64],
    subop := [0, 2, 3, 4, 5, 6, 7, 8, 9, 10, 11, 12, 13] }

def shPack (m : Mods) : Shape :=
  { shV 1 with
    c := if m.ty = .bf16x2 ∨ m.ty = .f16x2 then .none else .vec, rnd := 6, sat := true,
    ty := [.bf16x2, .f16x2, .e4m3, .e5m2, .i8, .n8],
    subop := if m.ty = .bf16x2 ∨ m.ty = .f16x2 then [0] else if m.ty = .e4m3 ∨ m.ty = .e5m2 then [0, 1]
             else List.range 6 }

def shUnpk (m : Mods) : Shape :=
  { shV 1 (if m.ty = .bf16x2 ∨ m.ty = .f16x2 ∨ m.ty = .i8 then .none else .vec) with
    ty := [.bf16x2, .f16x2, .e4m3, .e5m2, .i8, .n8],
    subop := if m.ty = .bf16x2 ∨ m.ty = .f16x2 then [0, 1] else if m.ty = .e4m3 ∨ m.ty = .e5m2 then List.range 4
             else List.range 12 }

/-- The special functions (R112). -/
def shSpecial : Shape := shF .none .none 0 false [.dflt, .f32]

def shRadd (m : Mods) : Shape :=
  { cls := 0, dst := .s, a := .vec, pred := true, ty := [.dflt, .i32, .n32, .f32],
    sat := m.ty != .f32, rnd := if m.ty = .f32 then 5 else 0 }

def shRext (m : Mods) : Shape :=
  { cls := 0, dst := .s, a := .vec, b := if m.subop = 6 then .uni else .none, pred := true,
    ty := if m.subop = 0 ∨ m.subop = 1 then [.dflt, .i32, .n32, .f32] else [.dflt], subop := List.range 7 }

/-- `scan` (R124): SAT goes with SUBOP 0 to 3, where TY 0 stands for i32, and not with `incor` and `incand`, whose TY 0 names no
type (DESIGN CHOICE, log 57). -/
def shScan (m : Mods) : Shape :=
  { cls := 0, dst := .v 1, a := .vec, pred := true,
    ty := if m.subop = 0 ∨ m.subop = 1 then [.dflt, .i32, .n32, .f32]
          else if m.subop = 2 ∨ m.subop = 3 then [.dflt, .i32, .n32] else [.dflt],
    sat := m.subop.toNat ≤ 3 && m.ty != .f32, rnd := if m.ty = .f32 then 5 else 0,
    subop := List.range 6 }

/-- The registers of a span of a width (R142). -/
def Width.regs : Width → Nat
  | .b32 | .b8 | .b16 => 1
  | .b64 => 2
  | .b128 => 4
  | .b256 => 8

/-- How a data operand of a width is read (R142). -/
def Width.dataKind : Width → SrcKind
  | .b64 => .wide
  | .b128 => .span 4
  | .b256 => .span 8
  | _ => .vec

def allWidths : List Width := [.b8, .b16, .b32, .b64, .b128, .b256]

/-- The SUBOP codes of a load: `sx` only for b8 and b16 (R139). -/
def ldSubop (w : Width) : List Nat := if w = .b8 ∨ w = .b16 then [0, 1] else [0]

/-- Loads and stores (R139): SCOPE only together with ORD strong. -/
def shLoad (d : Desc) (base : SrcKind) (ord : List Ord) : Shape :=
  { cls := 2, dst := .v d.width.regs, a := base, b := .vec, pred := true, scope := d.ord = .strong,
    width := allWidths, ord, subop := ldSubop d.width }

def shStore (d : Desc) (base : SrcKind) (ord : List Ord) : Shape :=
  { cls := 2, a := base, b := .vec, c := d.width.dataKind, pred := true, scope := d.ord = .strong,
    width := allWidths, ord }

def anyOrd : List Ord := [.weak, .strong, .byp]

def obWidths : List Width := [.b32, .b64, .b128, .b256]

/-- TAG of an `acopy` (R55). -/
def Desc.tag (d : Desc) : Nat := d.subop.toNat % 4

/-- DIR of an `acopy` (R55): 0 `gs`, 1 `sg`, 2 `gg`, 3 `ss`. -/
def Desc.dir (d : Desc) : Nat := d.subop.toNat / 4

def shAcopy (d : Desc) : Shape :=
  { cls := 4, a := if d.dir = 1 ∨ d.dir = 2 then .wide else .vec, b := if d.dir = 0 ∨ d.dir = 2 then .wide else .vec,
    c := .vec, e := .vec, pred := true, subop := List.range 16 }

/-- Atomics (R241). -/
def shAtomic (dst : DstKind) (c e : SrcKind) (width : List Width) (subop : List Nat) : Shape :=
  { cls := 2, dst, a := .wide, b := .vec, c, e, pred := true, scope := true, width, subop }

def shBra (m : Mods) : Shape :=
  { cls := 3, a := if m.subop = 2 ∨ m.subop = 3 then .uni else .none, pred := m.subop = 0 ∨ m.subop = 1,
    subop := List.range 4 }

def shFxform (m : Mods) : Shape :=
  { cls := 3, dst := .lit 7, a := .uni, b := .uni, rnd := if m.subop = 6 ∨ m.subop = 7 then 5 else 0,
    subop := List.range 8 }

/-- A control instruction without second words. -/
def shCtl (a b : SrcKind := .none) (dst : DstKind := .none) : Shape := { cls := 3, dst, a, b }

/-- A field of a descriptor word: bits `[hi:lo]`. -/
def Eng.fld (x : Eng) (hi lo : Nat) : Nat := (x.d.toNat / 2 ^ lo) % 2 ^ (hi + 1 - lo)

/-- The bits of a descriptor word outside `mask` are zero (R56). -/
def Eng.only (x : Eng) (mask : Word) : Bool := x.d &&& ~~~mask == 0

def shEng (cls : Nat) (dst : DstKind) (a b : SrcKind) (rest : Bool) : Shape := { cls, dst, a, b, rest }

/-- The shapes of `rdsys` and `wrsys` (R158): B is a literal register number. -/
def shRdsys (x : Short) : Shape :=
  match sysReg x.w.b.toByte.toNat with
  | none => { cls := 6, dst := .s, b := .literal, rest := false }
  | some r => { cls := 6, dst := if r.wide then .s64 else .s, b := .literal }

def shWrsys (x : Short) : Shape :=
  match sysReg x.w.b.toByte.toNat with
  | none => { cls := 6, a := .uni, b := .literal, rest := false }
  | some r => { cls := 6, a := if r.wide then .wideUni else .uni, b := .literal, rest := r.writable }

/-- The row of an event or command: it has no words (`cls` 7 is the reserved class). -/
def shNone : Shape := { cls := 7, rest := false }

/-- The row of every instruction. -/
def Instr.shape : Instr → Shape
  | .iadd _ => shInt .vec [.dflt, .i32, .n32] true
  | .iaddLong _ => shInt .vec [.dflt, .i32, .n32] true
  | .isub _ => shInt .vec [.dflt, .i32, .n32] true
  | .isubLong _ => shInt .vec [.dflt, .i32, .n32] true
  | .imul _ => shInt .vec [.dflt, .i32, .n32] true
  | .imulLong _ => shInt .vec [.dflt, .i32, .n32] true
  | .imulh _ => shInt .vec [.dflt, .i32, .n32] false
  | .imulhLong _ => shInt .vec [.dflt, .i32, .n32] false
  | .imad _ => { shInt .vec [.dflt, .i32, .n32] true with c := .vec }
  | .imin _ => shInt .vec [.dflt, .i32, .n32] false
  | .iminLong _ => shInt .vec [.dflt, .i32, .n32] false
  | .imax _ => shInt .vec [.dflt, .i32, .n32] false
  | .imaxLong _ => shInt .vec [.dflt, .i32, .n32] false
  | .iabs _ => shInt .none [.dflt, .i32] true
  | .iabsLong _ => shInt .none [.dflt, .i32] true
  | .ineg _ => shInt .none [.dflt, .i32] true
  | .inegLong _ => shInt .none [.dflt, .i32] true
  | .and _ => shV 0
  | .andLong _ => shV 0
  | .or _ => shV 0
  | .orLong _ => shV 0
  | .xor _ => shV 0
  | .xorLong _ => shV 0
  | .not _ => shV 0 .none
  | .notLong _ => shV 0 .none
  | .shl _ => shV 0
  | .shlLong _ => shV 0
  | .shr _ => shV 0
  | .shrLong _ => shV 0
  | .sar _ => shV 0
  | .sarLong _ => shV 0
  | .rotl _ => shV 0
  | .rotlLong _ => shV 0
  | .bfe _ => { shV 0 with c := .vec, subop := [0, 1] }
  | .bfi _ => { shV 0 with c := .vec }
  | .popc _ => shV 0 .none
  | .popcLong _ => shV 0 .none
  | .clz _ => shV 0 .none
  | .clzLong _ => shV 0 .none
  | .brev _ => shV 0 .none
  | .brevLong _ => shV 0 .none
  | .icmp x => shIcmp x.m
  | .sel _ => { shV 0 with subop := List.range 16 }
  | .mov _ => shMov Mods.zero
  | .movLong x => shMov x.m
  | .smov _ => shSmov Mods.zero
  | .smovLong x => shSmov x.m
  | .ladd _ => shAddr .none
  | .laddLong _ => shAddr .none
  | .lsub _ => shAddr .none
  | .lsubLong _ => shAddr .none
  | .lmad _ => shAddr .vec
  | .dp4 x => shDot x.m .i8 .n8
  | .dp2 x => shDot x.m .i16 .n16
  | .fadd _ => shF .vec .none 6 true tyFloat
  | .faddLong _ => shF .vec .none 6 true tyFloat
  | .fsub _ => shF .vec .none 6 true tyFloat
  | .fsubLong _ => shF .vec .none 6 true tyFloat
  | .fmul _ => shF .vec .none 6 true tyFloat
  | .fmulLong _ => shF .vec .none 6 true tyFloat
  | .ffma _ => shF .vec .vec 6 true tyFloat
  | .fmin _ => shF .vec .none 0 false tyFloat [0, 1]
  | .fminLong _ => shF .vec .none 0 false tyFloat [0, 1]
  | .fmax _ => shF .vec .none 0 false tyFloat [0, 1]
  | .fmaxLong _ => shF .vec .none 0 false tyFloat [0, 1]
  | .fabs _ => shF .none .none 0 false tyFloat
  | .fabsLong _ => shF .none .none 0 false tyFloat
  | .fneg _ => shF .none .none 0 false tyFloat
  | .fnegLong _ => shF .none .none 0 false tyFloat
  | .fcmp _ => { shF .vec .none 0 false [.dflt, .f32, .f16, .bf16] (List.range 8) with dst := .p }
  | .fclass _ => shF .none .none 0 false [.dflt, .f32, .f16, .bf16]
  | .fclassLong _ => shF .none .none 0 false [.dflt, .f32, .f16, .bf16]
  | .cvt x => shCvt x.m
  | .pack x => shPack x.m
  | .unpk x => shUnpk x.m
  | .frcp _ => shSpecial
  | .frcpLong _ => shSpecial
  | .frsq _ => shSpecial
  | .frsqLong _ => shSpecial
  | .fsqrt _ => shF .none .none 5 true [.dflt, .f32]
  | .fsqrtLong _ => shF .none .none 5 true [.dflt, .f32]
  | .fdiv _ => shF .vec .none 5 true [.dflt, .f32]
  | .fdivLong _ => shF .vec .none 5 true [.dflt, .f32]
  | .fexp2 _ => shSpecial
  | .fexp2Long _ => shSpecial
  | .flog2 _ => shSpecial
  | .flog2Long _ => shSpecial
  | .fsin _ => shSpecial
  | .fsinLong _ => shSpecial
  | .fcos _ => shSpecial
  | .fcosLong _ => shSpecial
  | .ftanh _ => shSpecial
  | .ftanhLong _ => shSpecial
  | .fdot2 _ => shF .vec .vec 6 true [.dflt, .bf16x2, .f16x2]
  | .frint _ => shF .none .none 5 false tyFloat
  | .frintLong _ => shF .none .none 5 false tyFloat
  | .fscale _ => shF .vec .none 5 true [.dflt, .f32, .f16, .bf16]
  | .fscaleLong _ => shF .vec .none 5 true [.dflt, .f32, .f16, .bf16]
  | .fsgn _ => shF .vec .none 0 false tyFloat [0, 1, 2]
  | .fsgnLong _ => shF .vec .none 0 false tyFloat [0, 1, 2]
  | .vote _ => { shV 0 .none with dst := .p, subop := [0, 1, 2] }
  | .ballot _ => { shV 0 .none with dst := .s }
  | .ballotLong _ => { shV 0 .none with dst := .s }
  | .bcast _ => shV 0 .uni
  | .bcastLong _ => shV 0 .uni
  | .shfl _ => { shV 0 with subop := List.range 4 }
  | .shflLong _ => { shV 0 with subop := List.range 4 }
  | .radd _ => shRadd Mods.zero
  | .raddLong x => shRadd x.m
  | .rext x => shRext x.m
  | .scan x => shScan x.m
  | .nbr _ => { shV 0 with a := .low, subop := [0, 1] }
  | .ld x => shLoad x.d .wide anyOrd
  | .st x => shStore x.d .wide anyOrd
  | .lds x => shLoad x.d .vec [.weak]
  | .sts x => shStore x.d .vec [.weak]
  | .ldv x => shLoad x.d .vec anyOrd
  | .stv x => shStore x.d .vec anyOrd
  | .pref _ => { cls := 2, a := .wide, b := .vec, pred := true, subop := [0, 1, 2] }
  | .acopy x => shAcopy x.d
  | .ldsc x => { cls := 2, dst := if x.d.width = .b64 then .s64 else .s, a := .wideUni, b := .uni, scope := x.d.ord = .strong, width := [.b32, .b64], ord := anyOrd }
  | .obst x => { cls := 2, a := .uni, b := .vec, c := x.d.width.dataKind, pred := true, width := obWidths }
  | .obld x => { cls := 2, dst := .v x.d.width.regs, a := .uni, b := .vec, pred := true, width := obWidths }
  | .atom x => shAtomic (.v x.d.width.regs) x.d.width.dataKind .none [.b32, .b64] (List.range 11)
  | .ared x => shAtomic .none x.d.width.dataKind .none [.b32, .b64] (List.range 11)
  | .afadd _ => shAtomic (.v 1) .vec .none [.b32] (List.range 5)
  | .afred _ => shAtomic .none .vec .none [.b32] (List.range 5)
  | .abin _ => shAtomic .none .vec .vec [.b32] [0, 1, 2]
  | .cas _ => shAtomic (.v 1) .vec .vec [.b32] [0]
  | .cas64 _ => shAtomic (.v 2) .wide .wide [.b32] [0]
  | .cas128 _ => shAtomic (.v 4) (.span 4) (.span 4) [.b32] [0]
  | .mwait x => { shAtomic .none x.d.width.dataKind .none [.b32, .b64] (List.range 12) with scope := false }
  | .mclr _ => { cls := 2, pred := true }
  | .fence _ => { cls := 2, scope := true, subop := [0, 1, 2] }
  | .sfence _ => { cls := 2 }
  | .jmp _ => shCtl
  | .bra x => shBra x.m
  | .bdiv _ => { cls := 3, pred := true }
  | .call _ => shCtl .none .none .s64
  | .ret _ => shCtl .pair
  | .exit _ => shCtl
  | .wexm _ => shCtl .uni
  | .rdidx _ => shCtl .vec .none (.v 1)
  | .wridx _ => shCtl .vec .vec
  | .waitc _ => shCtl .uni .none (.lit 3)
  | .wmode _ => shCtl .uni
  | .racq _ => shCtl .uni
  | .rrel _ => shCtl .uni
  | .nop _ => shCtl
  | .susp _ => shCtl
  | .fwake _ => shCtl .uni .uni
  | .fxform x => shFxform x.m
  | .fthr _ => shCtl .uni .uni
  | .fflush _ => shCtl .uni
  | .bar _ => shCtl .uni
  | .arrive _ => shCtl .uni .none .s
  | .bwait _ => shCtl .uni .uni
  | .binit _ => shCtl .uni .uni
  | .fstat _ => shCtl .uni .none .s
  | .mres x => shEng 5 (.lit 4) (if x.fld 9 8 = 2 then .uni else .none) .none (x.only 0xFFF && x.fld 9 8 != 3)
  | .mrel x => shEng 5 .none .uni .none (x.only 3 && x.fld 1 0 != 3)
  | .mldb x => shEng 5 (.lit 6) .wideUni .wideOpt (x.only 0xFF)
  | .mpass x => shEng 5 (.lit 4) .uni .uni (x.only 7 && x.fld 2 1 < 2)
  | .mdrain x => shEng 5 .none .uni .uni (x.only 0xFF && x.fld 2 1 != 3)
  | .mpred x => shEng 5 .none .uni .uni (x.only 3 && x.fld 1 0 != 3)
  | .msig x => shEng 5 (if x.fld 0 0 = 0 then .s64 else .s) (if x.fld 0 0 = 0 then .none else .uni) (if x.fld 0 0 = 0 then .none else .uni) (x.only 1)
  | .mfence x => shEng 5 .none .none .none (x.only 0)
  | .board x => shEng 5 .none .uni .uni (x.only 0x7FFFF)
  | .unboard x => shEng 5 .none .none .none (x.only 0x2000)
  | .itin x => shEng 5 .none .uni .uni (x.only 0x2000)
  | .lapq x => shEng 5 .s .none .none (x.only 0x2000)
  | .coll x => shEng 4 (.lit 3) (if x.fld 1 0 = 2 then .uni else .wideUni) .none (x.only 3 && x.fld 1 0 != 3)
  | .gmemb x => shEng 4 .none .wideUni (if x.fld 1 0 < 2 then .none else .uni) (x.only 3)
  | .launch x => shEng 4 .none .wideUni .uni (x.only 0)
  | .trap _ => { cls := 6 }
  | .tret _ => { cls := 6 }
  | .rdsys x => shRdsys x
  | .wrsys x => shWrsys x
  | .brk _ => { cls := 6 }
  | .svc _ => { cls := 6, a := .uni }
  | .ill _ => { cls := 6 }
  | .clauseFetch => shNone
  | .clauseWaitPass => shNone
  | .groupSlotFree => shNone
  | .debugResume => shNone
  | .homeLoadPerform => shNone
  | .loadReply => shNone
  | .homeStorePerform => shNone
  | .storeWctReply => shNone
  | .operationRetire => shNone
  | .pageReclassify => shNone
  | .copyLaneTransfer => shNone
  | .homeAtomicPerform => shNone
  | .atomicReply => shNone
  | .hostReadCompletion => shNone
  | .hostAtomicCompletion => shNone
  | .monitorRegister => shNone
  | .wakeRecord => shNone
  | .wakeAck => shNone
  | .homeMigrationPass => shNone
  | .homeMigrationSwitch => shNone
  | .registerDeadlock => shNone
  | .racqGrant => shNone
  | .rowReturn => shNone
  | .flushTimeout => shNone
  | .tileLoad => shNone
  | .checkpointLoad => shNone
  | .translationWalk => shNone
  | .pageRequestWrite => shNone
  | .cmdInval => shNone
  | .cmdShard => shNone
  | .cmdDrop => shNone
  | .cmdPartial => shNone
  | .cmdEvict => shNone
  | .cmdLocal => shNone
  | .cmdPreply => shNone
  | .stripeRequest => shNone
  | .stripeRequestResend => shNone
  | .stripeReply => shNone
  | .replayGroupLoad => shNone
  | .peerSlow => shNone
  | .heartbeat => shNone
  | .memberSilenceTimeout => shNone
  | .agreementProposal => shNone
  | .agreementAccept => shNone
  | .reduceStripeArrival => shNone
  | .reduceAcknowledgement => shNone
  | .mldbFillComplete => shNone
  | .arrayGrant => shNone
  | .mpassComplete => shNone
  | .mdrainComplete => shNone
  | .teamRetire => shNone
  | .lapBoundary => shNone
  | .tileEmit => shNone
  | .boardReachStop => shNone
  | .tileSighting => shNone
  | .ringRateSlow => shNone
  | .switchSlotRequest => shNone
  | .collectiveDataArrival => shNone
  | .collectiveComplete => shNone
  | .collectiveArrive => shNone
  | .qsub => shNone
  | .clusterPlace => shNone
  | .gridEnd => shNone
  | .quantumExpiry => shNone
  | .partitionHalted => shNone
  | .swapOut => shNone
  | .swapIn => shNone
  | .watchdogExpiry => shNone
  | .sliceLend => shNone
  | .sliceRecall => shNone
  | .recallReturn => shNone
  | .ccarveWrite => shNone
  | .carveComplete => shNone
  | .fwmboxSetPartition => shNone
  | .fwmboxBindFunction => shNone
  | .fwmboxRecall => shNone
  | .fwmboxCarve => shNone
  | .fwmboxRemap => shNone
  | .correctedDramError => shNone
  | .errorFilterClear => shNone
  | .sramCorrectedError => shNone
  | .uncorrectableError => shNone
  | .surveyorReplay => shNone
  | .linkDown => shNone
  | .powerOn => shNone
  | .bringUpComplete => shNone
  | .attestationRequest => shNone
  | .powerArbiterPeriod => shNone
  | .thermalThrottle => shNone
  | .thermalUnthrottle => shNone
  | .thermalStop => shNone
  | .thermalClockStop => shNone
  | .thermalRestart => shNone
  | .registerWrite => shNone
  | .unassignedOpcode _ => shNone
  | .cmdRefused => shNone
  | .linkUp => shNone

/-- The second word of an instruction (R51). -/
inductive Second where
  | none
  | mods (m : Mods)
  | desc (d : Desc)
  | eng (d : Word)
  deriving DecidableEq, Repr

/-- The fields of an instruction's words, apart from which constructor they belong to. -/
structure Enc where
  op : BitVec 8
  w : Core
  second : Second
  imm : Option Word
  deriving DecidableEq, Repr

/-- The words' fields of an instruction, with the opcode of R58 and R59; an event has none. -/
def Instr.enc : Instr → Option Enc
  | .iadd x => some ⟨0x00, x.w, .none, x.imm⟩
  | .iaddLong x => some ⟨0x01, x.w, .mods x.m, x.imm⟩
  | .isub x => some ⟨0x02, x.w, .none, x.imm⟩
  | .isubLong x => some ⟨0x03, x.w, .mods x.m, x.imm⟩
  | .imul x => some ⟨0x04, x.w, .none, x.imm⟩
  | .imulLong x => some ⟨0x05, x.w, .mods x.m, x.imm⟩
  | .imulh x => some ⟨0x06, x.w, .none, x.imm⟩
  | .imulhLong x => some ⟨0x07, x.w, .mods x.m, x.imm⟩
  | .imad x => some ⟨0x09, x.w, .mods x.m, x.imm⟩
  | .imin x => some ⟨0x0A, x.w, .none, x.imm⟩
  | .iminLong x => some ⟨0x0B, x.w, .mods x.m, x.imm⟩
  | .imax x => some ⟨0x0C, x.w, .none, x.imm⟩
  | .imaxLong x => some ⟨0x0D, x.w, .mods x.m, x.imm⟩
  | .iabs x => some ⟨0x0E, x.w, .none, x.imm⟩
  | .iabsLong x => some ⟨0x0F, x.w, .mods x.m, x.imm⟩
  | .ineg x => some ⟨0x10, x.w, .none, x.imm⟩
  | .inegLong x => some ⟨0x11, x.w, .mods x.m, x.imm⟩
  | .and x => some ⟨0x12, x.w, .none, x.imm⟩
  | .andLong x => some ⟨0x13, x.w, .mods x.m, x.imm⟩
  | .or x => some ⟨0x14, x.w, .none, x.imm⟩
  | .orLong x => some ⟨0x15, x.w, .mods x.m, x.imm⟩
  | .xor x => some ⟨0x16, x.w, .none, x.imm⟩
  | .xorLong x => some ⟨0x17, x.w, .mods x.m, x.imm⟩
  | .not x => some ⟨0x18, x.w, .none, x.imm⟩
  | .notLong x => some ⟨0x19, x.w, .mods x.m, x.imm⟩
  | .shl x => some ⟨0x1A, x.w, .none, x.imm⟩
  | .shlLong x => some ⟨0x1B, x.w, .mods x.m, x.imm⟩
  | .shr x => some ⟨0x1C, x.w, .none, x.imm⟩
  | .shrLong x => some ⟨0x1D, x.w, .mods x.m, x.imm⟩
  | .sar x => some ⟨0x1E, x.w, .none, x.imm⟩
  | .sarLong x => some ⟨0x1F, x.w, .mods x.m, x.imm⟩
  | .rotl x => some ⟨0x20, x.w, .none, x.imm⟩
  | .rotlLong x => some ⟨0x21, x.w, .mods x.m, x.imm⟩
  | .bfe x => some ⟨0x23, x.w, .mods x.m, x.imm⟩
  | .bfi x => some ⟨0x25, x.w, .mods x.m, x.imm⟩
  | .popc x => some ⟨0x26, x.w, .none, x.imm⟩
  | .popcLong x => some ⟨0x27, x.w, .mods x.m, x.imm⟩
  | .clz x => some ⟨0x28, x.w, .none, x.imm⟩
  | .clzLong x => some ⟨0x29, x.w, .mods x.m, x.imm⟩
  | .brev x => some ⟨0x2A, x.w, .none, x.imm⟩
  | .brevLong x => some ⟨0x2B, x.w, .mods x.m, x.imm⟩
  | .icmp x => some ⟨0x2D, x.w, .mods x.m, x.imm⟩
  | .sel x => some ⟨0x2F, x.w, .mods x.m, x.imm⟩
  | .mov x => some ⟨0x30, x.w, .none, x.imm⟩
  | .movLong x => some ⟨0x31, x.w, .mods x.m, x.imm⟩
  | .smov x => some ⟨0x32, x.w, .none, x.imm⟩
  | .smovLong x => some ⟨0x33, x.w, .mods x.m, x.imm⟩
  | .ladd x => some ⟨0x34, x.w, .none, x.imm⟩
  | .laddLong x => some ⟨0x35, x.w, .mods x.m, x.imm⟩
  | .lsub x => some ⟨0x36, x.w, .none, x.imm⟩
  | .lsubLong x => some ⟨0x37, x.w, .mods x.m, x.imm⟩
  | .lmad x => some ⟨0x39, x.w, .mods x.m, x.imm⟩
  | .dp4 x => some ⟨0x3B, x.w, .mods x.m, x.imm⟩
  | .dp2 x => some ⟨0x3D, x.w, .mods x.m, x.imm⟩
  | .fadd x => some ⟨0x40, x.w, .none, x.imm⟩
  | .faddLong x => some ⟨0x41, x.w, .mods x.m, x.imm⟩
  | .fsub x => some ⟨0x42, x.w, .none, x.imm⟩
  | .fsubLong x => some ⟨0x43, x.w, .mods x.m, x.imm⟩
  | .fmul x => some ⟨0x44, x.w, .none, x.imm⟩
  | .fmulLong x => some ⟨0x45, x.w, .mods x.m, x.imm⟩
  | .ffma x => some ⟨0x47, x.w, .mods x.m, x.imm⟩
  | .fmin x => some ⟨0x48, x.w, .none, x.imm⟩
  | .fminLong x => some ⟨0x49, x.w, .mods x.m, x.imm⟩
  | .fmax x => some ⟨0x4A, x.w, .none, x.imm⟩
  | .fmaxLong x => some ⟨0x4B, x.w, .mods x.m, x.imm⟩
  | .fabs x => some ⟨0x4C, x.w, .none, x.imm⟩
  | .fabsLong x => some ⟨0x4D, x.w, .mods x.m, x.imm⟩
  | .fneg x => some ⟨0x4E, x.w, .none, x.imm⟩
  | .fnegLong x => some ⟨0x4F, x.w, .mods x.m, x.imm⟩
  | .fcmp x => some ⟨0x51, x.w, .mods x.m, x.imm⟩
  | .fclass x => some ⟨0x52, x.w, .none, x.imm⟩
  | .fclassLong x => some ⟨0x53, x.w, .mods x.m, x.imm⟩
  | .cvt x => some ⟨0x55, x.w, .mods x.m, x.imm⟩
  | .pack x => some ⟨0x57, x.w, .mods x.m, x.imm⟩
  | .unpk x => some ⟨0x59, x.w, .mods x.m, x.imm⟩
  | .frcp x => some ⟨0x5A, x.w, .none, x.imm⟩
  | .frcpLong x => some ⟨0x5B, x.w, .mods x.m, x.imm⟩
  | .frsq x => some ⟨0x5C, x.w, .none, x.imm⟩
  | .frsqLong x => some ⟨0x5D, x.w, .mods x.m, x.imm⟩
  | .fsqrt x => some ⟨0x5E, x.w, .none, x.imm⟩
  | .fsqrtLong x => some ⟨0x5F, x.w, .mods x.m, x.imm⟩
  | .fdiv x => some ⟨0x60, x.w, .none, x.imm⟩
  | .fdivLong x => some ⟨0x61, x.w, .mods x.m, x.imm⟩
  | .fexp2 x => some ⟨0x62, x.w, .none, x.imm⟩
  | .fexp2Long x => some ⟨0x63, x.w, .mods x.m, x.imm⟩
  | .flog2 x => some ⟨0x64, x.w, .none, x.imm⟩
  | .flog2Long x => some ⟨0x65, x.w, .mods x.m, x.imm⟩
  | .fsin x => some ⟨0x66, x.w, .none, x.imm⟩
  | .fsinLong x => some ⟨0x67, x.w, .mods x.m, x.imm⟩
  | .fcos x => some ⟨0x68, x.w, .none, x.imm⟩
  | .fcosLong x => some ⟨0x69, x.w, .mods x.m, x.imm⟩
  | .ftanh x => some ⟨0x6A, x.w, .none, x.imm⟩
  | .ftanhLong x => some ⟨0x6B, x.w, .mods x.m, x.imm⟩
  | .fdot2 x => some ⟨0x6D, x.w, .mods x.m, x.imm⟩
  | .frint x => some ⟨0x6E, x.w, .none, x.imm⟩
  | .frintLong x => some ⟨0x6F, x.w, .mods x.m, x.imm⟩
  | .fscale x => some ⟨0x70, x.w, .none, x.imm⟩
  | .fscaleLong x => some ⟨0x71, x.w, .mods x.m, x.imm⟩
  | .fsgn x => some ⟨0x72, x.w, .none, x.imm⟩
  | .fsgnLong x => some ⟨0x73, x.w, .mods x.m, x.imm⟩
  | .vote x => some ⟨0x81, x.w, .mods x.m, x.imm⟩
  | .ballot x => some ⟨0x82, x.w, .none, x.imm⟩
  | .ballotLong x => some ⟨0x83, x.w, .mods x.m, x.imm⟩
  | .bcast x => some ⟨0x84, x.w, .none, x.imm⟩
  | .bcastLong x => some ⟨0x85, x.w, .mods x.m, x.imm⟩
  | .shfl x => some ⟨0x86, x.w, .none, x.imm⟩
  | .shflLong x => some ⟨0x87, x.w, .mods x.m, x.imm⟩
  | .radd x => some ⟨0x88, x.w, .none, x.imm⟩
  | .raddLong x => some ⟨0x89, x.w, .mods x.m, x.imm⟩
  | .rext x => some ⟨0x8B, x.w, .mods x.m, x.imm⟩
  | .scan x => some ⟨0x8D, x.w, .mods x.m, x.imm⟩
  | .nbr x => some ⟨0x8F, x.w, .mods x.m, x.imm⟩
  | .ld x => some ⟨0x90, x.w, .desc x.d, x.imm⟩
  | .st x => some ⟨0x91, x.w, .desc x.d, x.imm⟩
  | .lds x => some ⟨0x92, x.w, .desc x.d, x.imm⟩
  | .sts x => some ⟨0x93, x.w, .desc x.d, x.imm⟩
  | .ldv x => some ⟨0x94, x.w, .desc x.d, x.imm⟩
  | .stv x => some ⟨0x95, x.w, .desc x.d, x.imm⟩
  | .pref x => some ⟨0x96, x.w, .desc x.d, x.imm⟩
  | .acopy x => some ⟨0x98, x.w, .desc x.d, x.imm⟩
  | .ldsc x => some ⟨0x99, x.w, .desc x.d, x.imm⟩
  | .obst x => some ⟨0xA0, x.w, .desc x.d, x.imm⟩
  | .obld x => some ⟨0xA1, x.w, .desc x.d, x.imm⟩
  | .atom x => some ⟨0xB0, x.w, .desc x.d, x.imm⟩
  | .ared x => some ⟨0xB1, x.w, .desc x.d, x.imm⟩
  | .afadd x => some ⟨0xB2, x.w, .desc x.d, x.imm⟩
  | .afred x => some ⟨0xB3, x.w, .desc x.d, x.imm⟩
  | .abin x => some ⟨0xB4, x.w, .desc x.d, x.imm⟩
  | .cas x => some ⟨0xB5, x.w, .desc x.d, x.imm⟩
  | .cas64 x => some ⟨0xB6, x.w, .desc x.d, x.imm⟩
  | .cas128 x => some ⟨0xB7, x.w, .desc x.d, x.imm⟩
  | .mwait x => some ⟨0xB8, x.w, .desc x.d, x.imm⟩
  | .mclr x => some ⟨0xB9, x.w, .desc x.d, x.imm⟩
  | .fence x => some ⟨0xBA, x.w, .desc x.d, x.imm⟩
  | .sfence x => some ⟨0xBB, x.w, .desc x.d, x.imm⟩
  | .jmp x => some ⟨0xC0, x.w, .none, x.imm⟩
  | .bra x => some ⟨0xC1, x.w, .mods x.m, x.imm⟩
  | .bdiv x => some ⟨0xC2, x.w, .mods x.m, x.imm⟩
  | .call x => some ⟨0xC3, x.w, .none, x.imm⟩
  | .ret x => some ⟨0xC4, x.w, .none, x.imm⟩
  | .exit x => some ⟨0xC5, x.w, .none, x.imm⟩
  | .wexm x => some ⟨0xC6, x.w, .none, x.imm⟩
  | .rdidx x => some ⟨0xC7, x.w, .none, x.imm⟩
  | .wridx x => some ⟨0xC8, x.w, .none, x.imm⟩
  | .waitc x => some ⟨0xC9, x.w, .none, x.imm⟩
  | .wmode x => some ⟨0xCA, x.w, .none, x.imm⟩
  | .racq x => some ⟨0xCB, x.w, .none, x.imm⟩
  | .rrel x => some ⟨0xCC, x.w, .none, x.imm⟩
  | .nop x => some ⟨0xCD, x.w, .none, x.imm⟩
  | .susp x => some ⟨0xD0, x.w, .none, x.imm⟩
  | .fwake x => some ⟨0xD1, x.w, .none, x.imm⟩
  | .fxform x => some ⟨0xD2, x.w, .mods x.m, x.imm⟩
  | .fthr x => some ⟨0xD3, x.w, .none, x.imm⟩
  | .fflush x => some ⟨0xD4, x.w, .none, x.imm⟩
  | .bar x => some ⟨0xD5, x.w, .none, x.imm⟩
  | .arrive x => some ⟨0xD6, x.w, .none, x.imm⟩
  | .bwait x => some ⟨0xD7, x.w, .none, x.imm⟩
  | .binit x => some ⟨0xD8, x.w, .none, x.imm⟩
  | .fstat x => some ⟨0xD9, x.w, .none, x.imm⟩
  | .mres x => some ⟨0xE0, x.w, .eng x.d, x.imm⟩
  | .mrel x => some ⟨0xE1, x.w, .eng x.d, x.imm⟩
  | .mldb x => some ⟨0xE2, x.w, .eng x.d, x.imm⟩
  | .mpass x => some ⟨0xE3, x.w, .eng x.d, x.imm⟩
  | .mdrain x => some ⟨0xE4, x.w, .eng x.d, x.imm⟩
  | .mpred x => some ⟨0xE5, x.w, .eng x.d, x.imm⟩
  | .msig x => some ⟨0xE6, x.w, .eng x.d, x.imm⟩
  | .mfence x => some ⟨0xE7, x.w, .eng x.d, x.imm⟩
  | .board x => some ⟨0xF0, x.w, .eng x.d, x.imm⟩
  | .unboard x => some ⟨0xF1, x.w, .eng x.d, x.imm⟩
  | .itin x => some ⟨0xF2, x.w, .eng x.d, x.imm⟩
  | .lapq x => some ⟨0xF3, x.w, .eng x.d, x.imm⟩
  | .coll x => some ⟨0xF4, x.w, .eng x.d, x.imm⟩
  | .gmemb x => some ⟨0xF5, x.w, .eng x.d, x.imm⟩
  | .launch x => some ⟨0xF6, x.w, .eng x.d, x.imm⟩
  | .trap x => some ⟨0xF8, x.w, .none, x.imm⟩
  | .tret x => some ⟨0xF9, x.w, .none, x.imm⟩
  | .rdsys x => some ⟨0xFA, x.w, .none, x.imm⟩
  | .wrsys x => some ⟨0xFB, x.w, .none, x.imm⟩
  | .brk x => some ⟨0xFC, x.w, .none, x.imm⟩
  | .svc x => some ⟨0xFD, x.w, .none, x.imm⟩
  | .ill x => some ⟨0xFF, x.w, .none, x.imm⟩
  | .clauseFetch => none
  | .clauseWaitPass => none
  | .groupSlotFree => none
  | .debugResume => none
  | .homeLoadPerform => none
  | .loadReply => none
  | .homeStorePerform => none
  | .storeWctReply => none
  | .operationRetire => none
  | .pageReclassify => none
  | .copyLaneTransfer => none
  | .homeAtomicPerform => none
  | .atomicReply => none
  | .hostReadCompletion => none
  | .hostAtomicCompletion => none
  | .monitorRegister => none
  | .wakeRecord => none
  | .wakeAck => none
  | .homeMigrationPass => none
  | .homeMigrationSwitch => none
  | .registerDeadlock => none
  | .racqGrant => none
  | .rowReturn => none
  | .flushTimeout => none
  | .tileLoad => none
  | .checkpointLoad => none
  | .translationWalk => none
  | .pageRequestWrite => none
  | .cmdInval => none
  | .cmdShard => none
  | .cmdDrop => none
  | .cmdPartial => none
  | .cmdEvict => none
  | .cmdLocal => none
  | .cmdPreply => none
  | .stripeRequest => none
  | .stripeRequestResend => none
  | .stripeReply => none
  | .replayGroupLoad => none
  | .peerSlow => none
  | .heartbeat => none
  | .memberSilenceTimeout => none
  | .agreementProposal => none
  | .agreementAccept => none
  | .reduceStripeArrival => none
  | .reduceAcknowledgement => none
  | .mldbFillComplete => none
  | .arrayGrant => none
  | .mpassComplete => none
  | .mdrainComplete => none
  | .teamRetire => none
  | .lapBoundary => none
  | .tileEmit => none
  | .boardReachStop => none
  | .tileSighting => none
  | .ringRateSlow => none
  | .switchSlotRequest => none
  | .collectiveDataArrival => none
  | .collectiveComplete => none
  | .collectiveArrive => none
  | .qsub => none
  | .clusterPlace => none
  | .gridEnd => none
  | .quantumExpiry => none
  | .partitionHalted => none
  | .swapOut => none
  | .swapIn => none
  | .watchdogExpiry => none
  | .sliceLend => none
  | .sliceRecall => none
  | .recallReturn => none
  | .ccarveWrite => none
  | .carveComplete => none
  | .fwmboxSetPartition => none
  | .fwmboxBindFunction => none
  | .fwmboxRecall => none
  | .fwmboxCarve => none
  | .fwmboxRemap => none
  | .correctedDramError => none
  | .errorFilterClear => none
  | .sramCorrectedError => none
  | .uncorrectableError => none
  | .surveyorReplay => none
  | .linkDown => none
  | .powerOn => none
  | .bringUpComplete => none
  | .attestationRequest => none
  | .powerArbiterPeriod => none
  | .thermalThrottle => none
  | .thermalUnthrottle => none
  | .thermalStop => none
  | .thermalClockStop => none
  | .thermalRestart => none
  | .registerWrite => none
  | .unassignedOpcode _ => none
  | .cmdRefused => none
  | .linkUp => none

/-- The instruction with given fields; nothing where the opcode is unassigned or takes another second word. -/
def Instr.ofEnc (n : Enc) : Option Instr :=
  match n.op.toNat, n.second with
  | 0x00, .none => some (.iadd ⟨n.w, n.imm⟩)
  | 0x01, .mods m => some (.iaddLong ⟨n.w, m, n.imm⟩)
  | 0x02, .none => some (.isub ⟨n.w, n.imm⟩)
  | 0x03, .mods m => some (.isubLong ⟨n.w, m, n.imm⟩)
  | 0x04, .none => some (.imul ⟨n.w, n.imm⟩)
  | 0x05, .mods m => some (.imulLong ⟨n.w, m, n.imm⟩)
  | 0x06, .none => some (.imulh ⟨n.w, n.imm⟩)
  | 0x07, .mods m => some (.imulhLong ⟨n.w, m, n.imm⟩)
  | 0x09, .mods m => some (.imad ⟨n.w, m, n.imm⟩)
  | 0x0A, .none => some (.imin ⟨n.w, n.imm⟩)
  | 0x0B, .mods m => some (.iminLong ⟨n.w, m, n.imm⟩)
  | 0x0C, .none => some (.imax ⟨n.w, n.imm⟩)
  | 0x0D, .mods m => some (.imaxLong ⟨n.w, m, n.imm⟩)
  | 0x0E, .none => some (.iabs ⟨n.w, n.imm⟩)
  | 0x0F, .mods m => some (.iabsLong ⟨n.w, m, n.imm⟩)
  | 0x10, .none => some (.ineg ⟨n.w, n.imm⟩)
  | 0x11, .mods m => some (.inegLong ⟨n.w, m, n.imm⟩)
  | 0x12, .none => some (.and ⟨n.w, n.imm⟩)
  | 0x13, .mods m => some (.andLong ⟨n.w, m, n.imm⟩)
  | 0x14, .none => some (.or ⟨n.w, n.imm⟩)
  | 0x15, .mods m => some (.orLong ⟨n.w, m, n.imm⟩)
  | 0x16, .none => some (.xor ⟨n.w, n.imm⟩)
  | 0x17, .mods m => some (.xorLong ⟨n.w, m, n.imm⟩)
  | 0x18, .none => some (.not ⟨n.w, n.imm⟩)
  | 0x19, .mods m => some (.notLong ⟨n.w, m, n.imm⟩)
  | 0x1A, .none => some (.shl ⟨n.w, n.imm⟩)
  | 0x1B, .mods m => some (.shlLong ⟨n.w, m, n.imm⟩)
  | 0x1C, .none => some (.shr ⟨n.w, n.imm⟩)
  | 0x1D, .mods m => some (.shrLong ⟨n.w, m, n.imm⟩)
  | 0x1E, .none => some (.sar ⟨n.w, n.imm⟩)
  | 0x1F, .mods m => some (.sarLong ⟨n.w, m, n.imm⟩)
  | 0x20, .none => some (.rotl ⟨n.w, n.imm⟩)
  | 0x21, .mods m => some (.rotlLong ⟨n.w, m, n.imm⟩)
  | 0x23, .mods m => some (.bfe ⟨n.w, m, n.imm⟩)
  | 0x25, .mods m => some (.bfi ⟨n.w, m, n.imm⟩)
  | 0x26, .none => some (.popc ⟨n.w, n.imm⟩)
  | 0x27, .mods m => some (.popcLong ⟨n.w, m, n.imm⟩)
  | 0x28, .none => some (.clz ⟨n.w, n.imm⟩)
  | 0x29, .mods m => some (.clzLong ⟨n.w, m, n.imm⟩)
  | 0x2A, .none => some (.brev ⟨n.w, n.imm⟩)
  | 0x2B, .mods m => some (.brevLong ⟨n.w, m, n.imm⟩)
  | 0x2D, .mods m => some (.icmp ⟨n.w, m, n.imm⟩)
  | 0x2F, .mods m => some (.sel ⟨n.w, m, n.imm⟩)
  | 0x30, .none => some (.mov ⟨n.w, n.imm⟩)
  | 0x31, .mods m => some (.movLong ⟨n.w, m, n.imm⟩)
  | 0x32, .none => some (.smov ⟨n.w, n.imm⟩)
  | 0x33, .mods m => some (.smovLong ⟨n.w, m, n.imm⟩)
  | 0x34, .none => some (.ladd ⟨n.w, n.imm⟩)
  | 0x35, .mods m => some (.laddLong ⟨n.w, m, n.imm⟩)
  | 0x36, .none => some (.lsub ⟨n.w, n.imm⟩)
  | 0x37, .mods m => some (.lsubLong ⟨n.w, m, n.imm⟩)
  | 0x39, .mods m => some (.lmad ⟨n.w, m, n.imm⟩)
  | 0x3B, .mods m => some (.dp4 ⟨n.w, m, n.imm⟩)
  | 0x3D, .mods m => some (.dp2 ⟨n.w, m, n.imm⟩)
  | 0x40, .none => some (.fadd ⟨n.w, n.imm⟩)
  | 0x41, .mods m => some (.faddLong ⟨n.w, m, n.imm⟩)
  | 0x42, .none => some (.fsub ⟨n.w, n.imm⟩)
  | 0x43, .mods m => some (.fsubLong ⟨n.w, m, n.imm⟩)
  | 0x44, .none => some (.fmul ⟨n.w, n.imm⟩)
  | 0x45, .mods m => some (.fmulLong ⟨n.w, m, n.imm⟩)
  | 0x47, .mods m => some (.ffma ⟨n.w, m, n.imm⟩)
  | 0x48, .none => some (.fmin ⟨n.w, n.imm⟩)
  | 0x49, .mods m => some (.fminLong ⟨n.w, m, n.imm⟩)
  | 0x4A, .none => some (.fmax ⟨n.w, n.imm⟩)
  | 0x4B, .mods m => some (.fmaxLong ⟨n.w, m, n.imm⟩)
  | 0x4C, .none => some (.fabs ⟨n.w, n.imm⟩)
  | 0x4D, .mods m => some (.fabsLong ⟨n.w, m, n.imm⟩)
  | 0x4E, .none => some (.fneg ⟨n.w, n.imm⟩)
  | 0x4F, .mods m => some (.fnegLong ⟨n.w, m, n.imm⟩)
  | 0x51, .mods m => some (.fcmp ⟨n.w, m, n.imm⟩)
  | 0x52, .none => some (.fclass ⟨n.w, n.imm⟩)
  | 0x53, .mods m => some (.fclassLong ⟨n.w, m, n.imm⟩)
  | 0x55, .mods m => some (.cvt ⟨n.w, m, n.imm⟩)
  | 0x57, .mods m => some (.pack ⟨n.w, m, n.imm⟩)
  | 0x59, .mods m => some (.unpk ⟨n.w, m, n.imm⟩)
  | 0x5A, .none => some (.frcp ⟨n.w, n.imm⟩)
  | 0x5B, .mods m => some (.frcpLong ⟨n.w, m, n.imm⟩)
  | 0x5C, .none => some (.frsq ⟨n.w, n.imm⟩)
  | 0x5D, .mods m => some (.frsqLong ⟨n.w, m, n.imm⟩)
  | 0x5E, .none => some (.fsqrt ⟨n.w, n.imm⟩)
  | 0x5F, .mods m => some (.fsqrtLong ⟨n.w, m, n.imm⟩)
  | 0x60, .none => some (.fdiv ⟨n.w, n.imm⟩)
  | 0x61, .mods m => some (.fdivLong ⟨n.w, m, n.imm⟩)
  | 0x62, .none => some (.fexp2 ⟨n.w, n.imm⟩)
  | 0x63, .mods m => some (.fexp2Long ⟨n.w, m, n.imm⟩)
  | 0x64, .none => some (.flog2 ⟨n.w, n.imm⟩)
  | 0x65, .mods m => some (.flog2Long ⟨n.w, m, n.imm⟩)
  | 0x66, .none => some (.fsin ⟨n.w, n.imm⟩)
  | 0x67, .mods m => some (.fsinLong ⟨n.w, m, n.imm⟩)
  | 0x68, .none => some (.fcos ⟨n.w, n.imm⟩)
  | 0x69, .mods m => some (.fcosLong ⟨n.w, m, n.imm⟩)
  | 0x6A, .none => some (.ftanh ⟨n.w, n.imm⟩)
  | 0x6B, .mods m => some (.ftanhLong ⟨n.w, m, n.imm⟩)
  | 0x6D, .mods m => some (.fdot2 ⟨n.w, m, n.imm⟩)
  | 0x6E, .none => some (.frint ⟨n.w, n.imm⟩)
  | 0x6F, .mods m => some (.frintLong ⟨n.w, m, n.imm⟩)
  | 0x70, .none => some (.fscale ⟨n.w, n.imm⟩)
  | 0x71, .mods m => some (.fscaleLong ⟨n.w, m, n.imm⟩)
  | 0x72, .none => some (.fsgn ⟨n.w, n.imm⟩)
  | 0x73, .mods m => some (.fsgnLong ⟨n.w, m, n.imm⟩)
  | 0x81, .mods m => some (.vote ⟨n.w, m, n.imm⟩)
  | 0x82, .none => some (.ballot ⟨n.w, n.imm⟩)
  | 0x83, .mods m => some (.ballotLong ⟨n.w, m, n.imm⟩)
  | 0x84, .none => some (.bcast ⟨n.w, n.imm⟩)
  | 0x85, .mods m => some (.bcastLong ⟨n.w, m, n.imm⟩)
  | 0x86, .none => some (.shfl ⟨n.w, n.imm⟩)
  | 0x87, .mods m => some (.shflLong ⟨n.w, m, n.imm⟩)
  | 0x88, .none => some (.radd ⟨n.w, n.imm⟩)
  | 0x89, .mods m => some (.raddLong ⟨n.w, m, n.imm⟩)
  | 0x8B, .mods m => some (.rext ⟨n.w, m, n.imm⟩)
  | 0x8D, .mods m => some (.scan ⟨n.w, m, n.imm⟩)
  | 0x8F, .mods m => some (.nbr ⟨n.w, m, n.imm⟩)
  | 0x90, .desc d => some (.ld ⟨n.w, d, n.imm⟩)
  | 0x91, .desc d => some (.st ⟨n.w, d, n.imm⟩)
  | 0x92, .desc d => some (.lds ⟨n.w, d, n.imm⟩)
  | 0x93, .desc d => some (.sts ⟨n.w, d, n.imm⟩)
  | 0x94, .desc d => some (.ldv ⟨n.w, d, n.imm⟩)
  | 0x95, .desc d => some (.stv ⟨n.w, d, n.imm⟩)
  | 0x96, .desc d => some (.pref ⟨n.w, d, n.imm⟩)
  | 0x98, .desc d => some (.acopy ⟨n.w, d, n.imm⟩)
  | 0x99, .desc d => some (.ldsc ⟨n.w, d, n.imm⟩)
  | 0xA0, .desc d => some (.obst ⟨n.w, d, n.imm⟩)
  | 0xA1, .desc d => some (.obld ⟨n.w, d, n.imm⟩)
  | 0xB0, .desc d => some (.atom ⟨n.w, d, n.imm⟩)
  | 0xB1, .desc d => some (.ared ⟨n.w, d, n.imm⟩)
  | 0xB2, .desc d => some (.afadd ⟨n.w, d, n.imm⟩)
  | 0xB3, .desc d => some (.afred ⟨n.w, d, n.imm⟩)
  | 0xB4, .desc d => some (.abin ⟨n.w, d, n.imm⟩)
  | 0xB5, .desc d => some (.cas ⟨n.w, d, n.imm⟩)
  | 0xB6, .desc d => some (.cas64 ⟨n.w, d, n.imm⟩)
  | 0xB7, .desc d => some (.cas128 ⟨n.w, d, n.imm⟩)
  | 0xB8, .desc d => some (.mwait ⟨n.w, d, n.imm⟩)
  | 0xB9, .desc d => some (.mclr ⟨n.w, d, n.imm⟩)
  | 0xBA, .desc d => some (.fence ⟨n.w, d, n.imm⟩)
  | 0xBB, .desc d => some (.sfence ⟨n.w, d, n.imm⟩)
  | 0xC0, .none => some (.jmp ⟨n.w, n.imm⟩)
  | 0xC1, .mods m => some (.bra ⟨n.w, m, n.imm⟩)
  | 0xC2, .mods m => some (.bdiv ⟨n.w, m, n.imm⟩)
  | 0xC3, .none => some (.call ⟨n.w, n.imm⟩)
  | 0xC4, .none => some (.ret ⟨n.w, n.imm⟩)
  | 0xC5, .none => some (.exit ⟨n.w, n.imm⟩)
  | 0xC6, .none => some (.wexm ⟨n.w, n.imm⟩)
  | 0xC7, .none => some (.rdidx ⟨n.w, n.imm⟩)
  | 0xC8, .none => some (.wridx ⟨n.w, n.imm⟩)
  | 0xC9, .none => some (.waitc ⟨n.w, n.imm⟩)
  | 0xCA, .none => some (.wmode ⟨n.w, n.imm⟩)
  | 0xCB, .none => some (.racq ⟨n.w, n.imm⟩)
  | 0xCC, .none => some (.rrel ⟨n.w, n.imm⟩)
  | 0xCD, .none => some (.nop ⟨n.w, n.imm⟩)
  | 0xD0, .none => some (.susp ⟨n.w, n.imm⟩)
  | 0xD1, .none => some (.fwake ⟨n.w, n.imm⟩)
  | 0xD2, .mods m => some (.fxform ⟨n.w, m, n.imm⟩)
  | 0xD3, .none => some (.fthr ⟨n.w, n.imm⟩)
  | 0xD4, .none => some (.fflush ⟨n.w, n.imm⟩)
  | 0xD5, .none => some (.bar ⟨n.w, n.imm⟩)
  | 0xD6, .none => some (.arrive ⟨n.w, n.imm⟩)
  | 0xD7, .none => some (.bwait ⟨n.w, n.imm⟩)
  | 0xD8, .none => some (.binit ⟨n.w, n.imm⟩)
  | 0xD9, .none => some (.fstat ⟨n.w, n.imm⟩)
  | 0xE0, .eng d => some (.mres ⟨n.w, d, n.imm⟩)
  | 0xE1, .eng d => some (.mrel ⟨n.w, d, n.imm⟩)
  | 0xE2, .eng d => some (.mldb ⟨n.w, d, n.imm⟩)
  | 0xE3, .eng d => some (.mpass ⟨n.w, d, n.imm⟩)
  | 0xE4, .eng d => some (.mdrain ⟨n.w, d, n.imm⟩)
  | 0xE5, .eng d => some (.mpred ⟨n.w, d, n.imm⟩)
  | 0xE6, .eng d => some (.msig ⟨n.w, d, n.imm⟩)
  | 0xE7, .eng d => some (.mfence ⟨n.w, d, n.imm⟩)
  | 0xF0, .eng d => some (.board ⟨n.w, d, n.imm⟩)
  | 0xF1, .eng d => some (.unboard ⟨n.w, d, n.imm⟩)
  | 0xF2, .eng d => some (.itin ⟨n.w, d, n.imm⟩)
  | 0xF3, .eng d => some (.lapq ⟨n.w, d, n.imm⟩)
  | 0xF4, .eng d => some (.coll ⟨n.w, d, n.imm⟩)
  | 0xF5, .eng d => some (.gmemb ⟨n.w, d, n.imm⟩)
  | 0xF6, .eng d => some (.launch ⟨n.w, d, n.imm⟩)
  | 0xF8, .none => some (.trap ⟨n.w, n.imm⟩)
  | 0xF9, .none => some (.tret ⟨n.w, n.imm⟩)
  | 0xFA, .none => some (.rdsys ⟨n.w, n.imm⟩)
  | 0xFB, .none => some (.wrsys ⟨n.w, n.imm⟩)
  | 0xFC, .none => some (.brk ⟨n.w, n.imm⟩)
  | 0xFD, .none => some (.svc ⟨n.w, n.imm⟩)
  | 0xFF, .none => some (.ill ⟨n.w, n.imm⟩)
  | _, _ => none

/-- The opcode is assigned (R58, R59). -/
def opAssigned (op : Nat) : Bool :=
  if op < 0x90 then
    if op % 2 = 1 then (op < 0x74 && op ≠ 0x3F) || 0x80 ≤ op
    else (op < 0x74 && !([0x08, 0x22, 0x24, 0x2C, 0x2E, 0x38, 0x3A, 0x3C, 0x3E, 0x46, 0x50, 0x54, 0x56, 0x58, 0x6C].contains op))
      || [0x82, 0x84, 0x86, 0x88].contains op
  else if op < 0xA0 then op < 0x97 || op = 0x98 || op = 0x99
  else if op < 0xB0 then op < 0xA2
  else if op < 0xC0 then op < 0xBC
  else if op < 0xD0 then op < 0xCE
  else if op < 0xE0 then op < 0xDA
  else if op < 0xF0 then op < 0xE8
  else op ≠ 0xF7 && op ≠ 0xFE

/-- The form calls for a modifier word (R60). -/
def opMods (op : Nat) : Bool := (op < 0x90 && op % 2 = 1) || op = 0xC1 || op = 0xC2 || op = 0xD2

/-- The form calls for the descriptor word of R55 (R60). -/
def opDesc (op : Nat) : Bool := 0x90 ≤ op && op < 0xC0

/-- The form calls for a descriptor word of R56 (R60). -/
def opEng (op : Nat) : Bool := 0xE0 ≤ op && op < 0xF7

/-- The form fixes an immediate word (R60). -/
def opImm (op : Nat) : Bool := (0xC0 ≤ op && op < 0xC4) || op = 0xD0 || op = 0xF8

/-- The opcode's B is a literal, not a source byte (R158). -/
def opLitB (op : Nat) : Bool := op = 0xFA || op = 0xFB

/-- The opcode must stand last in its clause (R43; `susp` under its own rule). -/
def opEnds (op : Nat) : Bool := (0xC0 ≤ op && op < 0xC6) || op = 0xF8 || op = 0xF9 || op = 0xFD

end Sys2Proof
end

