-- ==== Sys2Proof/WellFormed.lean ====
section
/-! DEFINITION. Which instructions are well formed: those the checks of order 1 of R62 do not refuse (R45, R46, R54 to
R56), with an immediate word exactly where their form has one (R51). -/

namespace Sys2Proof

/-- A DST literal or register number keeps the bits its class requires zero at zero (R45). -/
def DstKind.bitsOk (k : DstKind) (d : BitVec 7) : Bool :=
  match k with
  | .none => d == 0
  | .v _ => true
  | .s | .s64 => d.toNat < 64
  | .p => d.toNat < 8
  | .lit n => d.toNat < 2 ^ n

/-- The destination is a register, so NOWB may suppress its write (R45). -/
def DstKind.isReg : DstKind → Bool
  | .none | .lit _ => false
  | _ => true

/-- NOWB is clear, or allowed for the destination class and the opcode (R45): below 0xC0 with a register destination,
or on `rdidx` (0xC7). -/
def nowbOk (op : Nat) (k : DstKind) (nowb : Bool) : Bool := !nowb || (k.isReg && (op < 0xC0 || op = 0xC7))

/-- A source field that is not read holds 0x00 (R46). -/
def SrcKind.fieldOk (k : SrcKind) (x : Src) : Bool := k != .none || x == .v 0

/-- The codes of R52 and R53 as numbers. -/
def Rnd.code : Rnd → Nat
  | .mode => 0 | .rne => 1 | .rtz => 2 | .rup => 3 | .rdn => 4 | .rna => 5 | .sr => 6

/-- The modifier fields hold codes the row accepts (R54). -/
def Shape.modsOk (h : Shape) (m : Mods) : Bool :=
  h.c.fieldOk m.c && m.rnd.code ≤ h.rnd && (!m.sat || h.sat) && (h.pred || (m.pred == 0 && !m.pneg)) &&
    h.ty.contains m.ty && h.subop.contains m.subop.toNat

/-- The descriptor fields of R55 hold codes the row accepts (R54, R55). -/
def Shape.descOk (h : Shape) (d : Desc) : Bool :=
  h.c.fieldOk d.c && h.e.fieldOk d.e && (h.pred || (d.pred == 0 && !d.pneg)) && (h.scope || d.scope == .grp) &&
    h.width.contains d.width && h.ord.contains d.ord && h.subop.contains d.subop.toNat

/-- The second word is accepted. -/
def Shape.secondOk (h : Shape) : Second → Bool
  | .none => h.ty.contains .dflt && h.subop.contains 0
  | .mods m => h.modsOk m
  | .desc d => h.descOk d
  | .eng _ => true

/-- The fields of an instruction's words pass the checks of order 1 that depend on its own words (R62). -/
def Shape.accepts (h : Shape) (n : Enc) : Bool :=
  h.dst.bitsOk n.w.dst && nowbOk n.op.toNat h.dst n.w.nowb && h.a.fieldOk n.w.a && h.b.fieldOk n.w.b &&
    h.secondOk n.second && h.rest

/-- The source names the immediate word (R48). -/
def Src.isImm (x : Src) : Bool := x == .special .imm

/-- The source fields of the second word name the immediate word. -/
def Second.namesImm : Second → Bool
  | .mods m => m.c.isImm
  | .desc d => d.c.isImm || d.e.isImm
  | _ => false

/-- The instruction has an immediate word: its form fixes one, or a source field names `imm` (R51). -/
def Enc.hasImm (n : Enc) : Bool :=
  opImm n.op.toNat || n.w.a.isImm || (n.w.b.isImm && !opLitB n.op.toNat) || n.second.namesImm

/-- The number of words of an instruction (R51); an event has none, and an unassigned word is one (R60). -/
def Instr.size (i : Instr) : Nat :=
  match i.enc with
  | some n => 1 + (if n.second = .none then 0 else 1) + (if n.imm.isSome then 1 else 0)
  | none => match i with
    | .unassignedOpcode _ => 1
    | _ => 0

/-- Well-formed: the checks of order 1 pass and the immediate word is there exactly when the form has it.  An
unassigned word is one whose opcode is unassigned (R59); the arguments of an event are not restricted. -/
def Instr.wf (i : Instr) : Bool :=
  match i.enc with
  | some n => i.shape.accepts n && n.imm.isSome == n.hasImm
  | none => match i with
    | .unassignedOpcode w => !opAssigned (w.toNat / 2 ^ 24)
    | _ => true

end Sys2Proof
end

