-- ==== Sys2Proof/Machine/Operands.lean ====
section
/-! DEFINITION. Operand forms: what every source selects (R46 to R50), which operands raise illegal-operand and
register-bound (R62, R413), and how results reach registers and latches (R27 to R32). -/

namespace Sys2Proof

/-- The field is read as a source byte. -/
def SrcKind.reads : SrcKind → Bool
  | .none | .literal => false
  | _ => true

/-- The registers a source field names. -/
def SrcKind.regs : SrcKind → Nat
  | .wide | .wideUni => 2
  | .span n => n
  | _ => 1

end Sys2Proof

namespace Sys2Proof.Machine

/-! ### Lanes and masks -/

def lanes : List Nat := List.range 32

/-- One word per lane. -/
def vecOf (f : Nat → Word) : List Word := lanes.map f

def laneAt (v : List Word) (i : Nat) : Word := v.getD i 0

/-- The mask of the lanes a test holds in. -/
def maskOf (f : Nat → Bool) : Word := word (lanes.foldl (fun m i => if f i then m + 2 ^ i else m) 0)

/-- The lanes of a mask, ascending. -/
def lanesOf (m : Word) : List Nat := lanes.filter (fun i => m.getLsbD i)

def allLanes : Word := 0xFFFFFFFF

def popcount (m : Word) : Nat := (lanesOf m).length

def pair64 (lo hi : Word) : Word64 := word64 (lo.toNat + hi.toNat * 2 ^ 32)
def lo32 (x : Word64) : Word := word x.toNat
def hi32 (x : Word64) : Word := word (x.toNat / 2 ^ 32)

/-- Sign extension of a word to 64 bits. -/
def sext64 (x : Word) : Word64 := x.signExtend 64

/-! ### Registers (R22, R27, R309) -/

/-- The fragment that issues (R22). -/
def Ctx.frag (c : Ctx) : Frag := ((c.frags.getD c.fsel none)).getD {}

def Ctx.setFrag (c : Ctx) (f : Frag) : Ctx := { c with frags := c.frags.set c.fsel (some f) }

/-- EXM: the active mask of the issuing fragment (R20). -/
def Ctx.exm (c : Ctx) : Word := c.frag.amask

def Ctx.vreg (c : Ctx) (r i : Nat) : Word := Cells.get 0 c.v (32 * r + i)
def Ctx.sreg (c : Ctx) (n : Nat) : Word := Cells.get 0 c.s n
def Ctx.sreg64 (c : Ctx) (n : Nat) : Word64 := pair64 (c.sreg n) (c.sreg (n + 1))

/-- A predicate register as a lane mask: p0 reads 1 (R21). -/
def Ctx.preg (c : Ctx) (n : Nat) : Word := if n = 0 then allLanes else Cells.get 0 c.p n

def Ctx.setS (c : Ctx) (n : Nat) (x : Word) : Ctx := { c with s := Cells.set 0 c.s n x }
def Ctx.setS64 (c : Ctx) (n : Nat) (x : Word64) : Ctx := (c.setS n (lo32 x)).setS (n + 1) (hi32 x)

/-- Writes a vector register in the lanes of a mask. -/
def Ctx.setV (c : Ctx) (r : Nat) (m : Word) (x : List Word) : Ctx :=
  { c with v := Cells.setMany 0 c.v (32 * r) (vecOf (fun i => if m.getLsbD i then laneAt x i else c.vreg r i)) }

/-- Writes a predicate register in the lanes of a mask; writes to p0 are discarded (R21). -/
def Ctx.setP (c : Ctx) (n : Nat) (m x : Word) : Ctx :=
  if n = 0 then c else { c with p := Cells.set 0 c.p n ((x &&& m) ||| (c.preg n &&& ~~~m)) }

/-- The enabled lanes of an instruction with a predicate (R21). -/
def Ctx.enabled (c : Ctx) (pred : Nat) (pneg : Bool) : Word :=
  c.exm &&& (if pneg then ~~~c.preg pred else c.preg pred)

def Ctx.enabledM (c : Ctx) (m : Mods) : Word := c.enabled m.pred.toNat m.pneg
def Ctx.enabledD (c : Ctx) (d : Desc) : Word := c.enabled d.pred.toNat d.pneg

/-! ### Sources (R47 to R50) -/

/-- The constants of R49. -/
def constVal (n : BitVec 5) : Word :=
  if n.toNat ≤ 16 then word n.toNat
  else match n.toNat with
    | 17 => 32 | 18 => 64 | 19 => 128 | 20 => 255 | 21 => 256 | 22 => 1024 | 23 => 0xFFFFFFFF | 24 => 0x80000000
    | 25 => 0x7FFFFFFF | 26 => 0x3F000000 | 27 => 0x3F800000 | 28 => 0x40000000 | 29 => 0xBF800000
    | 30 => 0x7F800000 | _ => 0x7FC00000

/-- SPLITV of the split table as it stands (R33). -/
def Ctx.splitvNow (c : Ctx) : Word :=
  let valid := fun (n : Nat) (used : Nat → Bool) => (List.range n).foldl (fun m i => if used i then m + 2 ^ i else m) 0
  word (valid 8 (fun i => (c.frags.getD i none).isSome) + c.fsel * 2 ^ 8
    + valid 8 (fun i => (c.joins.getD i none).isSome) * 2 ^ 11)

/-- A special source in a lane (R48); a control thread's as R310 gives. -/
def Ctx.special (c : Ctx) (imm : Word) (i : Nat) : Special → Word
  | .laneid => word i
  | .exm => c.exm
  | .mode => c.mode
  | .splitv => c.clause.splitv
  | .lastwct => if c.kind = .thread then 0 else word c.lastwct
  | .lastwcth => if c.kind = .thread then 0 else word (c.lastwct / 2 ^ 32)
  | .grpid => word c.grpid
  | .imm => imm
  | .lvl k => if c.kind = .thread && k != 6 then 0 else word (c.counter k.toNat)
  | .teamid => word c.teamid
  | .clusid => word c.clusid
  | .ngrp => word c.ngrp
  | .ptime => lo32 (c.sample.getD 0)
  | .ptimeh => hi32 (c.sample.getD 0)

/-- A source as a 32-bit operand in a lane; a latch as the window holds it (R31). -/
def Ctx.src (c : Ctx) (imm : Word) (x : Src) (i : Nat) : Word :=
  match x with
  | .v n => c.vreg n.toNat i
  | .latch k => laneAt ((c.clause.win.getD k.toNat none).getD []) i
  | .special y => c.special imm i y
  | .reserved _ => 0
  | .const n => constVal n
  | .s n => c.sreg n.toNat

/-- A source as a 64-bit operand in a lane (R28, R48 to R50). -/
def Ctx.src64 (c : Ctx) (imm : Word) (x : Src) (i : Nat) : Word64 :=
  match x with
  | .v n => pair64 (c.vreg n.toNat i) (c.vreg (n.toNat + 1) i)
  | .s n => c.sreg64 n.toNat
  | .const n => sext64 (constVal n)
  | .special .imm => sext64 imm
  | .special .lastwct => if c.kind = .thread then 0 else word64 c.lastwct
  | .special .ptime => c.sample.getD 0
  | .special y => (c.special imm i y).setWidth 64
  | _ => 0

/-- A group-uniform operand. -/
def Ctx.uni (c : Ctx) (imm : Word) (x : Src) : Word := c.src imm x 0
def Ctx.uni64 (c : Ctx) (imm : Word) (x : Src) : Word64 := c.src64 imm x 0

/-! ### The fields of an instruction -/

/-- The source fields with their numbers as DETAIL gives them (R152), in the order of R413. -/
def sources (h : Shape) (n : Enc) : List (Nat × SrcKind × Src) :=
  let ab := [(0, h.a, n.w.a), (1, h.b, n.w.b)]
  match n.second with
  | .mods m => ab ++ [(2, h.c, m.c)]
  | .desc d => ab ++ [(2, h.c, d.c), (3, h.e, d.e)]
  | _ => ab

/-- A control thread may not name these sources (R300, R310). -/
def threadBad : Src → Bool
  | .s n => 32 ≤ n.toNat
  | .special .laneid | .special .exm | .special .splitv => true
  | _ => false

/-- The latch holds a result (R31). -/
def Ctx.latchOk (c : Ctx) (k : BitVec 3) : Bool := ((c.clause.win.getD k.toNat none)).isSome

/-- A source a field may not name: order 2 of R62 (R28, R31, R47, R50, R96, R125, R131, R142). -/
def Ctx.badSource (c : Ctx) (k : SrcKind) (x : Src) : Bool :=
  k.reads && ((c.kind = .thread && threadBad x) ||
    match k, x with
    | _, .reserved _ => true
    | .vec, .latch j => !c.latchOk j
    | .vec, _ => false
    | .uni, .v _ | .uni, .latch _ | .uni, .special .laneid => true
    | .uni, _ => false
    | .wide, .v n => n.toNat % 2 = 1
    | .wide, .s n => n.toNat % 2 = 1
    | .wide, .latch _ => true
    | .wide, _ => false
    | .wideUni, .s n => n.toNat % 2 = 1
    | .wideUni, .v _ | .wideUni, .latch _ | .wideUni, .special .laneid => true
    | .wideUni, _ => false
    | .wideOpt, .v n => n != 0
    | .wideOpt, .s n => n.toNat % 2 = 1
    | .wideOpt, .latch _ | .wideOpt, .special .laneid => true
    | .wideOpt, _ => false
    | .pair, .s n => n.toNat % 2 = 1
    | .pair, _ => true
    | .span m, .v n => n.toNat % m != 0
    | .span _, _ => true
    | .low, .v n => 32 ≤ n.toNat
    | .low, _ => true
    | _, _ => false)

/-- A destination a field may not name: order 2 of R62 (R28, R142, R300). -/
def Ctx.badDst (c : Ctx) (k : DstKind) (d : Nat) : Bool :=
  match k with
  | .v n => d % n != 0
  | .s64 => d % 2 = 1 || (c.kind = .thread && 32 ≤ d)
  | .s => c.kind = .thread && 32 ≤ d
  | _ => false

/-- The lowest register of a span at or above the acquired count (R30, R413). -/
def Ctx.outOf (c : Ctx) (r n : Nat) : Option Nat := if c.acq < r + n then some (max r c.acq) else none

/-- A vector register of a source at or above the acquired count. -/
def Ctx.boundSource (c : Ctx) (k : SrcKind) (x : Src) : Option Nat :=
  if k.reads then match x with
    | .v n => if k = .wideOpt then none else c.outOf n.toNat k.regs
    | _ => none
  else none

def Ctx.boundDst (c : Ctx) (k : DstKind) (d : Nat) : Option Nat :=
  match k with
  | .v n => c.outOf d n
  | _ => none

def illegalInstruction : Trap := { code := 1, detail := 1 }
def illegalOperand (field : Nat) : Trap := { code := 2, detail := field }

/-- The checks of orders 2 and 3 of R62 with DETAIL as R413 orders the fields. -/
def Ctx.checkOperands (c : Ctx) (h : Shape) (n : Enc) : Option Trap :=
  match (sources h n).find? (fun f => c.badSource f.2.1 f.2.2) with
  | some f => some (illegalOperand f.1)
  | none =>
    if c.badDst h.dst n.w.dst.toNat then some (illegalOperand 4)
    else
      match (sources h n).findSome? (fun f => (c.boundSource f.2.1 f.2.2).map (fun r => (f.1, r))) with
      | some (f, r) => some { code := 3, detail := f, tval := word64 r }
      | none => (c.boundDst h.dst n.w.dst.toNat).map (fun r => { code := 3, detail := 4, tval := word64 r })

/-- Takes the `ptime` sample where a field reads it (R48). -/
def Ctx.touch (c : Ctx) (time : Nat) (h : Shape) (n : Enc) : Ctx :=
  let reads := fun (y : Special) => (sources h n).any (fun f => f.2.1.reads && f.2.2 == .special y)
  if reads .ptime then { c with sample := some (word64 time) }
  else if reads .ptimeh && c.sample.isNone then { c with sample := some (word64 time) }
  else c

end Sys2Proof.Machine
end

