-- ==== Sys2Proof/Machine/Ops.lean ====
section
/-! DEFINITION. The named operations every meaning is written over: clause ends and joins (R24, R25, R40), taking a trap
and returning from one (R153 to R156), results and latches (R31, R32), and the issue of an instruction (R62). -/

namespace Sys2Proof.Machine

/-- The three outcomes of a step of this machine. -/
abbrev Out := Host.Outcome State Fault Refusal

def State.upd (s : State) (f : Ctx → Ctx) : State := { s with cur := f s.cur }

/-! ### Fragments and joins (R22 to R25) -/

/-- The lowest empty place of a table. -/
def lowestFree {α : Type} (l : List (Option α)) : Option Nat :=
  (List.range l.length).find? (fun i => (l.getD i none).isNone)

/-- The lowest used place of a table. -/
def lowestUsed {α : Type} (l : List (Option α)) : Option Nat :=
  (List.range l.length).find? (fun i => (l.getD i none).isSome)

/-- Forms the fragment of a completed join in the lowest free slot and frees the record (R24). -/
def Ctx.formJoined (c : Ctx) (j : Nat) (r : Join) : Ctx × Option Nat :=
  match lowestFree c.frags with
  | none => (c, none)
  | some k =>
    ({ c with frags := c.frags.set k (some { pc := r.jaddr, fmask := r.jmask, amask := r.jexm, join := r.jparent }),
              joins := c.joins.set j none }, some k)

/-- Parks the fragment of a slot if its next address is the JADDR of its join, completing joins as R24 says; a fragment
formed by a completed join may itself park. -/
def Ctx.park (c : Ctx) : Nat → Nat → Ctx
  | 0, _ => c
  | fuel + 1, k =>
    match c.frags.getD k none with
    | none => c
    | some f =>
      match f.join with
      | none => c
      | some j =>
        match c.joins.getD j none with
        | none => c
        | some r =>
          if f.pc != r.jaddr then c
          else
            let r := { r with jarr := r.jarr ||| f.fmask, jexm := r.jexm ||| f.amask }
            let c := { c with frags := c.frags.set k none, joins := c.joins.set j (some r) }
            if r.jarr == r.jmask then
              match c.formJoined j r with
              | (c, some k') => c.park fuel k'
              | (c, none) => c
            else c

/-- Completes a record whose JARR equals its nonzero JMASK (R25 item 4). -/
def Ctx.tryJoin (c : Ctx) (j : Nat) : Ctx :=
  match c.joins.getD j none with
  | none => c
  | some r =>
    if r.jmask == 0 then { c with joins := c.joins.set j none }
    else if r.jarr == r.jmask then
      match c.formJoined j r with
      | (c, some k) => c.park 8 k
      | (c, none) => c
    else c

/-- Lanes leave the group (R25). -/
def Ctx.leave (c : Ctx) (m : Word) : Ctx :=
  let keep := ~~~m
  let frags := c.frags.map (fun o => match o with
    | none => none
    | some f => if f.fmask &&& keep == 0 then none else some { f with fmask := f.fmask &&& keep, amask := f.amask &&& keep })
  let joins := c.joins.map (fun o => match o with
    | none => none
    | some r => some { r with jmask := r.jmask &&& keep, jarr := r.jarr &&& keep, jexm := r.jexm &&& keep })
  (List.range 8).foldl Ctx.tryJoin { c with frags, joins }

/-- The group has no member left (R25). -/
def Ctx.empty (c : Ctx) : Bool := c.frags.all (·.isNone) && c.joins.all (·.isNone)

/-! ### Clauses (R39, R40) -/

/-- The address of the clause after this one. -/
def Ctx.nextHdr (c : Ctx) : Word64 := c.clause.hdr + word64 (4 * (c.clause.count + 1))

/-- The address of the instruction about to issue: its first word. -/
def Ctx.instrPc (c : Ctx) : Word64 :=
  if c.clause.isOpen then c.clause.hdr + word64 (4 * (1 + c.clause.pos)) else c.frag.pc

/-- Where a fragment goes on: past a recipe's last word it is RESUME, and the recipe is over (R172). -/
def Ctx.pastRecipe (c : Ctx) (pc : Word64) : Word64 × Option RecipeRun :=
  match c.recipe with
  | some r => if pc == r.stop then (r.resume, none) else (pc, some r)
  | none => (pc, none)

/-- Ends the clause: the fragment goes on at `pc`, past a recipe's end at RESUME (R172), and parks if it has reached its
join (R24). -/
def Ctx.closeClause (c : Ctx) (pc : Word64) : Ctx :=
  let r := c.pastRecipe pc
  let c := { c with yielded := c.clause.yieldHint, clause := {}, stall := none, recipe := r.2 }
  (c.setFrag { c.frag with pc := r.1 }).park 8 c.fsel

/-- Moves past an instruction of `n` words with its latch result, ending the clause after its last word (R31, R40). -/
def Ctx.advance (c : Ctx) (n : Nat) (r : Option (List Word)) : Ctx :=
  let cl := { c.clause with pos := c.clause.pos + n, win := (r :: c.clause.win).take 8 }
  let c := { c with clause := cl, stall := none }
  if cl.count ≤ cl.pos then c.closeClause c.nextHdr else c

/-- The instruction does not issue; it is tried again at the context's next turn (log 8). -/
def State.hold (s : State) (w : Stall) : State := s.upd (fun c => { c with stall := some w })

/-! ### Traps (R151 to R157) -/

/-- A trap handler is running (R151 INH). -/
def Ctx.inh (c : Ctx) : Bool := c.tcause.getLsbD 31

/-- TCAUSE of a trap (R151, R153). -/
def Ctx.causeOf (c : Ctx) (t : Trap) (inh : Bool) : Word :=
  word (t.code % 256 + c.fsel % 8 * 2 ^ 8 + t.detail % 256 * 2 ^ 16 + c.priv.toNat * 2 ^ 24 + inh.toNat * 2 ^ 31)

/-- Ends the context by double trap: the TCB keeps the cause of the ending trap, and the team is abandoned (R155, R214,
R311). -/
def State.doubleTrap (s : State) (t : Trap) : State :=
  let c := s.cur
  let s := s.reportEnd (s.team c.team) 0x10 (c.causeOf t c.inh) t.tval
  (s.abandon c.team).endCtx c.uid

/-- Taking a trap (R153), the one operation for every trap: EPC, TCAUSE, TVAL and TLANES are written, the latch window
and AMASK saved with the clause `resume` that a return to an unchanged EPC re-enters, and the fragment goes to `vec`.  A
trap inside a handler, with a vector of 0, or in a control thread is a double trap (R155, R311).  DESIGN CHOICE (log 57): a fragment
that so comes to the address of its join does not park there, for no instruction of it brought it there (R24). -/
def State.enterTrap (s : State) (t : Trap) (epc : Word64) (resume : Clause) (vec : Word64) : State :=
  let c := s.cur
  if c.kind = .thread || c.inh || vec == 0 then s.doubleTrap t
  else
    let c' := { c with
      epc, tcause := c.causeOf t true, tval := t.tval, tlanes := t.lanes.getD c.exm,
      saved := some { epc, clause := resume, amask := c.exm }, clause := {}, stall := none }
    { s with cur := c'.setFrag { c.frag with pc := vec } }

/-- A trap of the instruction about to issue, or of the clause header where none is open: it re-issues if the handler
returns with EPC unchanged (R153, R154). -/
def State.raise (s : State) (t : Trap) : State :=
  let cl := s.cur.clause
  s.enterTrap t s.cur.instrPc (if cl.isOpen then cl else {}) s.cur.tvec

/-- `tret` (R154): the traps it raises, and the return. -/
def State.trapReturn (s : State) : State :=
  let c := s.cur
  if !c.inh then s.raise illegalInstruction
  else if c.epc.toNat % 4 != 0 then s.raise { code := 0x0A, tval := c.epc }
  else if 2 ^ 57 ≤ c.epc.toNat then s.raise { code := 0x07, tval := c.epc }
  else
    match c.saved with
    | none => s.upd (fun c => { c with tcause := c.tcause &&& 0x7FFFFFFF }.closeClause c.epc)
    | some sv =>
      let f := c.frag
      let c := { c with priv := c.tcause.getLsbD 24, tcause := c.tcause &&& 0x7FFFFFFF, saved := none }
      let c := c.setFrag { f with amask := sv.amask &&& f.fmask }
      if c.epc == sv.epc && sv.clause.isOpen then
        let c := { c with yielded := c.clause.yieldHint, clause := sv.clause, stall := none }
        { s with cur := c.setFrag { c.frag with pc := sv.clause.hdr } }
      else { s with cur := c.closeClause c.epc }

/-! ### Results (R31, R32, R45) -/

/-- Writes a 32-bit vector result in the enabled lanes `m`; NOWB leaves the register, and the latch holds the register's
value where a lane is not enabled (R31, R32). -/
def Ctx.putV (c : Ctx) (w : Core) (m : Word) (n : Nat) (x : List Word) : Ctx :=
  let d := w.dst.toNat
  let latch := vecOf (fun i => if m.getLsbD i then laneAt x i else c.vreg d i)
  (if w.nowb then c else c.setV d m x).advance n (some latch)

/-- Writes a 64-bit vector result; the latch holds its low word (R31). -/
def Ctx.putV64 (c : Ctx) (w : Core) (m : Word) (n : Nat) (x : List Word64) : Ctx :=
  let d := w.dst.toNat
  let lo := x.map lo32
  let latch := vecOf (fun i => if m.getLsbD i then laneAt lo i else c.vreg d i)
  (if w.nowb then c else (c.setV d m lo).setV (d + 1) m (x.map hi32)).advance n (some latch)

/-- Writes a 32-bit scalar result, which the latch holds in every lane. -/
def Ctx.putS (c : Ctx) (w : Core) (n : Nat) (x : Word) : Ctx :=
  (if w.nowb then c else c.setS w.dst.toNat x).advance n (some (vecOf (fun _ => x)))

/-- Writes a 64-bit scalar result; the latch holds its low word. -/
def Ctx.putS64 (c : Ctx) (w : Core) (n : Nat) (x : Word64) : Ctx :=
  (if w.nowb then c else c.setS64 w.dst.toNat x).advance n (some (vecOf (fun _ => lo32 x)))

/-- Writes a predicate result in the enabled lanes; the latch holds 1 or 0, and the register's value in the other
lanes (R31). -/
def Ctx.putP (c : Ctx) (w : Core) (m : Word) (n : Nat) (x : Word) : Ctx :=
  let d := w.dst.toNat
  let latch := vecOf (fun i => if (if m.getLsbD i then x.getLsbD i else (c.preg d).getLsbD i) then 1 else 0)
  (if w.nowb then c else c.setP d m x).advance n (some latch)

/-- No register result. -/
def Ctx.putNone (c : Ctx) (n : Nat) : Ctx := c.advance n none

/-! ### Issue (R62) -/

/-- An outcome with its next state changed. -/
def Out.onNext (f : State → State) : Out → Out
  | .next t => .next (f t)
  | o => o

/-- An instruction that waits, or that raises a trap, has not issued: the group's `ptime` sample is as it was before (R48,
R62).  The trap 0x12 is the effect of an `svc` that has issued (R156): what its A sampled stays. -/
def State.keepSample (old t : State) : State :=
  if t.cur.uid == old.cur.uid && (t.cur.stall.isSome || (t.cur.inh != old.cur.inh && fld t.cur.tcause.toNat 7 0 != 0x12))
  then t.upd (fun c => { c with sample := old.cur.sample }) else t

/-- Issues an instruction: the operand checks of orders 2 and 3, the `ptime` sample, then its meaning; the sample stays
where the instruction issues. -/
def issueOut (i : Instr) (s : State) (k : State → Out) : Out :=
  match i.enc with
  | none => .next s
  | some n =>
    match s.cur.checkOperands i.shape n with
    | some t => .next (s.raise t)
    | none => (k (s.upd (fun c => c.touch s.time i.shape n))).onNext s.keepSample

/-- The same for a meaning that always answers a next state. -/
def issue (i : Instr) (s : State) (k : State → State) : Out := issueOut i s (fun s => .next (k s))

/-- The operands of a lane-wise instruction in a lane. -/
def Ctx.opA (c : Ctx) (x : Long) (i : Nat) : Word := c.src (x.imm.getD 0) x.w.a i
def Ctx.opB (c : Ctx) (x : Long) (i : Nat) : Word := c.src (x.imm.getD 0) x.w.b i
def Ctx.opC (c : Ctx) (x : Long) (i : Nat) : Word := c.src (x.imm.getD 0) x.m.c i
def Ctx.opA64 (c : Ctx) (x : Long) (i : Nat) : Word64 := c.src64 (x.imm.getD 0) x.w.a i
def Ctx.opB64 (c : Ctx) (x : Long) (i : Nat) : Word64 := c.src64 (x.imm.getD 0) x.w.b i

/-- A lane-wise instruction with a 32-bit vector result and sticky flags: `f` gives result and flags per lane; where no
lane is enabled no flag is set (R21, R35). -/
def laneWise (i : Instr) (x : Long) (f : Ctx → Nat → Word × Word) (s : State) : Out :=
  issue i s (fun s => s.upd (fun c =>
    let m := c.enabledM x.m
    let r := lanes.map (f c)
    (c.stick (joinFlags ((lanesOf m).map (fun j => (r.getD j (0, 0)).2)))).putV x.w m i.size (r.map (·.1))))

/-- A lane-wise instruction that sets no flag. -/
def laneWise0 (i : Instr) (x : Long) (f : Ctx → Nat → Word) (s : State) : Out :=
  issue i s (fun s => s.upd (fun c => c.putV x.w (c.enabledM x.m) i.size (vecOf (f c))))

/-- A lane-wise instruction with a predicate result and sticky flags. -/
def laneWiseP (i : Instr) (x : Long) (f : Ctx → Nat → Bool × Word) (s : State) : Out :=
  issue i s (fun s => s.upd (fun c =>
    let m := c.enabledM x.m
    (c.stick (joinFlags ((lanesOf m).map (fun j => (f c j).2)))).putP x.w m i.size (maskOf (fun j => (f c j).1))))

end Sys2Proof.Machine
end

