-- ==== Sys2Proof/Machine/Control.lean ====
section
/-! DEFINITION. Control transfers, EXM, indexed registers, MODE and waits (R127 to R137), and the acquired count (R196,
R199). -/

namespace Sys2Proof.Machine

/-- The target a signed count of words gives, from the header of the clause that holds the transfer (R127). -/
def Ctx.target (c : Ctx) (n : Int) : Word64 := c.clause.hdr + BitVec.ofInt 64 (4 * n)

/-- Transfers the issuing fragment (R128). -/
def Ctx.goTo (c : Ctx) (pc : Word64) : Ctx := c.closeClause pc

def Short.immInt (x : Short) : Int := (x.imm.getD 0).toInt
def Long.immInt (x : Long) : Int := (x.imm.getD 0).toInt

/-- `jmp` (R128). -/
def execJmp (x : Short) (s : State) : Out :=
  issue (.jmp x) s (fun s => s.upd (fun c => c.goTo (c.target (x.imm.getD 0).toInt)))

/-- The lanes whose condition holds: active lanes in which the predicate passes (R129, R130). -/
def Ctx.condLanes (c : Ctx) (m : Mods) : Word := c.enabledM m

/-- Whether `bra` is taken (R129). -/
def braTaken (x : Long) (c : Ctx) : Bool :=
  match x.m.subop.toNat with
  | 0 => c.condLanes x.m != 0
  | 1 => c.exm != 0 && c.condLanes x.m == c.exm
  | 2 => c.opA x 0 != 0
  | _ => c.opA x 0 == 0

/-- `bra` (R129); in a control thread only `snz` and `sz` (R310). -/
def execBra (x : Long) (s : State) : Out :=
  issue (.bra x) s (fun s => s.upd (fun c =>
    c.goTo (if braTaken x c then c.target (x.imm.getD 0).toInt else c.nextHdr)))

/-- The split of R23: the taken lanes `t` in a new fragment at `target`, the others staying, both heading for a new
join record. -/
def Ctx.split (c : Ctx) (t : Word) (target fall jaddr : Word64) (k j : Nat) : Ctx :=
  let f := c.frag
  let rec' : Join := { jaddr, jmask := f.fmask, jparent := f.join }
  let c := { c with joins := c.joins.set j (some rec'),
                    frags := c.frags.set k (some { pc := target, fmask := t, amask := t, join := some j }) }
  let c := c.setFrag { f with fmask := f.fmask &&& ~~~t, amask := f.amask &&& ~~~t, join := some j }
  (c.closeClause fall).park 8 k

/-- `bdiv` (R23, R130): a split that finds no slot or record raises split-overflow and changes nothing. -/
def execBdiv (x : Long) (s : State) : Out :=
  issue (.bdiv x) s (fun s =>
    let c := s.cur
    let imm := x.imm.getD 0
    let target := c.target (imm.extractLsb' 16 16).toInt
    let jaddr := c.target (imm.extractLsb' 0 16).toInt
    let t := c.condLanes x.m
    if t == 0 then s.upd (fun c => c.goTo c.nextHdr)
    else if c.exm &&& ~~~t == 0 then s.upd (fun c => c.goTo target)
    else
      match lowestFree c.frags, lowestFree c.joins with
      | none, _ => s.raise { code := 4, detail := 0 }
      | some _, none => s.raise { code := 4, detail := 1 }
      | some k, some j => s.upd (fun c => c.split t target c.nextHdr jaddr k j))

/-- `call` (R131). -/
def execCall (x : Short) (s : State) : Out :=
  issue (.call x) s (fun s => s.upd (fun c =>
    (c.setS64 x.w.dst.toNat c.nextHdr).goTo (c.target (x.imm.getD 0).toInt)))

/-- `ret` (R131). -/
def execRet (x : Short) (s : State) : Out :=
  issue (.ret x) s (fun s =>
    let t := s.cur.uni64 0 x.w.a
    if t.toNat % 4 != 0 then s.raise { code := 0x0A, tval := t }
    else if 2 ^ 57 ≤ t.toNat then s.raise { code := 7, tval := t }
    else s.upd (fun c => c.goTo t))

/-- Lanes leave the group for good: their pending monitors are discarded (R253), and the group ends when no member is
left (R25). -/
def State.removeLanes (s : State) (m : Word) : State :=
  let uid := s.cur.uid
  let s := s.discardMons (fun k => k.uid == uid && k.row.isNone && m.getLsbD k.lane)
  let s := s.upd (fun c => { c with clause := {}, stall := none }.leave m)
  if s.cur.empty then s.endCtx uid else s

/-- `exit` (R132): every member of the issuing fragment leaves; a control thread ends (R300). -/
def execExit (x : Short) (s : State) : Out :=
  issue (.exit x) s (fun s =>
    if s.cur.kind = .thread then s.endCtx s.cur.uid else s.removeLanes s.cur.frag.fmask)

/-- `wexm` (R20, R133). -/
def execWexm (x : Short) (s : State) : Out :=
  issue (.wexm x) s (fun s => s.upd (fun c =>
    let v := c.uni (x.imm.getD 0) x.w.a
    (c.setFrag { c.frag with amask := v &&& c.frag.fmask }).putNone (Instr.size (.wexm x))))

/-- The register-bound trap of a computed index: at or above the acquired count in some enabled lane (R30, R134). -/
def Ctx.indexTrap (c : Ctx) (idx : Nat → Word) : Option Trap :=
  let bad := c.exm &&& maskOf (fun i => c.acq ≤ (idx i).toNat)
  match lanesOf bad with
  | [] => none
  | i :: _ => some { code := 3, detail := 5, tval := (idx i).setWidth 64, lanes := some bad }

/-- `rdidx` (R133, R134). -/
def execRdidx (x : Short) (s : State) : Out :=
  issue (.rdidx x) s (fun s =>
    let idx := s.cur.src (x.imm.getD 0) x.w.a
    match s.cur.indexTrap idx with
    | some t => s.raise t
    | none => s.upd (fun c => c.putV x.w c.exm (Instr.size (.rdidx x)) (vecOf (fun i => c.vreg (idx i).toNat i))))

/-- `wridx` (R133, R134). -/
def execWridx (x : Short) (s : State) : Out :=
  issue (.wridx x) s (fun s =>
    let c := s.cur
    let idx := c.src (x.imm.getD 0) x.w.a
    match c.indexTrap idx with
    | some t => s.raise t
    | none =>
      let v := (lanesOf c.exm).foldl (fun v i => Cells.set 0 v (32 * (idx i).toNat + i) (c.src (x.imm.getD 0) x.w.b i)) c.v
      s.upd (fun c => { c with v }.putNone (Instr.size (.wridx x))))

/-- The copy error due on a counter, for a wait about to pass (R150): one report for every copy on that tag, with the lanes that
any of them abandoned and the address of the oldest. -/
def Ctx.copyErrDue (c : Ctx) (k : Nat) : Option CopyErr :=
  if 2 ≤ k && k < 6 then
    match c.copyErrs.filter (·.tag == k - 2) with
    | [] => none
    | e :: es => some { e with lanes := es.foldl (fun m f => m ||| f.lanes) e.lanes }
  else none

/-- Raises the copy-error trap; entry clears that tag's record (R150). -/
def State.raiseCopyErr (s : State) (e : CopyErr) : State :=
  let s := s.upd (fun c => { c with copyErrs := c.copyErrs.filter (·.tag != e.tag) })
  s.raise { code := 9, detail := e.tag, tval := e.addr, lanes := some e.lanes }

/-- The load error a thread's wait on MX reports (R317, R344). -/
def Ctx.loadErrDue (c : Ctx) (k : Nat) : Option (Nat × Word64) :=
  if c.kind = .thread && k = 6 then c.loadErr else none

/-- A counter as a wait of the context sees it: a thread has only MX (R310). -/
def Ctx.waitCounter (c : Ctx) (k : Nat) : Nat := if c.kind = .thread && k != 6 then 0 else c.counter k

/-- The trap of a recorded load error (R333, R344): Matrix-load for a fill, Meridian-tile for a board; `detail` is the
code × 256 + DETAIL. -/
def loadErrTrap (e : Nat × Word64) : Trap := { code := e.1 / 256, detail := e.1 % 256, tval := e.2 }

/-- `waitc` (R137). -/
def execWaitc (x : Short) (s : State) : Out :=
  issue (.waitc x) s (fun s =>
    let c := s.cur
    let k := x.w.dst.toNat % 8
    if (c.uni (x.imm.getD 0) x.w.a).toNat < c.waitCounter k then s.hold .counter
    else match c.copyErrDue k, c.loadErrDue k with
      | some e, _ => s.raiseCopyErr e
      | none, some e => s.raise (loadErrTrap e)
      | none, none => s.upd (fun c => c.putNone (Instr.size (.waitc x))))

/-- `wmode` (R34, R133). -/
def execWmode (x : Short) (s : State) : Out :=
  issue (.wmode x) s (fun s =>
    let v := s.cur.uni (x.imm.getD 0) x.w.a
    if modeBad v then s.raise (illegalOperand 0)
    else s.upd (fun c => { c with mode := v }.putNone (Instr.size (.wmode x))))

/-- `nop` (R133). -/
def execNop (x : Short) (s : State) : Out :=
  issue (.nop x) s (fun s => s.upd (fun c => c.putNone (Instr.size (.nop x))))

/-! ### Register units (R196, R199) -/

/-- A trap taken while a fragment waits in `bar` or `racq` ends that wait: it has not arrived, and asks for no units (R199, R212). -/
def State.cancelWait (s : State) : State :=
  let f := s.cur.frag
  let s := s.upd (fun c => c.setFrag { f with bar := none, racq := none })
  if f.racq.isSome then s.grantUnits s.cur.loc.die s.cur.loc.core 384 else s

/-- A `racq` whose units have been taken completes; another waits. -/
def State.racqTry (s : State) (size : Nat) : State :=
  if (s.cur.frag.racq.map (·.taken)).getD false then s.upd (fun c => (c.setFrag { c.frag with racq := none }).putNone size) else s.hold .racq

/-- A `racq` takes its place in issue order, and its units at once where it is first and they are free. -/
def State.racqStart (s : State) (n : Nat) : State :=
  let r : Racq := { seq := s.uids + 1, want := n, at' := s.time }
  ({ s with uids := s.uids + 1 }.upd (fun c => c.setFrag { c.frag with racq := some r })).grantUnits s.cur.loc.die s.cur.loc.core 384

/-- `racq` (R199).  Each fragment of a group waits by itself.  DESIGN CHOICE (log 57): one that waits, and that another `racq` of its
group has made too large, takes its trap then. -/
def execRacq (x : Short) (s : State) : Out :=
  issue (.racq x) s (fun s =>
    let a := s.cur.uni (x.imm.getD 0) x.w.a
    let size := Instr.size (.racq x)
    match s.cur.frag.racq with
    | some r =>
      if r.taken || s.cur.racqFits r then s.racqTry size
      else s.cancelWait.raise { code := 0x29, tval := word64 r.want }
    | none =>
    if 128 < s.cur.acq + 16 * a.toNat then s.raise { code := 0x29, tval := a.setWidth 64 }
    else if a == 0 then s.upd (fun c => c.putNone size)
    else (s.racqStart a.toNat).racqTry size)

/-- `rrel` (R199). -/
def execRrel (x : Short) (s : State) : Out :=
  issue (.rrel x) s (fun s =>
    let a := s.cur.uni (x.imm.getD 0) x.w.a
    if s.cur.acq < 32 + 16 * a.toNat then s.raise { code := 0x29, detail := 1, tval := a.setWidth 64 }
    else (s.upd (fun c =>
      { c with acq := c.acq - 16 * a.toNat, v := keepRegs c.v (c.acq - 16 * a.toNat) }.putNone (Instr.size (.rrel x)))).grantUnits
        s.cur.loc.die s.cur.loc.core 384)

end Sys2Proof.Machine
end

