-- ==== Sys2Proof/Machine/Access.lean ====
section
/-! DEFINITION. The translation of one access: permissions, group page states, ports, requests and gathers (R283 to R287,
R291, R376). -/

namespace Sys2Proof.Machine

/-- What one access's translation comes to: a leaf; a trap of order 9; a page request at a level, stage and page; a
gather of a page, whose leaf it reached; translation off (R279); a wait for a walk (R278); or a poisoned entry (R391). -/
inductive Xl where
  | ok (l : Leaf)
  | trap (code detail : Nat)
  | request (level : Nat) (stage2 : Bool) (page : Nat)
  | gather (page : Nat) (l : Leaf)
  | off
  | busy
  | poison (key : Nat)
  deriving DecidableEq, Repr

/-- The poisoned entry that the first of some accesses has met. -/
def Xl.bad? : Xl → Option Nat
  | .poison k => some k
  | _ => none

/-- The Atlas entry's place of a page (R289). -/
def State.atlasAddr (s : State) (fn page : Nat) : Option Nat :=
  (s.atlas.find? (fun a => a.fn == fn && a.page == page)).map (·.addr)

/-- A field of a page's Atlas entry. -/
def State.atlasGet (s : State) (fn page off n : Nat) : Nat :=
  match s.atlasAddr fn page with
  | some a => s.vreadLE fn (a + off) n
  | none => 0

def State.atlasSet (s : State) (fn page off n x : Nat) : State :=
  match s.atlasAddr fn page with
  | some a => s.vwriteLE fn (a + off) n x
  | none => s

/-- The number of one bits below bit `n`: a member's rank (R289). -/
def rankIn (mask n : Nat) : Nat := (List.range n).foldl (fun k i => k + mask / 2 ^ i % 2) 0

/-- The member of a rank. -/
def memberOfRank (mask r : Nat) : Nat :=
  ((List.range 64).find? (fun i => mask / 2 ^ i % 2 = 1 && rankIn mask i == r)).getD 0

def maskCount (mask : Nat) : Nat := rankIn mask 64

/-- The owner of a stripe (R289). -/
def stripeOwner (owners stripe : Nat) : Nat := memberOfRank owners (stripe % max 1 (maskCount owners))

/-- The partition of a function. -/
def State.partOfFn (s : State) (fn : Nat) : Nat := ((s.fn fn).part).getD 0

def State.shard (s : State) (part : Nat) : Shard := Cells.get {} s.shards part
def State.setShard (s : State) (part : Nat) (g : Shard) : State := { s with shards := Cells.set {} s.shards part g }

/-- Every stripe that `len` bytes from a page offset touch is owned here (R264 item 1).  DEDUCED (log 42): the check uses the Atlas
state that the page agent holds (R379) and is no access to the entry's page. -/
def State.ownStripes (s : State) (fn page off len : Nat) : Bool :=
  let st := s.atlasGet fn page 9 1
  let owners := s.atlasGet fn page 0x10 8
  let self := (s.shard (s.partOfFn fn)).self
  (List.range ((off + len - 1) / 2 ^ st + 1 - off / 2 ^ st)).all (fun i => stripeOwner owners (off / 2 ^ st + i) == self)

/-- CONNMAT of a slice; a reset register allows ports 0 to 13 (R376, log 1). -/
def State.connOf (s : State) (die slice : Nat) : Nat := Cells.get 0x3FFF s.connmat (8 * die + slice)

/-- The memory-side port of a physical byte for a requester on a die (R376). -/
def portOf (mt pa die home : Nat) : Nat :=
  if mt = 2 || die != home then 13 else if mt = 1 then Config.port mt pa die home % 8 else 8 + Config.port mt pa die home % 4

/-- CONNMAT lets a requester use a port (R376). -/
def portAllowed (conn port : Nat) : Bool := conn % 2 ^ 14 = 0x3FFF || conn / 2 ^ port % 2 = 1

/-- The slice of a core: quad ⌊core/4⌋, slice ⌊quad/4⌋ (R372). -/
def sliceOfCore (core : Nat) : Nat := core / 16

/-- The vault byte at an offset of a partition's window: unit k of the window is the k-th bit set in PVAULT, and unit u is
32 MiB from u × 2^25 (R384; log 16). -/
def Part.vaultKey (p : Part) (o : Nat) : Nat :=
  let units := (List.range 32).filter (fun u => p.vault / 2 ^ u % 2 = 1)
  memKey 1 (units.getD (o / 2 ^ 25) 0 * 2 ^ 25 + o % 2 ^ 25)

/-- The offset in a partition's window of a vault byte. -/
def Part.vaultOffset (p : Part) (key : Nat) : Option Nat :=
  let units := (List.range 32).filter (fun u => p.vault / 2 ^ u % 2 = 1)
  let u := (key - memKey 1 0) / 2 ^ 25
  if memKey 1 0 ≤ key && key < memKey 2 0 && units.contains u then some (units.idxOf u * 2 ^ 25 + key % 2 ^ 25) else none

/-- The page of a vault byte holds a part of the spill or checkpoint area of a running grid: the Uluron maps it read-only to
groups (R202, R367). -/
def State.vaultGuarded (s : State) (part key : Nat) : Bool :=
  match (s.part part).vaultOffset key with
  | none => false
  | some o => s.grids.any (fun g => g.part == part && g.areas.any (fun a =>
      a.1 / 4096 * 4096 ≤ o && o < (a.1 + a.2 + 4095) / 4096 * 4096))

/-- The first forbidden port on the lines of a range that lies in a page, and the address there (R376). -/
def State.portStop (s : State) (die core va len : Nat) (l : Leaf) : Option (Nat × Nat) :=
  let conn := s.connOf die (sliceOfCore core)
  ((List.range ((va + len - 1) / 128 + 1 - va / 128)).map (fun i => max va ((va / 128 + i) * 128))).findSome? (fun a =>
    let port := portOf l.mt (l.pa + (a - va)) die l.home
    if portAllowed conn port then none else some (port, a))

/-- Order 9 on a leaf for one access (R285, R291, R376).  DESIGN CHOICE (log 56): under two stages a group page is as large as the
smaller of its two leaves. -/
def State.leafCheck (s : State) (fn die core va len : Nat) (l : Leaf) (w : Want) (priv : Bool) : Xl :=
  let page := va / 2 ^ l.bits * 2 ^ l.bits
  if !priv && !l.u then .trap 0x22 1
  else if w.writes && (!l.w || (l.mt = 1 && s.vaultGuarded (s.partOfFn fn) (memKey 1 l.pa))) then .trap 0x22 0
  else if w = .fetch && (!l.x || l.gps != 0) then .trap 0x22 2
  else if l.gps = 6 && w != .mwait then .trap 0x27 0
  else if w.writes && (l.gps = 1 || l.gps = 2 || l.gps = 3 || l.gps = 5) then .trap 0x23 l.gps
  else
    match s.portStop die core va len l with
    | some (port, _) => .trap 0x35 port
    | none =>
      if w = .load && (l.gps = 1 || l.gps = 2) && !s.ownStripes fn page (va % 2 ^ l.bits) len then .gather page l else .ok l

/-- Translates one access (R284, R285, R287): a missing entry makes a request where requests are on and none
for that page has failed, else Page-fault; a miss waits for a walk (R278). -/
def State.access (s : State) (m : Miss) (failed : List (Nat × Bool)) : Xl :=
  let f := s.fn m.fn
  if fld f.tctl.toNat 0 0 = 0 then .off
  else
    match s.xlate m with
    | none => .busy
    | some (.poison key) => .poison key
    | some (.reserved lvl st2 gps7) => .trap 0x21 (lvl + 8 * st2.toNat + 16 * gps7.toNat)
    | some (.missing lvl st2 prq page) =>
      if (st2 || (prq && fld f.tctl.toNat 2 2 = 1)) && !failed.contains (page, st2) then .request lvl st2 page
      else .trap 0x20 (lvl + 8 * st2.toNat)
    | some (.leaf l) => s.leafCheck m.fn m.die m.core m.va m.len l m.want m.priv

/-- The order of R286 among trap kinds, Partition-port last. -/
def kindRank : Nat → Nat
  | 0x21 => 0 | 0x20 => 1 | 0x22 => 2 | 0x27 => 3 | 0x23 => 4 | _ => 5

/-- The order of DETAIL within Permission: 1, 0, 2 (R285). -/
def detailRank (code detail : Nat) : Nat := if code = 0x22 then (if detail = 1 then 0 else if detail = 0 then 1 else 2) else 0

/-- The trap of an instruction whose lanes meet traps of order 9: the first kind present, with the lanes that meet it
(R285, R286). -/
def xlTrap (l : List (Nat × Word64 × Xl)) : Option Trap :=
  let ts := l.filterMap (fun (i, va, x) => match x with
    | .trap c d => some (i, va, c, d)
    | _ => none)
  let best := ts.foldl (fun (b : Option (Nat × Word64 × Nat × Nat)) t => match b with
    | none => some t
    | some u =>
      let k := fun (v : Nat × Word64 × Nat × Nat) => 8 * kindRank v.2.2.1 + detailRank v.2.2.1 v.2.2.2
      if k t < k u then some t else b) none
  best.map (fun (_, va, c, d) =>
    { code := c, detail := d, tval := va,
      lanes := some (maskOf (fun i => ts.any (fun t => t.1 == i && t.2.2.1 == c && (c != 0x22 || t.2.2.2 == d)))) })

/-- Makes a page request, or joins the outstanding one of the page (R283); its number. -/
def State.request (s : State) (fn : Nat) (stage2 : Bool) (page level : Nat) (write fetch : Bool) : State × Nat :=
  match s.requests.find? (fun r => r.fn == fn && r.stage2 == stage2 && r.page == page) with
  | some r => (s, r.id)
  | none =>
    let id := s.uids + 1
    ({ s with uids := id, requests := s.requests ++ [{ id, fn, stage2, page, level, write, fetch }] }, id)

/-- The partition, function, die and core of a context. -/
def State.partOf (s : State) (c : Ctx) : Nat := (s.team c.team).part
def State.fnOf (s : State) (c : Ctx) : Nat := s.fnOfPart (s.partOf c)

/-- An access of a context: a group's touches a page as its core, but an arm's as a second agent, and a thread's too (R225, R256). -/
def State.missOf (s : State) (c : Ctx) (va len : Nat) (want : Want) : Miss :=
  { die := c.loc.die, core := c.loc.core, fn := s.fnOf c, va, len, want, priv := c.priv, who := 16 * c.uid + c.fsel % 8,
    toucher := if want = .mwait || c.kind = .thread then .engine else .core }

/-- An access of the context that issues. -/
def State.mine (s : State) (va len : Nat) (want : Want) : Miss := s.missOf s.cur va len want

/-- Accesses that wait for a walk join one, or the queue (R278). -/
def State.joinWalks (s : State) (ms : List Miss) : State := ms.foldl State.miss s

/-- An access goes on: what walks have answered its requester is not kept. -/
def State.unwalk (s : State) (who : Nat) : State := { s with walked := s.walked.filter (·.miss.who != who) }

/-! ### The end of a walk (R224, R276, R278) -/

/-- The class of the page that a walk has reached, as the access for which it is made touches the page (R224, R225): a core claims
an Unclaimed page, and fetches from another's as a second agent; the other agents share one; the leaf as it is by then. -/
def State.touchLeaf (s : State) (m : Miss) (l : Leaf) : State × Leaf :=
  match m.toucher with
  | .nobody => (s, l)
  | .core =>
    let core := coreNo m.die m.core
    if l.cls = 0 then ((s.setClass l.entry 1 core).uncacheEntry l.entry, { l with cls := 1, owner := core })
    else if m.want = .fetch && l.cls = 1 && l.owner != core then (s.reclassify l.entry, { l with cls := 2, owner := 0 })
    else (s, l)
  | .engine =>
    if l.cls = 0 || (l.cls = 1 && m.want != .mwait) then (s.engineTouch l, { l with cls := 2, owner := 0 }) else (s, l)

/-- A walk has reached a leaf for an access (R276, R277): the leaf, and the stage-2 leaves that map its tables, are marked A, and D
for a write; the page is touched; and the translation is cached, with the table entries that the walk has read.  An access that its translation refuses leaves all that; one that
waits on a gather, or that meets a forbidden port, has reached its leaf and does not touch the page. -/
def State.reached (s : State) (m : Miss) (seen : List WalkEntry) (l : Leaf) : State × Leaf :=
  let use := fun (write touch : Bool) =>
    let s := s.cacheWalk m.die seen
    let s := (if l.merged then s.markSixteen l else s).markLeaf l write
    let l := { l with a := true, d := l.d || write }
    let (s, l) := if touch then s.touchLeaf m l else (s, l)
    (s.cache m.fn m.die m.core m.va l, l)
  match s.leafCheck m.fn m.die m.core m.va m.len l m.want m.priv with
  | .ok _ => use m.want.writes true
  | .gather _ _ => use false false
  | .trap 0x35 _ => use m.want.writes false
  | _ => (s, l)

/-- A merged translation serves an access (R275). -/
def State.mergesFor (s : State) (m : Miss) : Option Leaf :=
  (s.mergedLeaf m.fn m.die m.va).filter (fun l => s.leafCheck m.fn m.die m.core m.va m.len l m.want m.priv == .ok l)

/-- A walk ends for an access, of the entries that it has read: one that reached a leaf takes that as it stands by then, since it writes
it (R276), and the walker may merge (R275); what it comes to reaches the access later (R228). -/
def State.serveMiss (s : State) (merge : Bool) (seen : List WalkEntry) (m : Miss) : State :=
  let w := match (if merge then s.mergesFor m else none), s.walkOn seen m.fn m.die m.va with
    | some l, _ => Walk.leaf l
    | none, .leaf _ => s.walkOn (seen.filter (·.isTable)) m.fn m.die m.va
    | none, w => w
  let r := match w with
    | .leaf l => let r := s.reached m seen l; (r.1, Walk.leaf r.2)
    | w => (s, w)
  { r.1 with walked := r.1.walked ++ [{ miss := m, res := r.2, since := s.time + 1 }] }

/-- The first lane whose walk met a poisoned entry: its address, and the entry's place (R391). -/
def poisonMet (xs : List (Nat × Word64 × Xl)) : Option (Word64 × Nat) := xs.findSome? (fun e => e.2.2.bad?.map (fun k => (e.2.1, k)))

/-- The context that issues is killed by a poisoned translation entry (R391, R392). -/
def State.killWalk (s : State) (va : Word64) (key : Nat) : State := s.kill s.cur.uid 5 va (key % 2 ^ 48)

end Sys2Proof.Machine
end

