-- ==== Sys2Proof/Machine/Teams.lean ====
section
/-! DEFINITION. A team's scratchpad and its barrier objects (R213, R216), and arrivals of engines (R213, R293, R356). -/

namespace Sys2Proof.Machine

/-- Bytes of a team's scratchpad. -/
def Team.bytes (t : Team) (off n : Nat) : List Byte := Cells.getMany 0 t.scratch off n

def Team.rd (t : Team) (off n : Nat) : Nat := leNat (t.bytes off n)

/-- What a byte written at an offset holds: of the FLAGS of a barrier object, bit 0, OVER, alone stays, since bits [31:1]
always read 0 (R213; log 49). -/
def Team.holds (t : Team) (off : Nat) (b : Byte) : Byte :=
  if !t.objs.contains (off / 16) || off % 16 < 12 then b else if off % 16 = 12 then b &&& 1 else 0

/-- Writes bytes of a team's scratchpad. -/
def Team.write (t : Team) (off : Nat) (bs : List Byte) : Team :=
  { t with scratch := Cells.setMany 0 t.scratch off (bs.zipIdx.map (fun (b, i) => t.holds (off + i) b)) }

def Team.wr (t : Team) (off n x : Nat) : Team := t.write off (natLE n x)

/-- `binit` makes an object at an aligned offset (R213). -/
def Team.makeObject (t : Team) (off expect : Nat) : Team :=
  let t := { t with objs := if t.objs.contains (off / 16) then t.objs else off / 16 :: t.objs }
  t.write off (natLE 4 expect ++ natLE 4 expect ++ natLE 8 0)

/-- One arrival on an object with PENDING above 0 (R213). -/
def Team.arrive (t : Team) (off : Nat) : Team :=
  let pending := t.rd (off + 4) 4
  if pending = 1 then (t.wr (off + 8) 4 (t.rd (off + 8) 4 + 1)).wr (off + 4) 4 (t.rd off 4)
  else t.wr (off + 4) 4 (pending - 1)

/-- An engine's arrival: on PENDING 0 it sets OVER, and bits [31:1] of FLAGS are 0 (R213). -/
def Team.engineArrive (t : Team) (off : Nat) : Team :=
  if t.rd (off + 4) 4 = 0 then t.wr (off + 12) 4 1 else t.arrive off

/-- The token that names an object in an Atlas entry's BAR (R289). -/
def Team.token (t : Team) (off : Nat) : Nat :=
  1 + t.die * 2 + t.core * 2 ^ 4 + t.slot * 2 ^ 11 + off * 2 ^ 16

/-- The team of a partition whose object a BAR token names: the one on the core, or else one whose context stands in shadow storage
or waits to be placed again, whose scratchpad keeps the object (R289, R379, R380; DEDUCED, log 58). -/
def State.tokenTeam (s : State) (part bar : Nat) : Option Team :=
  let named := s.teams.filter (fun t => t.part == part && t.die == fld bar 3 1 && t.core == fld bar 10 4 && t.slot == fld bar 15 11)
  (named.find? (!·.out)).or named.head?

/-- An arrival on the object a BAR token of a page of a partition names, if the token is valid (R289, R293). -/
def State.arriveToken (s : State) (part bar : Nat) : State :=
  if fld bar 0 0 = 0 then s
  else match s.tokenTeam part bar with
    | some t => s.setTeam (t.engineArrive (fld bar 34 16))
    | none => s

/-- An engine's arrival on an object of a team. -/
def State.arriveOn (s : State) (team off : Nat) : State := s.setTeam ((s.team team).engineArrive off)

end Sys2Proof.Machine
end

