-- ==== Sys2Proof/Machine/Shard.lean ====
section
/-! DEFINITION. The page agent and the group agent: group page states, gathers, stripe requests, reductions and versions
(R264, R265, R288 to R295, R361). -/

namespace Sys2Proof.Machine

/-! ### Atlas entries (R289) -/

def State.agPend (s : State) (fn page : Nat) : Nat := s.atlasGet fn page 0x18 8
def State.agRecv (s : State) (fn page : Nat) : Nat := s.atlasGet fn page 0x20 8
def State.agFlags (s : State) (fn page : Nat) : Nat := s.atlasGet fn page 0x0B 1

/-- The leaf of a page by a fresh walk. -/
def State.pageLeaf (s : State) (fn page : Nat) : Option Leaf :=
  match s.xlateFresh fn page with
  | .leaf l => some l
  | _ => none

/-- The shard group of a function's tenant. -/
def State.groupOf (s : State) (fn : Nat) : Shard := s.shard (s.partOfFn fn)

/-- The owners of a page, its stripe size and its size: of its Atlas entry; of a Local page that has none, as SHARD would
set them (R265, R289, R292). -/
def State.agOwners (s : State) (fn page : Nat) : Nat :=
  if (s.atlasAddr fn page).isSome then s.atlasGet fn page 0x10 8 else (s.groupOf fn).members

def State.agStripe (s : State) (fn page : Nat) : Nat :=
  if (s.atlasAddr fn page).isSome then s.atlasGet fn page 0x09 1 else (s.groupOf fn).stripe

def State.agBytes (s : State) (fn page : Nat) : Nat :=
  if (s.atlasAddr fn page).isSome then 2 ^ (match s.atlasGet fn page 0x08 1 with | 0 => 12 | 1 => 16 | _ => 21)
  else 2 ^ ((s.pageLeaf fn page).map (·.bits)).getD 12

/-- The group page state of a page; Orphaned where no leaf maps it (R292). -/
def State.gpsOf (s : State) (fn page : Nat) : Nat := ((s.pageLeaf fn page).map (·.gps)).getD 6

/-- Writes GPS and STATE in one step; cached translations of the leaf go (R290, R276). -/
def State.moveGps (s : State) (fn page gps : Nat) : State :=
  match s.pageLeaf fn page with
  | none => s
  | some l => ((s.setGps l.entry gps).uncacheEntry l.entry).atlasSet fn page 0x0A 1 gps

/-- A message leaves for another member. -/
def State.send (s : State) (m : Msg) : State := { s with outbox := s.outbox ++ [m] }

/-- The members of a mask, ascending. -/
def maskMembers (mask : Nat) : List Nat := (List.range 64).filter (fun i => mask / 2 ^ i % 2 = 1)

/-- The mask of members without one of them. -/
def maskDrop (mask i : Nat) : Nat := if mask / 2 ^ i % 2 = 1 then mask - 2 ^ i else mask

/-- The stripes of a page that a member owns (R289). -/
def State.stripesOf (s : State) (fn page member : Nat) : List Nat :=
  let owners := s.agOwners fn page
  (List.range (s.agBytes fn page / 2 ^ s.agStripe fn page)).filter (fun i => stripeOwner owners i == member)

def State.readStripe (s : State) (fn page i : Nat) : List Byte :=
  let n := 2 ^ s.agStripe fn page
  match s.keyOf fn (page + i * n) with
  | some k => s.readBytes k n
  | none => []

/-- Writes a stripe at home; its monitors fire (R236, R254). -/
def State.writeStripe (s : State) (fn page i : Nat) (bs : List Byte) : State :=
  match s.keyOf fn (page + i * 2 ^ s.agStripe fn page) with
  | some k => ((s.vtouch fn (page + i * 2 ^ s.agStripe fn page) bs.length true).homeWrite k bs none).1
  | none => s

/-- The first-level caches lose the leased copies of a page's lines, and what is on its way there installs none: a load issued
from now on reads what now stands at home (R290, R297). -/
def State.freshPage (s : State) (fn page : Nat) : State :=
  match s.keyOf fn page with
  | none => s
  | some k =>
    let inPage := fun (key : Nat) => k ≤ key && key < k + s.agBytes fn page
    { s with lines := s.lines.filter (fun l => l.priv || !inPage (128 * l.line)),
             ops := s.ops.map (fun o => { o with pieces := o.pieces.map (fun p => { p with install := p.install && !inPage p.key }) }) }

/-! ### Gathers (R264, R290) -/

/-- Wakes the frames that wait on a page's gather (R264 item 6, R265). -/
def State.wakeGather (s : State) (fn page : Nat) : State :=
  { s with frames := s.frames.map (fun f => if f.wait = .gather fn page then { f with woken := true } else f),
           gathers := s.gathers.filter (fun g => !(g.fn == fn && g.page == page)) }

/-- Asks a member for the stripes of a page that it owns, under the current version (R264 item 3, R265, R295). -/
def State.ask (s : State) (fn page member : Nat) : State :=
  s.send (.request fn member page (s.groupOf fn).version (s.stripesOf fn page member))

/-- The page agent reads and writes a page's Atlas entry: it is a second agent of the entry's page (R225). -/
def State.atlasTouch (s : State) (fn page : Nat) : State :=
  match s.atlasAddr fn page with
  | some a => s.vtouch fn a 64
  | none => s

/-- A page whose every stripe is present becomes Gathered (R264 item 6, R297). -/
def State.gathered (s : State) (fn page : Nat) : State := ((s.moveGps fn page 3).freshPage fn page).wakeGather fn page

/-- Starts the gather of a Sharded page (R264 item 3): Gathering, one request to each other member of the current version, and
PEND the other owners, whose stripes it waits for; where there are none, every stripe is present. -/
def State.startGather (s : State) (fn page : Nat) : State :=
  if s.gpsOf fn page = 1 then
    let s := s.atlasTouch fn page
    let g := s.groupOf fn
    let awaited := (maskMembers (maskDrop (s.agOwners fn page) g.self)).filter (fun m => !(s.stripesOf fn page m).isEmpty)
    let s := (s.moveGps fn page 2).atlasSet fn page 0x18 8 (awaited.foldl (fun k m => k + 2 ^ m) 0)
    let s := { s with gathers := s.gathers ++ [{ fn, page, start := s.time }] }
    let s := (maskMembers (maskDrop g.members g.self)).foldl (fun s m => s.ask fn page m) s
    if awaited.isEmpty then s.gathered fn page else s
  else s

/-! ### Collectives, as far as the page agent ends them (R350, R353, R356) -/

/-- A descriptor register of a team; one that nothing has written reads 0. -/
def Team.tAt (t : Team) (n : Nat) : Nat := t.t.getD n 0

def Team.tSet (t : Team) (n v : Nat) : Team := { t with t := (List.range 8).map (fun k => if k = n then v else t.tAt k) }

def collKind (d : Nat) : Nat := fld d 3 0
def collRed (d : Nat) : Nat := fld d 7 4
def collRoot (d : Nat) : Nat := fld d 15 8
def collCount (d : Nat) : Nat := fld d 63 32
def collSrc (d : Nat) : Nat := fld d 127 64
def collDst (d : Nat) : Nat := fld d 191 128

def State.setColl (s : State) (c : Coll) : State := { s with colls := s.colls.map (fun (k : Coll) => if k.id == c.id then c else k) }

def State.coll (s : State) (id : Nat) : Option Coll := s.colls.find? (·.id == id)

/-- Marks the operations of a collective's groups complete, with the WCT of its writes (R236, R356). -/
def State.collOps (s : State) (c : Coll) : State :=
  { s with ops := s.ops.map (fun (o : Op) => if c.joined.any (fun j => j.2 == o.id) then { o with done := true, wct := max o.wct c.wct } else o) }

/-- STATUS at completion (R350). -/
def Coll.status (c : Coll) : Nat := 1 + ((c.link = some true) : Bool).toNat * 2 + c.bo.toNat * 4 + c.err % 16 * 2 ^ 4

/-- A collective completes: STATUS, the groups' operations, and for every KIND but `evict` one arrival owed (R356). -/
def State.collFinish (s : State) (c : Coll) : State :=
  let t := s.team c.team
  let s := s.setTeam { t.tSet c.t (fld (t.tAt c.t) 223 0 + c.status * 2 ^ 224) with maxWct := max t.maxWct c.wct }
  let s := s.collOps c
  if collKind c.desc = 5 && c.owed = 0 then { s with colls := s.colls.filter (fun k => k.id != c.id) }
  else s.setColl { c with complete := true, owed := if collKind c.desc = 5 then c.owed else 1 }

/-- ERR takes the highest row of R357 that applies: 1, 2, 4, 3. -/
def worseErr (a b : Nat) : Nat := ([1, 2, 4, 3].find? (fun e => a = e || b = e)).getD 0

/-- An `evict` collective no longer waits for a page, which is now Sharded or, with `err` 3, Orphaned; with its last page it
completes (R356, R357). -/
def State.evictSettle (s : State) (fn page err : Nat) : State :=
  let mine := fun (c : Coll) => s.fnOfPart (s.team c.team).part == fn && c.pages.contains page
  let s : State := { s with colls := s.colls.map (fun (c : Coll) =>
      if mine c then { c with pages := c.pages.filter (· != page), err := if err = 0 then c.err else worseErr c.err err } else c) }
  (s.colls.filter (fun c => c.started && !c.complete && collKind c.desc = 5 && c.pages.isEmpty && c.data.any (fun e => e.1 == c.self))).foldl
    State.collFinish s

/-- A page becomes Orphaned (R290, R295): event 4 once, an arrival on BAR from Partial or Reducing, which an
`evict` that ends with it has preceded, what is left of an arrival is discarded (R361), and the frames that wait on it are woken. -/
def State.orphan (s : State) (fn page : Nat) : State :=
  let g := s.gpsOf fn page
  if g = 6 then s
  else
    let bar := s.atlasGet fn page 0x28 8
    let s := ((s.moveGps fn page 6).event fn 4 (s.partOfFn fn) page).evictSettle fn page 3
    let s := if g = 4 || g = 5 then s.arriveToken (s.partOfFn fn) bar else s
    State.wakeGather { s with arrivals := s.arrivals.filter (fun a => !(a.fn == fn && a.page == page)) } fn page

/-! ### Stripe requests (R265, R292) -/

/-- The partition of a function runs: nothing pre-empts it (R265, R408). -/
def State.fnRuns (s : State) (fn : Nat) : Bool := (s.part (s.partOfFn fn)).state = 1 && s.sys.heat = .run

/-- The partition of a function has its Atlas here: it runs, or is halting and not yet in shadow storage (R265, R378). -/
def State.fnHere (s : State) (fn : Nat) : Bool := s.fnRuns fn || ((s.part (s.partOfFn fn)).state = 2 && s.sys.heat = .run)

/-- The same while the partition halts for the thermal stop: an eviction that runs to its end needs its arrivals added (R361,
R378, R408). -/
def State.atlasHere (s : State) (fn : Nat) : Bool := s.fnRuns fn || (s.part (s.partOfFn fn)).state = 2

/-- Puts a request or arrival into the deferred queue of 1,024; a request that finds it full is told to come again.
DESIGN CHOICE (log 59): the queue holds the requests and arrivals of all functions, and an arrival that finds it full is answered
busy too and adds nothing. -/
def State.defer (s : State) (d : Deferred) : State :=
  if s.deferred.length < 1024 then { s with deferred := s.deferred ++ [d] } else s.send (.busy d.fn d.member d.page)

/-- Serves a stripe request by the page's state (R292). -/
def State.serveRequest (s : State) (d : Deferred) : State :=
  let g := s.groupOf d.fn
  if d.version != g.version then s.send (.reply d.fn d.member d.page d.version .notMember [])
  else
    match s.gpsOf d.fn d.page with
    | 6 => s.send (.reply d.fn d.member d.page d.version .notPresent [])
    | 4 | 5 => s.defer d
    | _ =>
      let s := (s.atlasTouch d.fn d.page).vtouch d.fn d.page (s.agBytes d.fn d.page)
      let own := d.stripes.filter (fun i => (s.stripesOf d.fn d.page g.self).contains i)
      let n := 2 ^ s.agStripe d.fn d.page
      if own.any (fun i => match s.keyOf d.fn (d.page + i * n) with | some k => s.poisoned k n | none => false)
      then s.send (.reply d.fn d.member d.page d.version .poisoned [])
      else s.send (.reply d.fn d.member d.page d.version .stripes (own.map (fun i => (i, s.readStripe d.fn d.page i))))

/-! ### Reductions (R293, R361) -/

/-- What an arriving bin, or word, adds up to with the one held at an offset of a page: a bin merges on a binned page, and words
are added as FP32 otherwise (R293, R361). -/
def reduceUnit (bin : Bool) (off held x : Nat) : Nat := if bin then (binMerge (off % 4096 % 24 = 0) held x).1 else addRne fp32 held x

/-- The bins of an arriving stripe of a binned page, but for bytes 4,080 to 4,095 of each 4 KiB, or its words, each by its offset
in the page (R293, R361). -/
def stripeUnits (bin : Bool) (off : Nat) (bs : List Byte) : List (Nat × List Byte) :=
  let u := if bin then 8 else 4
  ((List.range (bs.length / u)).map (fun j => (off + u * j, slice bs (u * j) u))).filter (fun e => !(bin && 4080 ≤ e.1 % 4096))

/-- The stripe requests deferred on a page are served once it reaches Sharded (R292). -/
def State.serveDeferred (s : State) (p : Deferred → Bool) (f : State → Deferred → State) : State :=
  let due := s.deferred.filter p
  due.foldl f { s with deferred := s.deferred.filter (fun d => !p d) }

/-- Reducing ends once PEND is 0 and RECV holds every owner (R290): Sharded, and one arrival on BAR (R293), which an
`evict` that ends with it has preceded (R356). -/
def State.reduceCheck (s : State) (fn page : Nat) : State :=
  if s.gpsOf fn page = 5 && s.agPend fn page = 0 && s.agRecv fn page == s.agOwners fn page then
    let s := ((s.moveGps fn page 1).evictSettle fn page 0).arriveToken (s.partOfFn fn) (s.atlasGet fn page 0x28 8)
    s.serveDeferred (fun d => d.fn == fn && d.page == page && d.reduce.isNone) State.serveRequest
  else s

/-- Adds a bin or a word of an arrival into the owner's own (R231, R361). -/
def State.addUnit (s : State) (fn page : Nat) (bin : Bool) (e : Nat × List Byte) : State :=
  match s.keyOf fn (page + e.1) with
  | some k =>
    let u := e.2.length
    ((s.vtouch fn (page + e.1) u true).homeWrite k (natLE u (reduceUnit bin e.1 (s.readLE k u) (leNat e.2))) none).1
  | none => s

/-- The bins or words of an arrival that this member owns. -/
def State.arrivedUnits (s : State) (fn page : Nat) (stripes : List (Nat × List Byte)) : List (Nat × List Byte) :=
  let bin := s.agFlags fn page % 2 = 1
  let n := 2 ^ s.agStripe fn page
  (stripes.filter (fun e => stripeOwner (s.agOwners fn page) e.1 == (s.groupOf fn).self)).flatMap
    (fun e => stripeUnits bin (e.1 * n) (e.2.take n))

/-- An arrival is all added: it is acknowledged, and the sender's bit in RECV set (R293). -/
def State.arrivalDone (s : State) (fn member page : Nat) : State :=
  let s := s.atlasSet fn page 0x20 8 (Nat.lor (s.agRecv fn page) (2 ^ member))
  (s.send (.ack fn member page)).reduceCheck fn page

/-- Adds an arrival's stripes at the owner, with nothing between, acknowledges, and sets the sender's bit in RECV (R293). -/
def State.addStripes (s : State) (fn member page : Nat) (stripes : List (Nat × List Byte)) : State :=
  let s := s.atlasTouch fn page
  ((s.arrivedUnits fn page stripes).foldl (fun s e => s.addUnit fn page (s.agFlags fn page % 2 = 1) e) s).arrivalDone fn member page

/-- Two bins of a page are added in one step: they are of one binned value, whose bins all lie here (R293). -/
def State.together (s : State) (fn page a b : Nat) : Bool :=
  let value := fun (o : Nat) => o / 4096 * 4096 + o % 4096 / 24 * 24
  a == b || (s.agFlags fn page % 2 = 1 && value a == value b
    && [0, 8, 16].all (fun k => stripeOwner (s.agOwners fn page) ((value a + k) / 2 ^ s.agStripe fn page) == (s.groupOf fn).self))

/-- Values of an arrival that stands are added: those at the offsets `now`, or where none is named all that are left; with its
last value the arrival is all added (R293). -/
def State.addSome (s : State) (a : Arrival) (now : List Nat) : State :=
  let s := s.atlasTouch a.fn a.page
  let due := fun (e : Nat × List Byte) => now.isEmpty || now.any (fun o => s.together a.fn a.page o e.1)
  let rest := a.units.filter (fun e => !due e)
  let others := s.arrivals.filter (fun b => !(b.fn == a.fn && b.member == a.member && b.page == a.page))
  let s := (a.units.filter due).foldl (fun s e => s.addUnit a.fn a.page (s.agFlags a.fn a.page % 2 = 1) e) s
  if rest.isEmpty then State.arrivalDone { s with arrivals := others } a.fn a.member a.page
  else { s with arrivals := others ++ [{ a with units := rest }] }

/-- Every arrival that stands for a page is all added. -/
def State.finishArrivals (s : State) (fn page : Nat) : State :=
  (s.arrivals.filter (fun a => a.fn == fn && a.page == page)).foldl (fun s a => s.addSome a []) s

/-- An arrival stands at its owner with none of its values added yet (R293). -/
def State.beginArrival (s : State) (fn member page : Nat) (stripes : List (Nat × List Byte)) : State :=
  { s with arrivals := s.arrivals ++ [{ fn, member, page, units := s.arrivedUnits fn page stripes }] }

/-- An arrival of evicted stripes by the owner's page state (R361). -/
def State.reduceArrive (s : State) (fn member page : Nat) (stripes : List (Nat × List Byte)) : State :=
  match s.gpsOf fn page with
  | 4 | 5 => s.addStripes fn member page stripes
  | 6 => s
  | _ => s.defer { fn, member, page, reduce := some stripes }

/-- The requests of `abin` still on their way to a page when it is evicted take Shard-write (R299).  DEDUCED (log 55): as an engine's
Partition-port, the trap is taken when the `abin` would have retired, and names the lanes refused. -/
def State.refuseBins (s : State) (fn page : Nat) : State :=
  match s.pageLeaf fn page with
  | none => s
  | some l =>
    let key := memKey l.mt l.pa / 2 ^ l.bits * 2 ^ l.bits
    let late := fun (p : Piece) => p.isBin && p.phase = .sent && p.space = .home && !p.owner && key ≤ p.key && p.key < key + 2 ^ l.bits
    { s with ops := s.ops.map (fun o =>
        match sortBy (fun a b => a.lane ≤ b.lane) (o.pieces.filter late) with
        | [] => o
        | p :: ps =>
          let lanes := maskOf (fun i => (p :: ps).any (·.lane == i))
          { o with pieces := o.pieces.map (fun p => if late p then { p with phase := .abandoned } else p),
                   owes := o.owes.orElse (fun _ => some { code := 0x23, detail := 5, tval := p.va, lanes := some lanes }) }) }

/-- The bytes of a stripe that an eviction sends: of a binned page not bytes 4,080 to 4,095 of a 4 KiB, which belong to no
value (R293). -/
def sentPart (bin : Bool) (off : Nat) (bs : List Byte) : List Byte := if bin then bs.take (4080 - off % 4096) else bs

/-- Evicts a Partial page (R293): an `abin` not performed by now takes Shard-write (R299); then Reducing, every stripe of another owner sent to
it, AFLAGS [1], PEND the owners sent to, and the member's own bit in RECV.  The page agent's read sets A in the page's leaf (R276). -/
def State.evictPage (s : State) (fn page : Nat) : State :=
  let s := (s.atlasTouch fn page).vtouch fn page (s.agBytes fn page)
  let g := s.groupOf fn
  let owners := maskMembers (maskDrop (s.agOwners fn page) g.self)
  let bin := s.agFlags fn page % 2 = 1
  let n := 2 ^ s.agStripe fn page
  let stripes := fun (s : State) (m : Nat) =>
    ((s.stripesOf fn page m).map (fun i => (i, sentPart bin (i * n) (s.readStripe fn page i)))).filter (fun e => !e.2.isEmpty)
  let sent := owners.filter (fun m => !(stripes s m).isEmpty)
  let s := (s.refuseBins fn page).moveGps fn page 5
  let s := sent.foldl (fun s m => s.send (.reduce fn m page (stripes s m))) s
  let s := s.atlasSet fn page 0x0B 1 (Nat.lor (s.agFlags fn page) 2)
  let s := s.atlasSet fn page 0x18 8 (sent.foldl (fun k m => k + 2 ^ m) 0)
  let s := s.atlasSet fn page 0x20 8 (Nat.lor (s.agRecv fn page) (2 ^ g.self))
  s.reduceCheck fn page

/-! ### Versions (R294, R295) -/

/-- One page under a new version (R290, R295): departed owners orphan it, unless it is Gathered; an unanswered request on
a Gathering page is sent again. -/
def State.versionPage (s : State) (departed : Nat) (a : AtlasRef) : State :=
  let s := s.atlasTouch a.fn a.page
  let g := s.gpsOf a.fn a.page
  if Nat.land (s.agOwners a.fn a.page) departed != 0 then
    (if g = 1 || g = 2 || g = 4 || g = 5 then s.orphan a.fn a.page else s)
  else if g = 2 then
    (maskMembers (s.agPend a.fn a.page)).foldl (fun s m => s.ask a.fn a.page m) s
  else s

/-- Applies a committed version of a partition's group (R295): its collectives, which end with ERR 1, an `evict` before the
arrivals of the pages it orphans (R357); its pages; and its sequence number. -/
def State.applyVersion (s : State) (part version mask : Nat) : State :=
  let g : Shard := s.shard part
  let departed := g.members - Nat.land g.members mask
  let s : State := s.setShard part { g with version, members := mask, seq := 0, present := mask / 2 ^ g.self % 2 = 1 }
  let s : State := { s with colls := s.colls.map (fun (c : Coll) =>
      if c.started && !c.complete && (s.team c.team).part == part then { c with err := 1 } else c) }
  let s := (s.colls.filter (fun c => c.started && !c.complete && (s.team c.team).part == part && collKind c.desc = 5)).foldl
    State.collFinish s
  (s.atlas.filter (fun a => s.partOfFn a.fn == part)).foldl (fun s a => s.versionPage departed a) s

/-! ### Accesses that hold their group -/

/-- A group-uniform access whose translation does not let it go on: its trap, or what holds the group (R278, R286, R287, R391). -/
def State.uniformEnd (s : State) (m : Miss) (x : Xl) : State :=
  match x with
  | .trap code detail => (s.upd (fun c => { c with failed := [] })).raise { code, detail, tval := word64 m.va }
  | .request lvl st2 page => (s.request m.fn st2 page lvl m.want.writes (m.want == .fetch)).1.hold (.request page st2)
  | .gather page _ => (s.startGather m.fn page).hold (.gather page)
  | .poison key => s.killWalk (word64 m.va) key
  | .busy => (s.joinWalks [m]).hold .translation
  | .off => s.hold .translation
  | .ok _ => s

end Sys2Proof.Machine
end

