-- ==== Sys2Proof/Machine/SpecialFn.lean ====
section
/-! DEFINITION. The special functions of R112, each the exact mathematical value rounded once to FP32 by RNE.  The value
is evaluated in fixed point to several hundred bits, far past the distance of any FP32 input's image from a rounding
boundary (log 9). -/

namespace Sys2Proof.Machine

/-- floor(π × 2^640). -/
def pi640 : Nat :=
  0x3243F6A8885A308D313198A2E03707344A4093822299F31D0082EFA98EC4E6C89452821E638D01377BE5466CF34E90C6CC0AC29B7C97C50DD3F84D5B5B54709179216D5D98979FB1BD1310BA698DFB5AC

/-- floor(ln 2 × 2^640). -/
def ln2_640 : Nat :=
  0xB17217F7D1CF79ABC9E3B39803F2F6AF40F343267298B62D8A0D175B8BAAFA2BE7B876206DEBAC98559552FB4AFA1B10ED2EAE35C138214427573B291169B8253E96CA16224AE8C51ACBDA11317C387E

/-- The fractional bits of the fixed-point evaluations. -/
def fxP : Nat := 640

/-- One term of a fixed-point series and the sums so far: the sums of the even-numbered and odd-numbered terms. -/
structure Series where
  term : Nat
  even : Nat
  odd : Nat
  deriving DecidableEq, Repr

/-- Adds up the terms x^n / n! for n from 0 to 2k + 1, the even and the odd ones apart. -/
def powSeries (x k : Nat) : Series :=
  (List.range k).foldl (fun s j =>
    let t := s.term * x / 2 ^ fxP / (2 * j + 1)
    let u := t * x / 2 ^ fxP / (2 * j + 2)
    ⟨u, s.even + u, s.odd + t⟩) ⟨2 ^ fxP, 2 ^ fxP, 0⟩

/-- The sums of the terms x^n / n! with alternating signs in each parity: cos x and sin x for 0 ≤ x < 2. -/
def trigSeries (x k : Nat) : Nat × Nat :=
  let r := (List.range k).foldl (fun (s : Nat × Nat × Nat × Nat × Nat) j =>
    let (t, cp, cn, sp, sn) := s
    let a := t * x / 2 ^ fxP / (2 * j + 1)
    let b := a * x / 2 ^ fxP / (2 * j + 2)
    if j % 2 = 0 then (b, cp, cn + b, sp + a, sn) else (b, cp + b, cn, sp, sn + a)) (2 ^ fxP, 2 ^ fxP, 0, 0, 0)
  (r.2.1 - r.2.2.1, r.2.2.2.1 - r.2.2.2.2)

/-- e^x for 0 ≤ x < 1 in fixed point. -/
def expSmall (x : Nat) : Nat := let s := powSeries x 60; s.even + s.odd

/-- ln(a / b) for 1 ≤ a / b < 2 in fixed point, as twice the inverse hyperbolic tangent of (a − b) / (a + b). -/
def lnSmall (a b : Nat) : Nat :=
  let z := (a - b) * 2 ^ fxP / (a + b)
  let z2 := z * z / 2 ^ fxP
  let r := (List.range 210).foldl (fun (s : Nat × Nat) j => (s.1 * z2 / 2 ^ fxP, s.2 + s.1 / (2 * j + 1))) (z, 0)
  2 * r.2

/-- The outcome of rounding an exact value to FP32 by RNE without flags (R112). -/
def rneQuiet (x : Exact) : Rounded := { fp32.round .rne false 0 x with flags := 0 }

/-- The special case of a NaN operand (R112). -/
def nanRes (s : Bool) : Rounded := ⟨fp32.nan, if s then fIV else 0, 0⟩

/-- `frcp` (R112). -/
def fnRcp (code : Nat) : Rounded :=
  match fp32.read code with
  | .nan s => nanRes s
  | .inf neg => ⟨fp32.zero neg, 0, 0⟩
  | .fin neg n d =>
    if n = 0 then ⟨fp32.inf neg, fDZ, 0⟩
    else
      let r := fp32.round .rne false 0 (.real neg d n)
      if r.code % fp32.signW = fp32.infCode then { r with flags := fOF ||| fNX } else { r with flags := 0 }

/-- `frsq` (R112). -/
def fnRsq (code : Nat) : Rounded :=
  match fp32.read code with
  | .nan s => nanRes s
  | .inf neg => if neg then ⟨fp32.nan, fIV, 0⟩ else ⟨0, 0, 0⟩
  | .fin neg n d =>
    if n = 0 then ⟨fp32.inf neg, fDZ, 0⟩
    else if neg then ⟨fp32.nan, fIV, 0⟩
    else let (a, b) := sqrtFrac 128 d n; rneQuiet (.real false a b)

/-- 2^(w + f / 2^640) as an exact outcome, for a whole part and a fraction in fixed point. -/
def exp2Fix (w : Int) (f : Nat) : Exact :=
  (Exact.real false (expSmall (f * ln2_640 / 2 ^ fxP)) (2 ^ fxP)).scale w

/-- `fexp2` (R112). -/
def fnExp2 (code : Nat) : Rounded :=
  match fp32.read code with
  | .nan s => nanRes s
  | .inf neg => ⟨if neg then 0 else fp32.inf false, 0, 0⟩
  | .fin neg n d =>
    if !neg && n ≥ 128 * d then ⟨fp32.inf false, fOF ||| fNX, 0⟩
    else if neg && n ≥ 150 * d then ⟨0, fUF ||| fNX, 0⟩
    else
      let w : Int := if neg then -((n + d - 1) / d : Nat) else (n / d : Nat)
      let f := if neg then (w.natAbs * d - n) * 2 ^ fxP / d else n % d * 2 ^ fxP / d
      rneQuiet (exp2Fix w f)

/-- `flog2` (R112). -/
def fnLog2 (code : Nat) : Rounded :=
  match fp32.read code with
  | .nan s => nanRes s
  | .inf neg => if neg then ⟨fp32.nan, fIV, 0⟩ else ⟨fp32.inf false, 0, 0⟩
  | .fin neg n d =>
    if n = 0 then ⟨fp32.inf true, fDZ, 0⟩
    else if neg then ⟨fp32.nan, fIV, 0⟩
    else
      let e := log2Floor n d
      let a := if 0 ≤ e then n else n * 2 ^ (-e).toNat
      let b := if 0 ≤ e then d * 2 ^ e.toNat else d
      let l : Int := e * (2 ^ fxP : Nat) + (lnSmall a b * 2 ^ fxP / ln2_640 : Nat)
      if l = 0 then ⟨0, 0, 0⟩ else rneQuiet (.real (l < 0) l.natAbs (2 ^ fxP))

/-- The quarter turn a positive n / d lies in and its remainder, in fixed point. -/
def quarter (n d : Nat) : Nat × Nat :=
  let x := 2 * n * 2 ^ fxP
  let k := x / (d * pi640)
  (k % 4, (x - k * d * pi640) / (2 * d))

/-- sin or cos of a finite nonzero value: the quarter turn picks the series and the sign (R112). -/
def trig (cosine neg : Bool) (n d : Nat) : Rounded :=
  let (k, r) := quarter n d
  let (c, s) := trigSeries r 80
  let k := if cosine then (k + 1) % 4 else k
  let v := if k % 2 = 0 then s else c
  let sign := (k ≥ 2) != (neg && !cosine)
  if v = 0 then ⟨fp32.zero sign, 0, 0⟩ else rneQuiet (.real sign v (2 ^ fxP))

/-- `fsin` (R112). -/
def fnSin (code : Nat) : Rounded :=
  match fp32.read code with
  | .nan s => nanRes s
  | .inf _ => ⟨fp32.nan, fIV, 0⟩
  | .fin neg n d => if n = 0 then ⟨fp32.zero neg, 0, 0⟩ else trig false neg n d

/-- `fcos` (R112). -/
def fnCos (code : Nat) : Rounded :=
  match fp32.read code with
  | .nan s => nanRes s
  | .inf _ => ⟨fp32.nan, fIV, 0⟩
  | .fin neg n d => if n = 0 then ⟨0x3F800000, 0, 0⟩ else trig true neg n d

/-- `ftanh` (R112): from 20 up the rounding gives 1.0. -/
def fnTanh (code : Nat) : Rounded :=
  match fp32.read code with
  | .nan s => nanRes s
  | .inf neg => ⟨0x3F800000 + neg.toNat * fp32.signW, 0, 0⟩
  | .fin neg n d =>
    if n = 0 then ⟨fp32.zero neg, 0, 0⟩
    else if n ≥ 20 * d then ⟨0x3F800000 + neg.toNat * fp32.signW, 0, 0⟩
    else
      let t := 2 * n * 2 ^ fxP / d
      let w := t / ln2_640
      let y := expSmall (t % ln2_640) * 2 ^ w
      rneQuiet (.real neg (y - 2 ^ fxP) (y + 2 ^ fxP))

end Sys2Proof.Machine
end

