-- ==== Sys2Proof/Machine/Floating.lean ====
section
/-! DEFINITION. The floating and conversion instructions, 0x40 to 0x73 (R106 to R116), and stochastic draws (R84 to
R86). -/

namespace Sys2Proof.Machine

/-! ### Draws -/

/-- The generator's next state and its output (R84). -/
def genNext (s : Word64) : Word64 × Word64 :=
  let a := s ^^^ (s >>> 12)
  let b := a ^^^ (a <<< 25)
  let c := b ^^^ (b >>> 27)
  (c, c * 0x2545F4914F6CDD1D)

/-- The state of a generator that nothing has written (R159): the value a write of 0 stores. -/
def genReset : Word64 := 0x9E3779B97F4A7C15

/-- The key of a pipe's generator. -/
def genKey (l : Loc) (pipe : Nat) : Nat := 8 * (128 * l.die + l.core) + pipe

def State.gen (s : State) (key : Nat) : Word64 := Cells.get genReset s.gens key

/-- Writing a generator; 0 stores the replacement (R84, R159). -/
def State.setGen (s : State) (key : Nat) (x : Word64) : State :=
  { s with gens := Cells.set genReset s.gens key (if x == 0 then genReset else x) }

/-- SEED repeated in both halves (R84, R86). -/
def seedMix (mode : Word) : Word := word (modeSeed mode * 0x10001)

/-- The draw of a lane and element from the generator's output (R84). -/
def drawGen (mode : Word) (out : Word64) (i e : Nat) : Nat :=
  ((word ((out.rotateLeft (2 * i)).toNat / 2 ^ (32 * e))) ^^^ seedMix mode).toNat

/-- The draw of a lane from its neighbours' discarded bits (R86). -/
def drawHash (mode : Word) (dl dr : Word) (i : Nat) : Nat :=
  let h := dl ^^^ dr.rotateLeft 16 ^^^ seedMix mode ^^^ word i
  let h := h ^^^ (h >>> 15)
  let h := h * 0x2C1B3C6D
  let h := h ^^^ (h >>> 12)
  let h := h * 0x297A2D39
  (h ^^^ (h >>> 15)).toNat

/-! ### Elements and their rounding -/

/-- One element's outcome before rounding: already settled, or an exact value bound for a floating or integer format. -/
inductive Pend where
  | done (r : Rounded)
  | flt (f : Fmt) (sat : Bool) (x : Exact) (extra : Word)
  | int (f : IFmt) (sat : Bool) (x : Exact)
  deriving DecidableEq, Repr

/-- D of R79. -/
def Pend.disc : Pend → Nat
  | .done _ => 0
  | .flt f _ x _ => f.discard x
  | .int _ _ (.real _ n d) => n % d * 2 ^ 32 / d
  | .int _ _ _ => 0

def Pend.finish (rnd : Rnd) (draw : Nat) : Pend → Rounded
  | .done r => r
  | .flt f sat x extra => let r := f.round rnd sat draw x; { r with flags := r.flags ||| extra }
  | .int f sat x => f.ofExact rnd sat draw x

/-- The element format of a TY (R93). -/
def fmtOf : Ty → Fmt
  | .f16 | .f16x2 => fp16
  | .bf16 | .bf16x2 => bf16
  | .e4m3 => fE4M3
  | .e5m2 => fE5M2
  | _ => fp32

def isPacked (t : Ty) : Bool := t == .bf16x2 || t == .f16x2

/-- The element codes an operand holds (R74, R93). -/
def elems (t : Ty) (w : Word) : List Nat :=
  let n := w.toNat
  if isPacked t then [n % 65536, n / 65536] else [n % (2 * (fmtOf t).signW)]

/-- Element codes put together into a result (R74, R93). -/
def joinElems (l : List Nat) : Nat := match l with
  | [] => 0
  | [a] => a
  | a :: b :: _ => a + 65536 * b

/-- The rounded elements of every enabled lane, with the state after a stochastic issue's advance (R84, R86). -/
def roundLanes (s : State) (m : Word) (rnd : Rnd) (pend : Nat → List Pend) : State × (Nat → List Rounded) :=
  let c := s.cur
  let ps := lanes.map (fun i => if m.getLsbD i then pend i else [])
  let at' := fun i e => ((ps.getD i []).getD e (.done ⟨0, 0, 0⟩))
  let fin := fun (draw : Nat → Nat → Nat) i => ((ps.getD i []).zipIdx).map (fun (p, e) => p.finish rnd (draw i e))
  if rnd = .sr && m != 0 then
    if modeSrsrc c.mode then
      (s, fin (fun i e => drawHash c.mode (word (at' ((i + 31) % 32) e).disc) (word (at' ((i + 1) % 32) e).disc) i))
    else
      let k := genKey c.loc c.loc.pipe
      let (g, out) := genNext (s.gen k)
      (s.setGen k g, fin (drawGen c.mode out))
  else (s, fin (fun _ _ => 0))

/-- A lane-wise floating instruction: `pend` gives a lane's elements, `join` puts the rounded codes together; flags are
joined over the enabled lanes (R35, R81). -/
def floatOp (i : Instr) (x : Long) (stochastic wide : Bool) (pend : Ctx → Nat → List Pend)
    (join : Nat → Ctx → List Nat → Nat) (s : State) : Out :=
  issue i s (fun s =>
    let c := s.cur
    let m := c.enabledM x.m
    let (s, res) := roundLanes s m (effRnd c.mode stochastic x.m.rnd) (pend c)
    let codes := fun j => join j c ((res j).map (·.code))
    let fl := joinFlags ((lanesOf m).map (fun j => joinFlags ((res j).map (·.flags))))
    s.upd (fun c =>
      let c := c.stick fl
      if wide then c.putV64 x.w m i.size (lanes.map (fun j => word64 (codes j)))
      else c.putV x.w m i.size (vecOf (fun j => word (codes j)))))

/-- The elements of A, B and C in a lane, side by side. -/
def lanes3 (x : Long) (t : Ty) (c : Ctx) (j : Nat) : List (Nat × Nat × Nat) :=
  (elems t (c.opA x j)).zip ((elems t (c.opB x j)).zip (elems t (c.opC x j)))

/-- An instruction computed element by element (R74, R106). -/
def elemOp (i : Instr) (x : Long) (stochastic : Bool) (g : Fmt → Bool → Nat → Nat → Nat → Pend) : State → Out :=
  floatOp i x stochastic false
    (fun c j => (lanes3 x x.m.ty c j).map (fun (a, b, d) =>
      g (fmtOf x.m.ty) (effRnd c.mode stochastic x.m.rnd = .rdn) a b d))
    (fun _ _ => joinElems)

/-- Addition, subtraction, multiplication and fused multiply-add (R106). -/
def arith (i : Instr) (x : Long) (g : Bool → Exact → Exact → Exact → Exact) : State → Out :=
  elemOp i x true (fun f rdn a b d => .flt f x.m.sat (g rdn (f.read a).exact (f.read b).exact (f.read d).exact) 0)

/-- `fmin`, `fmax` (R107). -/
def minMaxOp (i : Instr) (x : Long) (max : Bool) : State → Out :=
  elemOp i x false (fun f _ a b _ => .done (f.minMax max (x.m.subop = 1) a b))

/-- `fabs`, `fneg`, `fsgn`: the sign of the result from the signs of A and B (R108). -/
def signOp (i : Instr) (x : Long) (g : Bool → Bool → Bool) : State → Out :=
  elemOp i x false (fun f _ a b _ => .done (f.withSign a (g (f.signOf a) (f.signOf b))))

def fsgnSign (subop : Nat) (a b : Bool) : Bool :=
  match subop with
  | 0 => b | 1 => !b | _ => a != b

/-- `fcmp` (R109). -/
def fcmpBit (subop : Nat) (a b : Num) : Bool :=
  let un := a.isNan || b.isNan
  let k := a.cmp b
  match subop with
  | 0 => !un && k == 0 | 1 => un || k != 0 | 2 => !un && k < 0 | 3 => !un && k ≤ 0 | 4 => !un && k > 0
  | 5 => !un && k ≥ 0 | 6 => !un | _ => un

def fcmpOp (i : Instr) (x : Long) : State → Out :=
  laneWiseP i x (fun c j =>
    let f := fmtOf x.m.ty
    let a := f.read (c.opA x j).toNat
    let b := f.read (c.opB x j).toNat
    (fcmpBit x.m.subop.toNat a b, if a.isSnan || b.isSnan then fIV else 0))

/-- `fscale`: a × 2^b with one rounding; beyond 2,048 either way the result no longer depends on b (R111). -/
def fscaleOp (i : Instr) (x : Long) : State → Out :=
  floatOp i x false false
    (fun c j =>
      let f := fmtOf x.m.ty
      let e := (⟨12, true⟩ : IFmt).clamp (c.opB x j).toInt
      [.flt f x.m.sat ((f.read (c.opA x j).toNat).exact.scale e) 0])
    (fun _ _ => joinElems)

/-- `fdiv` (R111). -/
def fdivOp (i : Instr) (x : Long) : State → Out :=
  elemOp i x false (fun f _ a b _ => let (r, fl) := (f.read a).div (f.read b); .flt f x.m.sat r fl)

/-- A special function of A (R112). -/
def specialOp (i : Instr) (x : Long) (g : Nat → Rounded) : State → Out :=
  elemOp i x false (fun _ _ a _ _ => .done (g a))

/-- The sum of `fdot2`: IV is set where opposite infinities meet before a NaN does, the products first (log 52, DESIGN CHOICE); an
exact zero is +0, but −0 under RDN where the addends are not of one sign (R79). -/
def dotSum (rdn : Bool) (p q c : Exact) : Exact :=
  if p = .zero true ∧ q = .zero true ∧ c = .zero true then .zero false else (p.add rdn q).add rdn c

/-- `fdot2`: two products and C, exact, with one rounding to FP32 (R113). -/
def fdot2Op (i : Instr) (x : Long) : State → Out :=
  let t := if x.m.ty = .dflt then Ty.bf16x2 else x.m.ty
  let f := fmtOf t
  floatOp i x true false
    (fun c j =>
      let rdn := effRnd c.mode true x.m.rnd = .rdn
      let e := fun (w : Word) k => (f.read ((elems t w).getD k 0)).exact
      let p := fun k => (e (c.opA x j) k).mul (e (c.opB x j) k)
      [.flt fp32 x.m.sat (dotSum rdn (p 0) (p 1) (fp32.read (c.opC x j).toNat).exact) 0])
    (fun _ _ => joinElems)

/-! ### Conversions (R114, R82) -/

/-- A format that `cvt` names: floating or integer. -/
inductive CFmt where
  | flt (f : Fmt)
  | int (f : IFmt)
  deriving DecidableEq, Repr

/-- The format of a TY code, which SUBOP also uses for the source (R53, R114). -/
def cfmt (code : Nat) : CFmt :=
  match code with
  | 2 => .flt fp16 | 3 => .flt bf16 | 4 => .flt fE4M3 | 5 => .flt fE5M2
  | 6 => .int ⟨8, true⟩ | 7 => .int ⟨16, true⟩ | 8 => .int ⟨32, true⟩ | 9 => .int ⟨64, true⟩
  | 10 => .int ⟨8, false⟩ | 11 => .int ⟨16, false⟩ | 12 => .int ⟨32, false⟩ | 13 => .int ⟨64, false⟩
  | _ => .flt fp32

def tyCode : Ty → Nat
  | .dflt | .f32 => 1 | .f16 => 2 | .bf16 => 3 | .e4m3 => 4 | .e5m2 => 5 | .i8 => 6 | .i16 => 7 | .i32 => 8
  | .i64 => 9 | .n8 => 10 | .n16 => 11 | .n32 => 12 | .n64 => 13 | .bf16x2 => 14 | .f16x2 => 15

/-- One conversion (R82): identical floating formats keep the code, a quiet NaN's too, and quiet a signalling NaN.  An
integer that rounds above the largest finite value overflows as R80 says in every format, FP16 too, though R82 names only
E4M3 and E5M2 (DESIGN CHOICE, log 44); a zero of either sign between two formats is +0 (R79). -/
def convert (src dst : CFmt) (sat : Bool) (code : Nat) : Pend :=
  match src, dst with
  | .flt a, .flt b =>
    if a = b then
      match a.read code with
      | .nan true => .done ⟨a.nan, fIV, 0⟩
      | _ => .done ⟨code % (2 * a.signW), 0, 0⟩
    else .flt b sat (quietZero (a.read code).exact) 0
  | .flt a, .int b => .int b sat (a.read code).exact
  | .int a, .flt b => .flt b sat (exactOfInt (a.read code)) 0
  | .int a, .int b => .done (b.narrow sat (a.read code))

def cvtOp (i : Instr) (x : Long) : State → Out :=
  let sc := x.m.subop.toNat
  floatOp i x true x.m.ty.isWideInt
    (fun c j =>
      let code := if sc = 9 || sc = 13 then (c.opA64 x j).toNat else (c.opA x j).toNat
      [convert (cfmt (if sc = 0 then 1 else sc)) (cfmt (tyCode x.m.ty)) x.m.sat code])
    (fun _ _ => joinElems)

/-! ### Pack and unpack (R115, R116) -/

/-- Where `pack` places two narrowed values, over C's bytes. -/
def packPlace (ty : Ty) (subop : Nat) (cw : Nat) (a b : Nat) : Nat :=
  if isPacked ty then a + 65536 * b
  else if subop ≤ 1 then
    let lo := 16 * subop
    setFld cw (lo + 15) lo (a % 256 + 256 * (b % 256))
  else
    let lo := 8 * (subop - 2)
    setFld cw (lo + 7) lo (a % 16 + 16 * (b % 16))

/-- `pack` (R115), whose exact zeros are +0 (R79): the value of B is element 1 of a draw in every form, the byte forms too (DESIGN CHOICE, log 44). -/
def packOp (i : Instr) (x : Long) : State → Out :=
  let sub := x.m.subop.toNat
  floatOp i x true false
    (fun c j =>
      let one := fun (w : Word) =>
        match x.m.ty with
        | .i8 => Pend.done ((⟨if sub ≥ 2 then 4 else 8, true⟩ : IFmt).narrow x.m.sat w.toInt)
        | .n8 => Pend.done ((⟨if sub ≥ 2 then 4 else 8, false⟩ : IFmt).narrow x.m.sat w.toInt)
        | t => Pend.flt (fmtOf t) x.m.sat (quietZero (fp32.read w.toNat).exact) 0
      [one (c.opA x j), one (c.opB x j)])
    (fun j c l => packPlace x.m.ty sub (c.opC x j).toNat (l.getD 0 0) (l.getD 1 0))

/-- The value scale × (q − z) of an AQ code, exact in FP32; NaN where the scale's exponent is all ones (R76, R78). -/
def aqValue (scale q z : Nat) : Exact :=
  match fp16.read scale with
  | .fin neg n d => (Num.fin neg n d).exact.mul (exactOfInt ((q : Int) - z))
  | _ => .nan false

/-- The value f × 2^(c − 127) of a block-scaled code; NaN for code 0xFF and for a NaN element (R77, R78). -/
def beValue (f : Fmt) (code c : Nat) : Exact :=
  if c = 0xFF then .nan false
  else match f.read code with
    | .nan _ => .nan false
    | n => n.exact.scale ((c : Int) - 127)

/-- One element decoded (R116): a 16-bit element is its exact value, and an exact zero of the other forms is +0 (R79). -/
def unpkPend (t : Ty) (subop : Nat) (a b : Nat) : Pend :=
  let byte := a / 2 ^ (8 * subop) % 256
  let nib := a / 2 ^ (4 * (subop - 4)) % 16
  match t with
  | .bf16x2 | .f16x2 =>
    match (fmtOf t).read (a / 2 ^ (16 * subop) % 65536) with
    | .nan _ => .done ⟨fp32.nan, 0, 0⟩
    | n => .flt fp32 false n.exact 0
  | .e4m3 | .e5m2 => .flt fp32 false (quietZero (beValue (fmtOf t) byte (b % 256))) 0
  | .n8 =>
    .flt fp32 false (quietZero (if subop < 4 then aqValue (b % 65536) byte (b / 65536 % 256)
      else aqValue (b % 65536) nib (b / 65536 % 16))) 0
  | _ => .done ⟨if subop < 4 then (⟨8, true⟩ : IFmt).write ((⟨8, true⟩ : IFmt).read byte)
      else (⟨4, true⟩ : IFmt).write ((⟨4, true⟩ : IFmt).read nib), 0, 0⟩

/-- `unpk` rounds by RNE whatever MODE's RND (R116). -/
def unpkOp (i : Instr) (x : Long) : State → Out :=
  floatOp i { x with m := { x.m with rnd := .rne } } false false
    (fun c j => [unpkPend x.m.ty x.m.subop.toNat (c.opA x j).toNat (c.opB x j).toNat]) (fun _ _ => joinElems)

/-- `fadd`, short form (R106, R58). -/
def execFadd (x : Short) : State → Out := arith (.fadd x) x.toLong (fun rdn a b _ => a.add rdn b)

/-- `fadd`, long form (R106). -/
def execFaddLong (x : Long) : State → Out := arith (.faddLong x) x (fun rdn a b _ => a.add rdn b)

/-- `fsub`, short form (R106, R58). -/
def execFsub (x : Short) : State → Out := arith (.fsub x) x.toLong (fun rdn a b _ => a.add rdn b.neg)

/-- `fsub`, long form (R106). -/
def execFsubLong (x : Long) : State → Out := arith (.fsubLong x) x (fun rdn a b _ => a.add rdn b.neg)

/-- `fmul`, short form (R106, R58). -/
def execFmul (x : Short) : State → Out := arith (.fmul x) x.toLong (fun _ a b _ => a.mul b)

/-- `fmul`, long form (R106). -/
def execFmulLong (x : Long) : State → Out := arith (.fmulLong x) x (fun _ a b _ => a.mul b)

/-- `ffma` (R106). -/
def execFfma (x : Long) : State → Out := arith (.ffma x) x (fun rdn a b c => (a.mul b).add rdn c)

/-- `fmin`, short form (R107, R58). -/
def execFmin (x : Short) : State → Out := minMaxOp (.fmin x) x.toLong false

/-- `fmin`, long form (R107). -/
def execFminLong (x : Long) : State → Out := minMaxOp (.fminLong x) x false

/-- `fmax`, short form (R107, R58). -/
def execFmax (x : Short) : State → Out := minMaxOp (.fmax x) x.toLong true

/-- `fmax`, long form (R107). -/
def execFmaxLong (x : Long) : State → Out := minMaxOp (.fmaxLong x) x true

/-- `fabs`, short form (R108, R58). -/
def execFabs (x : Short) : State → Out := signOp (.fabs x) x.toLong (fun _ _ => false)

/-- `fabs`, long form (R108). -/
def execFabsLong (x : Long) : State → Out := signOp (.fabsLong x) x (fun _ _ => false)

/-- `fneg`, short form (R108, R58). -/
def execFneg (x : Short) : State → Out := signOp (.fneg x) x.toLong (fun a _ => !a)

/-- `fneg`, long form (R108). -/
def execFnegLong (x : Long) : State → Out := signOp (.fnegLong x) x (fun a _ => !a)

/-- `fcmp` (R109). -/
def execFcmp (x : Long) : State → Out := fcmpOp (.fcmp x) x

/-- `fclass`, short form (R110, R58). -/
def execFclass (x : Short) : State → Out := laneWise0 (.fclass x) x.toLong (fun c j => word (2 ^ (fmtOf x.toLong.m.ty).classOf (c.opA x.toLong j).toNat))

/-- `fclass`, long form (R110). -/
def execFclassLong (x : Long) : State → Out := laneWise0 (.fclassLong x) x (fun c j => word (2 ^ (fmtOf x.m.ty).classOf (c.opA x j).toNat))

/-- `cvt` (R114). -/
def execCvt (x : Long) : State → Out := cvtOp (.cvt x) x

/-- `pack` (R115). -/
def execPack (x : Long) : State → Out := packOp (.pack x) x

/-- `unpk` (R116). -/
def execUnpk (x : Long) : State → Out := unpkOp (.unpk x) x

/-- `frcp`, short form (R112, R58). -/
def execFrcp (x : Short) : State → Out := specialOp (.frcp x) x.toLong fnRcp

/-- `frcp`, long form (R112). -/
def execFrcpLong (x : Long) : State → Out := specialOp (.frcpLong x) x fnRcp

/-- `frsq`, short form (R112, R58). -/
def execFrsq (x : Short) : State → Out := specialOp (.frsq x) x.toLong fnRsq

/-- `frsq`, long form (R112). -/
def execFrsqLong (x : Long) : State → Out := specialOp (.frsqLong x) x fnRsq

/-- `fsqrt`, short form (R111, R58). -/
def execFsqrt (x : Short) : State → Out := elemOp (.fsqrt x) x.toLong false (fun f _ a _ _ => .flt f x.toLong.m.sat (f.read a).sqrt 0)

/-- `fsqrt`, long form (R111). -/
def execFsqrtLong (x : Long) : State → Out := elemOp (.fsqrtLong x) x false (fun f _ a _ _ => .flt f x.m.sat (f.read a).sqrt 0)

/-- `fdiv`, short form (R111, R58). -/
def execFdiv (x : Short) : State → Out := fdivOp (.fdiv x) x.toLong

/-- `fdiv`, long form (R111). -/
def execFdivLong (x : Long) : State → Out := fdivOp (.fdivLong x) x

/-- `fexp2`, short form (R112, R58). -/
def execFexp2 (x : Short) : State → Out := specialOp (.fexp2 x) x.toLong fnExp2

/-- `fexp2`, long form (R112). -/
def execFexp2Long (x : Long) : State → Out := specialOp (.fexp2Long x) x fnExp2

/-- `flog2`, short form (R112, R58). -/
def execFlog2 (x : Short) : State → Out := specialOp (.flog2 x) x.toLong fnLog2

/-- `flog2`, long form (R112). -/
def execFlog2Long (x : Long) : State → Out := specialOp (.flog2Long x) x fnLog2

/-- `fsin`, short form (R112, R58). -/
def execFsin (x : Short) : State → Out := specialOp (.fsin x) x.toLong fnSin

/-- `fsin`, long form (R112). -/
def execFsinLong (x : Long) : State → Out := specialOp (.fsinLong x) x fnSin

/-- `fcos`, short form (R112, R58). -/
def execFcos (x : Short) : State → Out := specialOp (.fcos x) x.toLong fnCos

/-- `fcos`, long form (R112). -/
def execFcosLong (x : Long) : State → Out := specialOp (.fcosLong x) x fnCos

/-- `ftanh`, short form (R112, R58). -/
def execFtanh (x : Short) : State → Out := specialOp (.ftanh x) x.toLong fnTanh

/-- `ftanh`, long form (R112). -/
def execFtanhLong (x : Long) : State → Out := specialOp (.ftanhLong x) x fnTanh

/-- `fdot2` (R113). -/
def execFdot2 (x : Long) : State → Out := fdot2Op (.fdot2 x) x

/-- `frint`, short form (R111, R58). -/
def execFrint (x : Short) : State → Out := floatOp (.frint x) x.toLong false false (fun c j => (elems x.toLong.m.ty (c.opA x.toLong j)).map (fun a =>
    .done ((fmtOf x.toLong.m.ty).rint (effRnd c.mode false x.toLong.m.rnd) a))) (fun _ _ => joinElems)

/-- `frint`, long form (R111). -/
def execFrintLong (x : Long) : State → Out := floatOp (.frintLong x) x false false (fun c j => (elems x.m.ty (c.opA x j)).map (fun a =>
    .done ((fmtOf x.m.ty).rint (effRnd c.mode false x.m.rnd) a))) (fun _ _ => joinElems)

/-- `fscale`, short form (R111, R58). -/
def execFscale (x : Short) : State → Out := fscaleOp (.fscale x) x.toLong

/-- `fscale`, long form (R111). -/
def execFscaleLong (x : Long) : State → Out := fscaleOp (.fscaleLong x) x

/-- `fsgn`, short form (R108, R58). -/
def execFsgn (x : Short) : State → Out := signOp (.fsgn x) x.toLong (fsgnSign x.toLong.m.subop.toNat)

/-- `fsgn`, long form (R108). -/
def execFsgnLong (x : Long) : State → Out := signOp (.fsgnLong x) x (fsgnSign x.m.subop.toNat)

end Sys2Proof.Machine
end

