-- ==== Sys2Proof/Machine/System.lean ====
section
/-! DEFINITION. Traps, service calls and the system registers: 0xF8 to 0xFF (R156, R158, R159). -/

namespace Sys2Proof.Machine

/-- `trap` (R156): it ends its clause, so EPC is the next clause. -/
def execTrap (x : Short) (s : State) : Out :=
  issue (.trap x) s (fun s =>
    s.enterTrap { code := 0x10, tval := (x.imm.getD 0).setWidth 64 } s.cur.nextHdr {} s.cur.tvec)

/-- `tret` (R154). -/
def execTret (x : Short) (s : State) : Out := issue (.tret x) s State.trapReturn

/-- `svc` (R156): to SVEC, at supervisor level; SVEC 0 ends the group.  TVEC is not used, and TVEC 0 makes it no double trap (R155;
log 52, DESIGN CHOICE). -/
def execSvc (x : Short) (s : State) : Out :=
  issue (.svc x) s (fun s =>
    let c := s.cur
    let s := s.enterTrap { code := 0x12, tval := (c.uni (x.imm.getD 0) x.w.a).setWidth 64 } c.nextHdr {} c.svec
    if s.cur.uid == c.uid && !s.cur.ended then s.upd (fun c => { c with priv := true }) else s)

/-- The clause after the instruction of one word at hand, if it does not end there. -/
def Ctx.clauseAfter (c : Ctx) : Clause :=
  if c.clause.pos + 1 < c.clause.count then
    { c.clause with pos := c.clause.pos + 1, win := (none :: c.clause.win).take 8 }
  else {}

/-- The address of the next instruction, or of the next header (R156). -/
def Ctx.pcAfter (c : Ctx) : Word64 :=
  if c.clause.pos + 1 < c.clause.count then c.clause.hdr + word64 (4 * (2 + c.clause.pos)) else c.nextHdr

/-- `brk` (R156): with DBGCTL [0] the group halts after it until DEBUG_RESUME; otherwise trap 0x11. -/
def execBrk (x : Short) (s : State) : Out :=
  issue (.brk x) s (fun s =>
    if s.cur.dbgctl.getLsbD 0 then s.upd (fun c => { c.putNone 1 with halted := true })
    else s.enterTrap { code := 0x11 } s.cur.pcAfter s.cur.clauseAfter s.cur.tvec)

/-- `ill` (R60, R156). -/
def execIll (x : Short) (s : State) : Out := issue (.ill x) s (fun s => s.raise illegalInstruction)

/-- An unassigned word issues and raises illegal-instruction (R62). -/
def execUnassignedOpcode (_w : Word) (s : State) : Out := .next (s.raise illegalInstruction)

/-- CORELOC (R159). -/
def Loc.word (l : Loc) : Word := Sys2Proof.word (l.die % 8 + l.core % 128 * 8 + l.pipe % 8 * 2 ^ 10 + l.slot % 8 * 2 ^ 13)

/-- The bits set in a number below 2^64. -/
def bitCount (x : Nat) : Nat := (List.range 64).foldl (fun n i => n + x / 2 ^ i % 2) 0

/-- VWSIZE of a partition (R159, R384). -/
def Part.vwsize (p : Part) : Nat := 2 ^ 25 * bitCount p.vault

/-- The pipe generator SRSEL selects on the issuing core (R159). -/
def Ctx.srKey (c : Ctx) : Nat := genKey c.loc (c.srsel.toNat % 8)

/-- A system register's value (R159). -/
def State.sysRead (s : State) (n : Nat) : Word64 :=
  let c := s.cur
  let p := s.part (s.team c.team).part
  match n with
  | 0x00 => c.tcause.setWidth 64
  | 0x01 => c.epc
  | 0x02 => c.tvec
  | 0x03 => c.tval
  | 0x04 => c.tlanes.setWidth 64
  | 0x05 => if c.priv then 1 else 0
  | 0x06 => c.loc.word.setWidth 64
  | 0x07 => p.vwbase
  | 0x08 => word64 p.vwsize
  | 0x10 => c.svec
  | 0x11 => c.srsel.setWidth 64
  | 0x12 => s.gen c.srKey
  | 0x13 => c.dbgctl.setWidth 64
  | _ => 0

/-- Writes a system register; reserved bits of SRSEL and DBGCTL are ignored (R159). -/
def State.sysWrite (s : State) (n : Nat) (x : Word64) : State :=
  match n with
  | 0x01 => s.upd (fun c => { c with epc := x })
  | 0x02 => s.upd (fun c => { c with tvec := x })
  | 0x10 => s.upd (fun c => { c with svec := x })
  | 0x11 => s.upd (fun c => { c with srsel := lo32 x &&& 7 })
  | 0x12 => s.setGen s.cur.srKey x
  | 0x13 => s.upd (fun c => { c with dbgctl := lo32 x &&& 1 })
  | _ => s

/-- A supervisor register named at user level (R146, R158). -/
def Ctx.sysDenied (c : Ctx) (n : Nat) : Bool := !c.priv && ((sysReg n).map (·.supervisor)).getD false

/-- `rdsys` (R158). -/
def execRdsys (x : Short) (s : State) : Out :=
  issue (.rdsys x) s (fun s =>
    let n := x.w.b.toByte.toNat
    if s.cur.sysDenied n then s.raise { code := 5, detail := n }
    else
      let v := s.sysRead n
      s.upd (fun c =>
        if ((sysReg n).map (·.wide)).getD false then c.putS64 x.w (Instr.size (.rdsys x)) v
        else c.putS x.w (Instr.size (.rdsys x)) (lo32 v)))

/-- `wrsys` (R158). -/
def execWrsys (x : Short) (s : State) : Out :=
  issue (.wrsys x) s (fun s =>
    let n := x.w.b.toByte.toNat
    if s.cur.sysDenied n then s.raise { code := 5, detail := n }
    else
      let imm := x.imm.getD 0
      let v := if ((sysReg n).map (·.wide)).getD false then s.cur.uni64 imm x.w.a else (s.cur.uni imm x.w.a).setWidth 64
      (s.sysWrite n v).upd (fun c => c.putNone (Instr.size (.wrsys x))))

end Sys2Proof.Machine
end

