-- ==== Sys2Proof/Machine/MemOps.lean ====
section
/-! DEFINITION. The issue of memory instructions and copies, 0x90 to 0xA1 (R139 to R150), and the operations over global
memory that the atomics share (R146, R226, R229, R264, R286, R287). -/

namespace Sys2Proof

def Mem.immW (x : Mem) : Word := x.imm.getD 0

/-- TAG and DIR of `acopy` (R55). -/
def Desc.copyTag (d : Desc) : Nat := d.subop.toNat % 4
def Desc.copyDir (d : Desc) : Nat := d.subop.toNat / 4

end Sys2Proof

namespace Sys2Proof.Machine

/-! ### Operands of memory instructions -/

/-- The bytes of a width (R55). -/
def widthBytes : Width → Nat
  | .b8 => 1 | .b16 => 2 | .b32 => 4 | .b64 => 8 | .b128 => 16 | .b256 => 32

/-- A lane's global address (R140). -/
def Ctx.gaddr (c : Ctx) (x : Mem) (i : Nat) : Word64 := c.src64 x.immW x.w.a i + sext64 (c.src x.immW x.w.b i)

/-- A lane's scratchpad address or vault offset (R140). -/
def Ctx.saddr (c : Ctx) (x : Mem) (i : Nat) : Word := c.src x.immW x.w.a i + c.src x.immW x.w.b i

/-- The bytes a lane's data operand gives (R142). -/
def Ctx.dataOf (c : Ctx) (imm : Word) (y : Src) (n i : Nat) : List Byte :=
  if n ≤ 4 then natLE n (c.src imm y i).toNat
  else if n = 8 then natLE 8 (c.src64 imm y i).toNat
  else match y with
    | .v r => (List.range (n / 4)).flatMap (fun k => natLE 4 (c.vreg (r.toNat + k) i).toNat)
    | _ => []

/-- A trap of the enabled lanes in which a condition holds (R146, R152). -/
def laneTrap (code detail : Nat) (m : Word) (bad : Nat → Bool) (tval : Nat → Word64) : Option Trap :=
  match (lanesOf m).filter bad with
  | [] => none
  | i :: _ => some { code, detail, tval := tval i, lanes := some (m &&& maskOf bad) }

/-- Orders 6 and 7 for global addresses (R140, R141, R146). -/
def globalTrap (m : Word) (addr : Nat → Word64) (aligned : Word64 → Bool) : Option Trap :=
  match laneTrap 6 0 m (fun i => !aligned (addr i)) addr with
  | some t => some t
  | none => laneTrap 7 0 m (fun i => 2 ^ 57 ≤ (addr i).toNat) addr

/-- Orders 6 and 7 for offsets into a space of a size (R140, R141). -/
def spaceTrap (detail : Nat) (m : Word) (addr : Nat → Word) (n size : Nat) : Option Trap :=
  match laneTrap 6 0 m (fun i => (addr i).toNat % n != 0) (fun i => (addr i).setWidth 64) with
  | some t => some t
  | none => laneTrap 7 detail m (fun i => size < (addr i).toNat + n) (fun i => (addr i).setWidth 64)

/-! ### Counters and operations (R136) -/

/-- A counter at its limit: the instruction does not issue (R136). -/
def Ctx.full (c : Ctx) (k : Nat) : Bool := 63 ≤ c.counter k

/-- Starts an operation of the issuing context, counted on its counter. -/
def State.begin (s : State) (ctr : Nat) (counted : Bool) (kind : OpKind) (pieces : List Piece) (bo : Bool) (uses : List Nat) :
    State :=
  let c := s.cur
  let id := s.uids + 1
  let o : Op := { id, uid := c.uid, team := c.team, die := c.loc.die, core := c.loc.core, part := s.partOf c, ctr, counted,
                  kind, lease := modeLease c.mode, pieces, bo, uses }
  let s := { s with uids := id, ops := s.ops ++ [o] }
  if counted then s.upd (fun c => c.setCounter ctr (c.counter ctr + 1)) else s

/-! ### Frames (R264, R287) -/

/-- A lane leaves as a frame (R264 item 5).  DESIGN CHOICE (log 51): a load or atomic of the lane still in flight retires into the
registers of the group it issued in; the frame keeps what the register held. -/
def State.makeFrame (s : State) (c : Ctx) (issue lane : Nat) (w : Await) : State :=
  let mon := s.mons.find? (fun m => m.uid == c.uid && m.row.isNone && m.lane == lane)
  let f : Frame :=
    { issue, team := c.team, wait := w, lane, acq := c.acq, v := (List.range c.acq).map (fun r => c.vreg r lane),
      p := (List.range 8).map (fun n => (c.preg n).getLsbD lane), s := c.s, mode := c.mode, lastwct := c.lastwct,
      clause := c.clause, mon := mon.map (·.id), priv := c.priv, recipe := c.recipe,
      ckpt := c.ckpts.getD lane 0, who := c.whoOf lane, regError := c.regError }
  { s with frames := s.frames ++ [f],
           mons := s.mons.map (fun m => if mon.map (·.id) = some m.id then { m with uid := 0 } else m) }

/-- Lanes leave the issuing group, whose clause ends if its fragment is gone; the group ends when no member is left
(R25). -/
def State.dropLanes (s : State) (m : Word) : State :=
  let gone := s.cur.frag.fmask &&& ~~~m == 0
  let s := s.upd (fun c => (if gone then { c with clause := {}, stall := none } else c).leave m)
  if s.cur.empty then s.endCtx s.cur.uid else s

/-! ### Global accesses -/

/-- The translation of every enabled lane (R286). -/
def State.settle (s : State) (m : Word) (addr : Nat → Word64) (len : Nat) (want : Want) : List (Nat × Word64 × Xl) :=
  let c := s.cur
  (lanesOf m).map (fun i => (i, addr i, s.access (s.mine (addr i).toNat len want) c.failed))

/-- Holds an instruction whose lanes miss: they join a walk, or wait for a walker (R278). -/
def State.holdWalks (s : State) (xs : List (Nat × Word64 × Xl)) (len : Nat) (want : Want) : State :=
  (s.joinWalks ((xs.filter (fun e => e.2.2 = .busy)).map (fun e => s.mine e.2.1.toNat len want))).hold .translation

/-- Makes the requests and starts the gathers of the lanes that wait, and makes them frames (R264, R287); the lanes that
left. -/
def State.waits (s : State) (xs : List (Nat × Word64 × Xl)) (write : Bool) : State × Word :=
  let c := s.cur
  let fn := s.fnOf c
  let issue := s.uids + 1
  xs.foldl (fun (r : State × Word) (i, _, x) =>
    let (s, m) := r
    let bit := maskOf (fun j => j == i)
    match x with
    | .request lvl st2 page =>
      let (s, id) := s.request fn st2 page lvl write false
      (s.makeFrame c issue i (.request id), m ||| bit)
    | .gather page _ => ((s.startGather fn page).makeFrame c issue i (.gather fn page), m ||| bit)
    | _ => (s, m)) ({ s with uids := issue }, 0)

/-- The page of a leaf entry is to be reclassified: a second agent's access or arm is held on it (R226). -/
def State.entryHeld (s : State) (entry : Nat) : Bool :=
  s.ops.any (fun o => o.pieces.any (fun p => p.held = some entry)) || s.mons.any (fun m => m.held = some entry)

/-- One lane's part on a page: an access to a page Private to another core is held (R226) and so is one of the owner while the page is
to be reclassified, the rest goes to the owner's cache, to home, or to the host. -/
def State.part1 (s : State) (i : Nat) (va : Word64) (len : Nat) (l : Leaf) : Piece :=
  let core := coreNo s.cur.loc.die s.cur.loc.core
  let p : Piece := { lane := i, va, key := memKey l.mt l.pa, len, space := if l.mt = 2 then .host else .home, entry := l.entry,
                     moved := s.time, who := s.cur.whoOf i, span := l.bits }
  if l.cls != 1 then p
  else if l.owner = core && !s.entryHeld l.entry then { p with owner := true }
  else { p with held := some l.entry }

/-- A part overlaps a store of its group that is issued and not sent yet (R226, R260), so that no copy of its core has it (R37). -/
def State.behindUnsent (s : State) (uid : Nat) (p : Piece) : Bool :=
  s.ops.any (fun o => o.uid == uid && o.pieces.any (fun q => q.act = .store && q.phase = .sent && q.unsent && overlap q p))

/-- A part as it issues (R227, R229, R231, R233, R243): a load is served at once from a valid copy where its ORD and SCOPE let it and
the copy has its group's own stores (R37, R230); a store or an atomic is sent at once, unless it is held (R226) or waits for its
lane's loop (R260). -/
def State.sendPiece (s : State) (d : Desc) (p : Piece) : State × Piece :=
  let core := coreNo s.cur.loc.die s.cur.loc.core
  if p.owner then (s, { p with install := d.ord != .byp })
  else
    match p.act with
    | .load =>
      let own := d.ord = .weak || (d.ord = .strong && (d.scope = .grp || d.scope = .team) && p.space != .host)
      let hit := (s.copyOf core (lineOf p.key)).filter (fun _ => own && p.held.isNone && !s.behindUnsent s.cur.uid p)
      match hit with
      | some l => (s, { p with got := slice l.data (p.key % 128) p.len, phase := .replied })
      | none => (s, { p with lease := d.ord = .weak })
    | .prefetch =>
      if (s.copyOf core (lineOf p.key)).isSome then (s, { p with phase := .replied }) else (s, { p with lease := true })
    | _ => if p.held.isSome then (s, p) else s.trySend (s.uids + 1) core p

/-- The leaves of the lanes that go on, for the checks of order 10. -/
def okLeaves (xs : List (Nat × Word64 × Xl)) : List (Nat × Word64 × Leaf) :=
  xs.filterMap (fun (i, va, x) => match x with
    | .ok l => some (i, va, l)
    | _ => none)

/-- What one kind of global instruction does: its access, counter, alignment, checks of order 10, its lanes' parts, and
its operation. -/
structure GlobalOp where
  size : Nat
  ctr : Nat
  len : Nat
  want : Want
  aligned : Word64 → Bool
  late : List (Nat × Word64 × Leaf) → Option Trap
  make : Nat → Piece → Piece
  kind : OpKind
  flags : Nat → Word

/-- The issue of a lane-wise global access (R136, R139, R146, R286, R287): orders 6 and 7, the counter's limit, order 9 in
every lane, order 10, the frames of the lanes that wait, and the operation of the others. -/
def State.globalIssue (s : State) (x : Mem) (m : Word) (addr : Nat → Word64) (g : GlobalOp) : Out :=
  if m == 0 then .next (s.upd (fun c => c.putNone g.size))
  else
    match globalTrap m addr g.aligned with
    | some t => .next (s.raise t)
    | none =>
      if s.cur.full g.ctr then .next (s.hold .counter)
      else
        let xs := s.settle m addr g.len g.want
        if xs.any (fun e => e.2.2 = .off) then .next (s.hold .translation)
        else if xs.any (fun e => e.2.2 = .busy) then .next (s.holdWalks xs g.len g.want)
        else match poisonMet xs with
        | some (va, key) => .next (s.killWalk va key)
        | none =>
          match xlTrap xs with
          | some t => .next ((s.upd (fun c => { c with failed := [] })).raise t)
          | none =>
            match g.late (okLeaves xs) with
            | some t => .next (s.raise t)
            | none =>
              let (s, left) := s.waits xs g.want.writes
              let (s, ps) := (okLeaves xs).foldl (fun (r : State × List Piece) (i, va, l) =>
                let (s, p) := r.1.sendPiece x.d (g.make i (r.1.part1 i va g.len l))
                (s, r.2 ++ [p])) (s, [])
              let s := s.begin g.ctr true g.kind ps false []
              let s := s.upd (fun c => { (c.stick (joinFlags (ps.map (fun p => g.flags p.lane)))).putNone g.size with failed := [] })
              .next (if left == 0 then s else s.dropLanes left)

def alignedTo (n : Nat) (a : Word64) : Bool := a.toNat % n = 0

/-- The registers that a vector load writes: none under NOWB, since it has no latch (R31, R32, R45). -/
def loadKind (x : Mem) : OpKind :=
  .load x.w.dst.toNat (if x.w.nowb then 0 else (widthBytes x.d.width + 3) / 4) (widthBytes x.d.width) (x.d.subop = 1) false

/-- `ld` (R139). -/
def execLd (x : Mem) (s : State) : Out :=
  issueOut (.ld x) s (fun s =>
    let c := s.cur
    let n := widthBytes x.d.width
    s.globalIssue x (c.enabledD x.d) (c.gaddr x)
      { size := Instr.size (.ld x), ctr := 0, len := n, want := .load, aligned := alignedTo n, late := fun _ => none,
        make := fun _ p => { p with act := .load }, flags := fun _ => 0,
        kind := loadKind x })

/-- `st` (R139, R143). -/
def execSt (x : Mem) (s : State) : Out :=
  issueOut (.st x) s (fun s =>
    let c := s.cur
    let n := widthBytes x.d.width
    s.globalIssue x (c.enabledD x.d) (c.gaddr x)
      { size := Instr.size (.st x), ctr := 1, len := n, want := .store, aligned := alignedTo n, late := fun _ => none,
        make := fun i p => { p with act := .store, data := c.dataOf x.immW x.d.c n i }, flags := fun _ => 0, kind := .store })

/-! ### Spaces of the team and the quad -/

/-- The issue of a lane-wise access to a scratchpad, vault or operand-buffer space, whose order-9 checks do not arise. -/
def State.spaceIssue (s : State) (size ctr : Nat) (m : Word) (trap : Option Trap) (pieces : State → State × List Piece)
    (kind : OpKind) (uses : List Nat) : State :=
  if m == 0 then s.upd (fun c => c.putNone size)
  else
    match trap with
    | some t => s.raise t
    | none =>
      if s.cur.full ctr then s.hold .counter
      else
        let (s, ps) := pieces s
        (s.begin ctr true kind ps false uses).upd (fun c => c.putNone size)

/-- The scratchpad size of the issuing team (R195). -/
def State.scratchSize (s : State) : Nat := (s.team s.cur.team).kern.scratch

/-- `lds` (R139, R216). -/
def execLds (x : Mem) (s : State) : Out :=
  issue (.lds x) s (fun s =>
    let c := s.cur
    let n := widthBytes x.d.width
    let m := c.enabledD x.d
    s.spaceIssue (Instr.size (.lds x)) 0 m (spaceTrap 1 m (c.saddr x) n s.scratchSize)
      (fun s => (s, (lanesOf m).map (fun i => { lane := i, act := .load, space := .scratch, key := (c.saddr x i).toNat, len := n })))
      (loadKind x) [])

/-- `sts` (R139, R216). -/
def execSts (x : Mem) (s : State) : Out :=
  issue (.sts x) s (fun s =>
    let c := s.cur
    let n := widthBytes x.d.width
    let m := c.enabledD x.d
    s.spaceIssue (Instr.size (.sts x)) 1 m (spaceTrap 1 m (c.saddr x) n s.scratchSize)
      (fun s => (s, (lanesOf m).map (fun i =>
        { lane := i, act := .store, space := .scratch, key := (c.saddr x i).toNat, len := n,
          data := c.dataOf x.immW x.d.c n i })))
      .store [])

/-- The home die of a vault byte (R384). -/
def vaultDie (key : Nat) : Nat := key % 2 ^ 48 / 2 ^ 27 % 8

/-- The parts of a vault access: every vault page is Shared-fixed (R224).  A store into a page of a grid's spill or checkpoint
area, which groups only read (R202, R367), takes no fault (R140) and leaves its bytes as they are (log 48). -/
def State.vaultPieces (s : State) (x : Mem) (m : Word) (n : Nat) (f : Nat → Piece → Piece) : State × List Piece :=
  let c := s.cur
  let part := s.partOf c
  let p := s.part part
  (lanesOf m).foldl (fun (r : State × List Piece) i =>
    let q := f i { lane := i, key := p.vaultKey (c.saddr x i).toNat, len := n, va := p.vwbase + (c.saddr x i).setWidth 64, moved := s.time }
    let (s, q) := if q.act = .store && s.vaultGuarded part q.key then (r.1, { q with phase := .abandoned }) else r.1.sendPiece x.d q
    (s, r.2 ++ [q])) (s, [])

/-- Partition-port for a vault access, after its orders 6 and 7 (R376). -/
def State.vaultPortTrap (s : State) (x : Mem) (m : Word) : Option Trap :=
  let c := s.cur
  let p := s.part (s.partOf c)
  let conn := s.connOf c.loc.die (sliceOfCore c.loc.core)
  let port := fun i =>
    let k := p.vaultKey (c.saddr x i).toNat
    portOf 1 (k % 2 ^ 48) c.loc.die (vaultDie k)
  match (lanesOf m).filter (fun i => !portAllowed conn (port i)) with
  | [] => none
  | i :: is => some { code := 0x35, detail := port i, tval := p.vwbase + (c.saddr x i).setWidth 64,
                      lanes := some (maskOf (fun j => (i :: is).contains j)) }

/-- The traps of a vault access in order. -/
def State.vaultTrap (s : State) (x : Mem) (m : Word) (n : Nat) : Option Trap :=
  match spaceTrap 2 m (s.cur.saddr x) n (s.part (s.partOf s.cur)).vwsize with
  | some t => some t
  | none => s.vaultPortTrap x m

/-- `ldv` (R139, R140). -/
def execLdv (x : Mem) (s : State) : Out :=
  issue (.ldv x) s (fun s =>
    let n := widthBytes x.d.width
    let m := s.cur.enabledD x.d
    s.spaceIssue (Instr.size (.ldv x)) 0 m (s.vaultTrap x m n) (fun s => s.vaultPieces x m n (fun _ p => { p with act := .load }))
      (loadKind x) [])

/-- `stv` (R139, R140). -/
def execStv (x : Mem) (s : State) : Out :=
  issue (.stv x) s (fun s =>
    let c := s.cur
    let n := widthBytes x.d.width
    let m := c.enabledD x.d
    s.spaceIssue (Instr.size (.stv x)) 1 m (s.vaultTrap x m n)
      (fun s => s.vaultPieces x m n (fun i p => { p with act := .store, data := c.dataOf x.immW x.d.c n i })) .store [])

/-! ### Operand-buffer ranges (R145) -/

/-- The quad of a core of a die. -/
def quadNo (die core : Nat) : Nat := 32 * die + core / 4

def State.quad (s : State) (n : Nat) : Quad := Cells.get {} s.quads n
def State.setQuad (s : State) (n : Nat) (q : Quad) : State := { s with quads := Cells.set {} s.quads n q }

/-- The quad of the issuing context. -/
def State.myQuad (s : State) : Nat := quadNo s.cur.loc.die s.cur.loc.core

def Quad.rsvAt (q : Quad) (h : Nat) : Rsv := Cells.get {} q.rsv h

/-- The issue of `obst` and `obld`: the conditions of R145 in the order 6, then 8 of R146.  DESIGN CHOICE (log 52): TVAL of a
misaligned lane is its offset B, before the range is known to be the team's. -/
def State.obIssue (s : State) (x : Mem) (size : Nat) (act : Act) (kind : OpKind) : State :=
  let c := s.cur
  let n := widthBytes x.d.width
  let m := c.enabledD x.d
  let h := (c.uni x.immW x.w.a).toNat
  let r := (s.quad s.myQuad).rsvAt h
  let off := c.src x.immW x.w.b
  let ob := fun detail (bad : Nat → Bool) => laneTrap 0x0B detail m bad (fun _ => word64 h)
  let trap :=
    match laneTrap 6 0 m (fun i => (off i).toNat % n != 0) (fun i => (off i).setWidth 64) with
    | some t => some t
    | none =>
      if 16 ≤ h || r.team != c.team || r.team = 0 then ob 0 (fun _ => true)
      else match ob 1 (fun i => r.len < (off i).toNat + n) with
        | some t => some t
        | none => if r.kind = 2 then ob 2 (fun _ => true) else none
  s.spaceIssue size 6 m trap
    (fun s => (s, (lanesOf m).map (fun i =>
      { lane := i, act, space := .opbuf, key := r.base + (off i).toNat, len := n,
        data := if act = .store then c.dataOf x.immW x.d.c n i else [] })))
    kind [h]

/-- `obst` (R145). -/
def execObst (x : Mem) (s : State) : Out := issue (.obst x) s (fun s => s.obIssue x (Instr.size (.obst x)) .store .store)

/-- `obld` (R145). -/
def execObld (x : Mem) (s : State) : Out :=
  issue (.obld x) s (fun s =>
    s.obIssue x (Instr.size (.obld x)) .load (loadKind x))

/-! ### Uniform loads and prefetches -/

/-- The issue of a group-uniform global access, whose waits hold the group (R286, R287).  DESIGN CHOICE (log 52): for R260 the access
is lane 0's. -/
def State.uniformIssue (s : State) (d : Desc) (size ctr : Nat) (addr : Word64) (len : Nat) (want : Want)
    (make : Piece → Piece) (kind : OpKind) : Out :=
  let c := s.cur
  if addr.toNat % len != 0 then .next (s.raise { code := 6, tval := addr })
  else if 2 ^ 57 ≤ addr.toNat then .next (s.raise { code := 7, tval := addr })
  else if c.full ctr then .next (s.hold .counter)
  else
    match s.access (s.mine addr.toNat len want) c.failed with
    | .ok l =>
      let (s, p) := s.sendPiece d (make (s.part1 0 addr len l))
      .next ((s.begin ctr true kind [p] false []).upd (fun c => { c.putNone size with failed := [] }))
    | x => .next (s.uniformEnd (s.mine addr.toNat len want) x)

/-- `ldsc` (R139). -/
def execLdsc (x : Mem) (s : State) : Out :=
  issueOut (.ldsc x) s (fun s =>
    let c := s.cur
    let n := widthBytes x.d.width
    s.uniformIssue x.d (Instr.size (.ldsc x)) 0 (c.uni64 x.immW x.w.a + sext64 (c.uni x.immW x.w.b)) n .load
      (fun p => { p with act := .load }) (.load x.w.dst.toNat (if x.w.nowb then 0 else n / 4) n false true))

/-- A lane of `pref` (R144): dropped where it would fault, is misaligned or outside; `gath` starts the gather of a Sharded
page, whichever stripe the lane touches; `l1` sends for the line; `llc` moves nothing a program can read.  A lane that waits for
a walk goes on, as `who`, when that has answered (R278).  DESIGN CHOICE (log 56): `llc` and `gath` set A and leave the page's class. -/
def State.prefLane (s : State) (d : Desc) (i : Nat) (va : Word64) (who : Nat) : State × List Piece :=
  let c := s.cur
  let m := { s.mine va.toNat 4 .load with who, toucher := if d.subop = 0 then Toucher.core else .nobody }
  let gath := fun (l : Leaf) => if d.subop = 2 && l.gps = 1 then s.startGather m.fn (va.toNat / 2 ^ l.bits * 2 ^ l.bits) else s
  if va.toNat % 4 != 0 || 2 ^ 57 ≤ va.toNat then (s, [])
  else
    match s.access m [] with
    | .gather _ l => (gath l, [])
    | .ok l =>
      if d.subop = 0 then
        let (s, p) := s.sendPiece d { s.part1 i va 4 l with act := .prefetch }
        (s, if p.phase = .sent then [p] else [])
      else (gath l, [])
    | .busy =>
      let who := 16 * (s.uids + 1) + 11
      let p : Pref := { miss := { m with who }, uid := c.uid, team := c.team, loc := c.loc, mode := c.mode, d, lane := i, va, who := c.whoOf i }
      (State.miss { s with uids := s.uids + 1, prefs := s.prefs ++ [p] } p.miss, [])
    | _ => (s, [])

/-- The parts of a prefetch go out as one operation, where there are any. -/
def State.prefSend (s : State) (ps : List Piece) : State := if ps.isEmpty then s else s.begin 0 false .prefetch ps false []

/-- A prefetch's lane goes on once the walk it waited for has answered (R144, R278): with what its instruction gave it, whoever
issues now. -/
def State.prefServe (s : State) (p : Pref) : State :=
  let c : Ctx := { uid := p.uid, team := p.team, loc := p.loc, mode := p.mode, priv := p.miss.priv, whos := List.replicate 32 p.who }
  let (t, ps) := State.prefLane { s with cur := c } p.d p.lane p.va p.miss.who
  { t.prefSend ps with cur := s.cur }

/-- The prefetches' lanes whose walks have answered go on. -/
def State.prefsGo (s : State) : State :=
  let due := s.prefs.filter (fun p => !s.pending p.miss)
  due.foldl State.prefServe { s with prefs := s.prefs.filter (fun p => s.pending p.miss) }

/-- `pref` (R144). -/
def execPref (x : Mem) (s : State) : Out :=
  issue (.pref x) s (fun s =>
    let (s, ps) := (lanesOf (s.cur.enabledD x.d)).foldl (fun (r : State × List Piece) i =>
      let (s, ps) := r.1.prefLane x.d i (s.cur.gaddr x i) 0
      (s, r.2 ++ ps)) (s, [])
    (s.prefSend ps).upd (fun c => c.putNone (Instr.size (.pref x))))

/-! ### Asynchronous copies (R147 to R150) -/

/-- A lane's copy (R147): DIR 0 `gs`, 1 `sg`, 2 `gg`, 3 `ss`. -/
def Ctx.copyLane (c : Ctx) (x : Mem) (i : Nat) : CopyLane :=
  let off := c.src x.immW x.d.c i
  let n := (c.src x.immW x.d.e i).toNat
  let a32 := c.src x.immW x.w.a i
  let b32 := c.src x.immW x.w.b i
  let glob := fun (y : Src) => c.src64 x.immW y i + off.setWidth 64
  let who := c.whoOf i
  match x.d.copyDir with
  | 0 => { lane := i, who, dst := a32.setWidth 64, src := glob x.w.b, srcGlobal := true, n }
  | 1 => { lane := i, who, dst := glob x.w.a, dstGlobal := true, src := b32.setWidth 64, n }
  | 2 => { lane := i, who, dst := glob x.w.a, dstGlobal := true, src := glob x.w.b, srcGlobal := true, n }
  | _ => { lane := i, who, dst := (a32 + off).setWidth 64, src := (b32 + off).setWidth 64, n }

/-- A range of a copy lies outside its space (R140, R148). -/
def rangeBad (global : Bool) (a len size : Nat) : Bool := if global then 2 ^ 57 < a + len else size < a + len

/-- The traps of `acopy` in the order of R146: the valid count, the destination's alignment, the ranges, destination
before source. -/
def copyTrap (m : Word) (l : Nat → CopyLane) (size : Nat) : Option Trap :=
  match laneTrap 8 0 m (fun i => 32 < (l i).n) (fun i => word64 (l i).n) with
  | some t => some t
  | none =>
    match laneTrap 6 0 m (fun i => (l i).dst.toNat % 32 != 0) (fun i => (l i).dst) with
    | some t => some t
    | none =>
      let dstBad := fun i => rangeBad (l i).dstGlobal (l i).dst.toNat 32 size
      let srcBad := fun i => (l i).n != 0 && rangeBad (l i).srcGlobal (l i).src.toNat (l i).n size
      let bad := fun i => dstBad i || srcBad i
      (laneTrap 7 0 m bad (fun i => if dstBad i then (l i).dst else (l i).src)).map (fun t =>
        let i := ((lanesOf m).filter bad).headD 0
        { t with detail := if (if dstBad i then (l i).dstGlobal else (l i).srcGlobal) then 0 else 1 })

/-- `acopy` (R147 to R149). -/
def execAcopy (x : Mem) (s : State) : Out :=
  issue (.acopy x) s (fun s =>
    let c := s.cur
    let m := c.enabledD x.d
    let ctr := 2 + x.d.copyTag
    if m == 0 then s.upd (fun c => c.putNone (Instr.size (.acopy x)))
    else
      match copyTrap m (c.copyLane x) s.scratchSize with
      | some t => s.raise t
      | none =>
        if c.full ctr then s.hold .counter
        else if fld (s.fn (s.fnOf c)).tctl.toNat 0 0 = 0 && x.d.copyDir != 3 then s.hold .translation
        else (s.begin ctr true (.copy x.d.copyTag ((lanesOf m).map (c.copyLane x)) 0 0) [] false []).upd
          (fun c => c.putNone (Instr.size (.acopy x))))

end Sys2Proof.Machine
end

