-- ==== Sys2Proof/Machine/Atomics.lean ====
section
/-! DEFINITION. The issue of atomics, monitors and fences, 0xB0 to 0xBB (R234, R235, R241 to R263). -/

namespace Sys2Proof.Machine

/-! ### Atomics -/

/-- The conditions of order 10 for an atomic's lane (R261, R262, R263): as CODE and DETAIL. -/
def State.lateConds (s : State) (bin cas128 : Bool) (recordOk : Bool) (l : Leaf) : List (Nat × Nat) :=
  let host := l.mt = 2
  let ao := s.sys.hostatt % 2 = 1
  let cas := s.sys.hostatt / 2 % 2 = 1
  (if bin && !recordOk then [(0x24, 0)] else []) ++ (if !bin && l.gps = 4 then [(0x24, 1)] else [])
    ++ (if host && !ao then [(0x25, 0)] else []) ++ (if host && bin then [(0x25, 1)] else [])
    ++ (if host && cas128 && !cas then [(0x25, 2)] else [])

/-- The trap of order 10: the lowest CODE and DETAIL that a lane meets, with its lanes (R263). -/
def lateTrap (conds : Nat → Leaf → List (Nat × Nat)) (xs : List (Nat × Word64 × Leaf)) : Option Trap :=
  let all := xs.flatMap (fun (i, va, l) => (conds i l).map (fun cd => (i, va, cd)))
  let best := all.foldl (fun (b : Option (Nat × Word64 × Nat × Nat)) t => match b with
    | none => some t
    | some u => if 256 * t.2.2.1 + t.2.2.2 < 256 * u.2.2.1 + u.2.2.2 then some t else b) none
  best.map (fun (_, va, c, d) =>
    { code := c, detail := d, tval := va, lanes := some (maskOf (fun i => all.any (fun t => t.1 == i && t.2.2 == (c, d)))) })

/-- The issue of an atomic of a width in bytes (R242, R243). -/
def atomicOp (i : Instr) (x : Mem) (n : Nat) (dst : Bool) (act : Nat → Ctx → Act) (s : State) : Out :=
  issueOut i s (fun s =>
    let c := s.cur
    s.globalIssue x (c.enabledD x.d) (c.gaddr x)
      { size := i.size, ctr := 7, len := n, want := .atomic, aligned := alignedTo n,
        late := lateTrap (fun _ l => s.lateConds false (n = 16) true l),
        make := fun j p => { p with act := act j c, data := c.dataOf x.immW x.d.c n j, scope := x.d.scope }, flags := fun _ => 0,
        kind := .atomic x.w.dst.toNat (if dst && !x.w.nowb then n / 4 else 0) })

/-- `atom` (R244). -/
def execAtom (x : Mem) : State → Out := atomicOp (.atom x) x (widthBytes x.d.width) true (fun _ _ => .int x.d.subop.toNat)

/-- `ared` (R244). -/
def execAred (x : Mem) : State → Out := atomicOp (.ared x) x (widthBytes x.d.width) false (fun _ _ => .int x.d.subop.toNat)

/-- `afadd` (R245). -/
def execAfadd (x : Mem) : State → Out := atomicOp (.afadd x) x 4 true (fun _ _ => .flt x.d.subop.toNat)

/-- `afred` (R245). -/
def execAfred (x : Mem) : State → Out := atomicOp (.afred x) x 4 false (fun _ _ => .flt x.d.subop.toNat)

/-- A compare and swap of a width in bytes: C compares, E is the new value (R247). -/
def casOp (i : Instr) (x : Mem) (n : Nat) (s : State) : Out :=
  issueOut i s (fun s =>
    let c := s.cur
    s.globalIssue x (c.enabledD x.d) (c.gaddr x)
      { size := i.size, ctr := 7, len := n, want := .atomic, aligned := alignedTo n,
        late := lateTrap (fun _ l => s.lateConds false (n = 16) true l),
        make := fun j p => { p with act := .cas, cmp := c.dataOf x.immW x.d.c n j, data := c.dataOf x.immW x.d.e n j },
        flags := fun _ => 0, kind := .atomic x.w.dst.toNat (if x.w.nowb then 0 else n / 4) })

/-- `cas`, `cas64`, `cas128` (R247). -/
def execCas (x : Mem) : State → Out := casOp (.cas x) x 4
def execCas64 (x : Mem) : State → Out := casOp (.cas64 x) x 8
def execCas128 (x : Mem) : State → Out := casOp (.cas128 x) x 16

/-- The split of a lane's contribution (R246): SUBOP names its format, E its record. -/
def Ctx.binSplitOf (c : Ctx) (x : Mem) (i : Nat) : (Bool × Int × Int × Int) × Word :=
  let f := match x.d.subop.toNat with | 0 => fp32 | 1 => bf16 | _ => fp16
  binSplit f (fmtEmax (c.src x.immW x.d.e i).toNat) (c.src x.immW x.d.c i).toNat

/-- An address is value v of a binned page (R242). -/
def binAligned (a : Word64) : Bool :=
  a.toNat % 8 = 0 && a.toNat % 4096 % 24 = 0 && a.toNat % 4096 ≤ 4056

/-- `abin` (R246): flags of the split at issue, the deltas to home. -/
def execAbin (x : Mem) (s : State) : Out :=
  issueOut (.abin x) s (fun s =>
    let c := s.cur
    s.globalIssue x (c.enabledD x.d) (c.gaddr x)
      { size := Instr.size (.abin x), ctr := 7, len := 24, want := .bin, aligned := binAligned,
        late := lateTrap (fun i l => s.lateConds true false (fmtLegalBin (c.src x.immW x.d.e i).toNat) l),
        make := fun i p =>
          let (nan, d0, d1, d2) := (c.binSplitOf x i).1
          { p with act := .bin nan d0 d1 d2, scope := x.d.scope,
                   binRec := 4 * fmtEmax (c.src x.immW x.d.e i).toNat + x.d.subop.toNat },
        flags := fun i => (c.binSplitOf x i).2, kind := .atomic 0 0 })

/-! ### Monitors (R252 to R256) -/

/-- The home slice of a place: the home die and its memory-side port (R223). -/
def homeSlice (mt pa home : Nat) : Nat := 16 * home + portOf mt pa home home

/-- Arms a lane's monitor: the lane's pending one is disarmed, and the arm is sent; it is an access of a second agent
(R253, R256). -/
def State.arm (s : State) (x : Mem) (i : Nat) (l : Leaf) (n : Nat) : State :=
  let c := s.cur
  let s := s.discardMons (fun m => m.uid == c.uid && m.row.isNone && m.lane == i)
  let id := s.uids + 1
  let cmp := if n = 8 then c.src64 x.immW x.d.c i else (c.src x.immW x.d.c i).setWidth 64
  { s with uids := id,
           mons := s.mons ++ [{ id, team := c.team, uid := c.uid, lane := i, key := memKey l.mt l.pa, len := n,
                                subop := x.d.subop.toNat, cmp, slice := homeSlice l.mt l.pa l.home,
                                held := if l.cls = 1 then some l.entry else none, moved := s.time }] }

/-- `mwait` (R252, R253, R256). -/
def execMwait (x : Mem) (s : State) : Out :=
  issueOut (.mwait x) s (fun s =>
    let c := s.cur
    let n := widthBytes x.d.width
    let m := c.enabledD x.d
    match globalTrap m (c.gaddr x) (alignedTo n) with
    | some t => .next (s.raise t)
    | none =>
      let xs := s.settle m (c.gaddr x) n .mwait
      if xs.any (fun e => e.2.2 = .off) then .next (s.hold .translation)
      else if xs.any (fun e => e.2.2 = .busy) then .next (s.holdWalks xs n .mwait)
      else match poisonMet xs with
      | some (va, key) => .next (s.killWalk va key)
      | none =>
        match xlTrap xs with
        | some t => .next ((s.upd (fun c => { c with failed := [] })).raise t)
        | none =>
          match lateTrap (fun _ l => (if l.mt = 2 then [(0x26, 0)] else []) ++ (if l.gps != 0 then [(0x26, 1)] else []))
              (okLeaves xs) with
          | some t => .next (s.raise t)
          | none =>
            let (s, left) := if m == 0 then (s, 0) else s.waits xs false
            let s := (okLeaves xs).foldl (fun s (i, _, l) => s.arm x i l n) s
            let s := s.upd (fun c => { c.putNone (Instr.size (.mwait x)) with failed := [] })
            .next (if left == 0 then s else s.dropLanes left))

/-- `mclr` (R253). -/
def execMclr (x : Mem) (s : State) : Out :=
  issue (.mclr x) s (fun s =>
    let c := s.cur
    let m := c.enabledD x.d
    (s.discardMons (fun k => k.uid == c.uid && k.row.isNone && m.getLsbD k.lane)).upd
      (fun c => c.putNone (Instr.size (.mclr x))))

/-! ### Fences (R234, R235, R257, R258) -/

/-- The counters ST, CP0 to CP3 and, for a fence, MX read 0. -/
def Ctx.drained (c : Ctx) (mx : Bool) : Bool :=
  ([1, 2, 3, 4, 5] ++ (if mx then [6] else [])).all (fun k => c.counter k == 0)

/-- `fence.rel` at a scope may complete (R234). -/
def State.released (s : State) (scope : Scope) : Bool :=
  let c := s.cur
  match scope with
  | .grp => true
  | .team => c.drained true
  | .cluster | .die | .package => c.drained true && c.lastwct < s.time
  | .shard => c.counter 7 == 0 && c.drained true && c.lastwct < s.time
  | .host => c.drained true && c.lastwct < s.time
    && !(s.ops.any (fun o => o.uid == c.uid && o.pieces.any (fun p => p.space = .host && p.act = .store && p.phase = .sent)))

/-- `fence.acq` at a scope (R235): the core's leased lines are discarded and its outstanding fills not installed (R229). -/
def State.acquire (s : State) (scope : Scope) : State :=
  let core := coreNo s.cur.loc.die s.cur.loc.core
  match scope with
  | .grp | .team => s
  | _ =>
    let goes := fun (l : Line) => l.core == core && !l.priv && (scope = .host || l.line / 2 ^ 41 != 2)
    { s with lines := s.lines.filter (fun l => !goes l),
             ops := s.ops.map (fun o => if o.coreNo == core then
               { o with pieces := o.pieces.map (fun p => if p.lease then { p with install := false } else p) } else o) }

/-- `fence` (R257). -/
def execFence (x : Mem) (s : State) : Out :=
  issue (.fence x) s (fun s =>
    let rel := x.d.subop != 1
    let acq := x.d.subop != 0
    if rel && !s.released x.d.scope then s.hold .fence
    else
      let s := if acq then s.acquire x.d.scope else s
      s.upd (fun c => c.putNone (Instr.size (.fence x))))

/-- A copy of a team that has not retired has written bytes of a range of its scratchpad. -/
def State.copyingInto (s : State) (team lo n : Nat) : Bool :=
  s.ops.any (fun o => o.team == team && (match o.kind with
    | .copy _ ls _ _ => ls.any (fun l => !l.dstGlobal && !l.torn.isEmpty && l.dst.toNat < lo + n && lo < l.dst.toNat + 32)
    | _ => false))

/-- Advances a team's scratchpad generation (R258, R327): every operand-cache entry of an earlier generation is invalid, so
the team's entries go, and what has been written to its `sa` ranges and has retired is fenced (R326). -/
def State.nextGen (s : State) (team : Nat) : State :=
  let t := s.team team
  let s := s.setTeam { t with gen := (t.gen + 1) % 2 ^ 16 }
  let fence := fun (e : Nat × Rsv) => (e.1, if e.2.team = team then { e.2 with unfenced := e.2.unfenced && s.copyingInto team e.2.base e.2.len } else e.2)
  { s with quads := s.quads.map (fun e => (e.1, { e.2 with cache := e.2.cache.filter (·.team != team), rsv := e.2.rsv.map fence })) }

/-- `sfence` (R258). -/
def execSfence (x : Mem) (s : State) : Out :=
  issue (.sfence x) s (fun s =>
    if s.cur.drained false then (s.nextGen s.cur.team).upd (fun c => c.putNone (Instr.size (.sfence x)))
    else s.hold .fence)

end Sys2Proof.Machine
end

