-- ==== Sys2Proof/Decode.lean ====
section
/-! DEFINITION. Decoding (R44, R47, R51 to R60) of a list of words, and the encoder.  Decoding is total: what it does
not accept it rejects by name, and every such word raises illegal-instruction at order 1 of R62. -/

namespace Sys2Proof

/-- Bits `[hi:lo]` of a word, as a number. -/
def bits (w : Word) (hi lo : Nat) : Nat := w.toNat / 2 ^ lo % 2 ^ (hi + 1 - lo)

/-- Bits `[lo+7:lo]` of a word as a byte. -/
def byteAt (w : Word) (lo : Nat) : BitVec 8 := BitVec.ofNat 8 (w.toNat / 2 ^ lo)

/-- Bit `k` of a word. -/
def bitAt (w : Word) (k : Nat) : Bool := w.toNat / 2 ^ k % 2 == 1

/-! ### Field codes -/

def Rnd.ofCode : Nat → Option Rnd
  | 0 => some .mode | 1 => some .rne | 2 => some .rtz | 3 => some .rup | 4 => some .rdn | 5 => some .rna
  | 6 => some .sr | _ => none

def Ty.code : Ty → Nat
  | .dflt => 0 | .f32 => 1 | .f16 => 2 | .bf16 => 3 | .e4m3 => 4 | .e5m2 => 5 | .i8 => 6 | .i16 => 7 | .i32 => 8
  | .i64 => 9 | .n8 => 10 | .n16 => 11 | .n32 => 12 | .n64 => 13 | .bf16x2 => 14 | .f16x2 => 15

def Ty.ofCode : Nat → Ty
  | 0 => .dflt | 1 => .f32 | 2 => .f16 | 3 => .bf16 | 4 => .e4m3 | 5 => .e5m2 | 6 => .i8 | 7 => .i16 | 8 => .i32
  | 9 => .i64 | 10 => .n8 | 11 => .n16 | 12 => .n32 | 13 => .n64 | 14 => .bf16x2 | _ => .f16x2

def Scope.code : Scope → Nat
  | .grp => 0 | .team => 1 | .cluster => 2 | .die => 3 | .package => 4 | .shard => 5 | .host => 6

def Scope.ofCode : Nat → Option Scope
  | 0 => some .grp | 1 => some .team | 2 => some .cluster | 3 => some .die | 4 => some .package | 5 => some .shard
  | 6 => some .host | _ => none

def Width.code : Width → Nat
  | .b32 => 0 | .b8 => 1 | .b16 => 2 | .b64 => 3 | .b128 => 4 | .b256 => 5

def Width.ofCode : Nat → Option Width
  | 0 => some .b32 | 1 => some .b8 | 2 => some .b16 | 3 => some .b64 | 4 => some .b128 | 5 => some .b256 | _ => none

def Ord.code : Ord → Nat
  | .weak => 0 | .strong => 1 | .byp => 2

def Ord.ofCode : Nat → Option Ord
  | 0 => some .weak | 1 => some .strong | 2 => some .byp | _ => none

/-! ### Words and fields -/

/-- The instruction word of R44. -/
def coreWord (op : BitVec 8) (x : Core) : Word :=
  word (op.toNat * 2 ^ 24 + x.nowb.toNat * 2 ^ 23 + x.dst.toNat * 2 ^ 16 + x.a.toByte.toNat * 2 ^ 8
    + x.b.toByte.toNat)

def coreOfWord (w : Word) : Core :=
  { nowb := bitAt w 23, dst := BitVec.ofNat 7 (bits w 22 16), a := Src.ofByte (byteAt w 8), b := Src.ofByte (byteAt w 0) }

/-- The modifier word of R52. -/
def Mods.toWord (m : Mods) : Word :=
  word (m.subop.toNat * 2 ^ 20 + m.ty.code * 2 ^ 16 + m.pneg.toNat * 2 ^ 15 + m.pred.toNat * 2 ^ 12
    + m.sat.toNat * 2 ^ 11 + m.rnd.code * 2 ^ 8 + m.c.toByte.toNat)

/-- RND 7 and nonzero reserved bits are refused (R54). -/
def Mods.ofWord (w : Word) : Option Mods :=
  if bits w 31 24 ≠ 0 then none
  else match Rnd.ofCode (bits w 10 8) with
    | none => none
    | some rnd => some
      { c := Src.ofByte (byteAt w 0), rnd, sat := bitAt w 11, pred := BitVec.ofNat 3 (bits w 14 12),
        pneg := bitAt w 15, ty := Ty.ofCode (bits w 19 16), subop := BitVec.ofNat 4 (bits w 23 20) }

/-- The descriptor word of R55. -/
def Desc.toWord (d : Desc) : Word :=
  word (d.subop.toNat * 2 ^ 28 + d.ord.code * 2 ^ 26 + d.width.code * 2 ^ 23 + d.scope.code * 2 ^ 20
    + d.pneg.toNat * 2 ^ 19 + d.pred.toNat * 2 ^ 16 + d.e.toByte.toNat * 2 ^ 8 + d.c.toByte.toNat)

/-- Reserved SCOPE, WIDTH and ORD codes are refused (R55). -/
def Desc.ofWord (w : Word) : Option Desc :=
  match Scope.ofCode (bits w 22 20), Width.ofCode (bits w 25 23), Ord.ofCode (bits w 27 26) with
  | some scope, some width, some ord => some
    { c := Src.ofByte (byteAt w 0), e := Src.ofByte (byteAt w 8), pred := BitVec.ofNat 3 (bits w 18 16),
      pneg := bitAt w 19, scope, width, ord, subop := BitVec.ofNat 4 (bits w 31 28) }
  | _, _, _ => none

/-! ### Measuring and decoding -/

/-- An instruction word names `imm` in A or B. -/
def wordNamesImm (w : Word) : Bool :=
  byteAt w 8 == 0x8F || (byteAt w 0 == 0x8F && !opLitB (bits w 31 24))

/-- A second word is called for (R60). -/
def opSecond (op : Nat) : Bool := opMods op || opDesc op || opEng op

/-- The number of words of the instruction that starts with `w`, whose next word is `w2` (R51, R60): an unassigned
opcode counts as one word.  DESIGN CHOICE (log 45): a source field that the opcode does not read and that holds 0x8F still counts
an immediate word. -/
def measure (w w2 : Word) : Nat :=
  let op := bits w 31 24
  if !opAssigned op then 1
  else
    1 + (if opSecond op then 1 else 0)
      + (if opImm op || wordNamesImm w || (opMods op && byteAt w2 0 == 0x8F)
            || (opDesc op && (byteAt w2 0 == 0x8F || byteAt w2 8 == 0x8F)) then 1 else 0)

/-- Why a list of words is not an instruction. -/
inductive DecodeError where
  /-- No word is left. -/
  | noWords
  /-- The words end before the instruction does (R40). -/
  | truncated
  /-- A modifier word holds RND 7 or nonzero reserved bits (R54). -/
  | modifier
  /-- A descriptor word holds a reserved code (R55). -/
  | descriptor
  /-- A field holds what the opcode's row does not accept (order 1 of R62). -/
  | refused
  deriving DecidableEq, Repr

/-- What decoding a list of words answers: an instruction and its number of words, or an error. -/
inductive Decoded where
  | ok (i : Instr) (size : Nat)
  | err (e : DecodeError)
  deriving DecidableEq, Repr

/-- The second word of an opcode's form. -/
def secondOf (op : Nat) (w2 : Word) : DecodeError ⊕ Second :=
  if opMods op then
    match Mods.ofWord w2 with
    | some m => .inr (.mods m)
    | none => .inl .modifier
  else if opDesc op then
    match Desc.ofWord w2 with
    | some d => .inr (.desc d)
    | none => .inl .descriptor
  else if opEng op then .inr (.eng w2)
  else .inr .none

/-- The instruction at the head of a list of words, before the acceptance checks. -/
def decodeRaw : List Word → Decoded
  | [] => .err .noWords
  | w :: rest =>
    let op := bits w 31 24
    if !opAssigned op then .ok (.unassignedOpcode w) 1
    else
      let n := measure w (rest.headD 0)
      if rest.length + 1 < n then .err .truncated
      else match secondOf op (rest.headD 0) with
        | .inl e => .err e
        | .inr second =>
          let imm := if n = 1 + (if opSecond op then 1 else 0) then none else some (rest.getD (n - 2) 0)
          match Instr.ofEnc { op := BitVec.ofNat 8 op, w := coreOfWord w, second, imm } with
          | some i => .ok i n
          | none => .err .refused

/-- The instruction at the head of a list of words, if the checks of order 1 that depend on its own words pass. -/
def decode (ws : List Word) : Decoded :=
  match decodeRaw ws with
  | .ok i n => if i.wf then .ok i n else .err .refused
  | .err e => .err e

/-- The second word of an instruction, as words. -/
def Second.words : Second → List Word
  | .none => []
  | .mods m => [m.toWord]
  | .desc d => [d.toWord]
  | .eng d => [d]

/-- The words of an instruction (R51); an event has none. -/
def encode (i : Instr) : List Word :=
  match i.enc with
  | some n => coreWord n.op n.w :: (n.second.words ++ n.imm.toList)
  | none => match i with
    | .unassignedOpcode w => [w]
    | _ => []

/-- The instruction read from the bits of an opcode-table row: the first word is bits [31:0], and the bits from
`nbits` up are zero. -/
def tableWords (nbits w : Nat) : List Word :=
  let x := w % 2 ^ nbits
  [word x, word (x / 2 ^ 32), word (x / 2 ^ 64)]

def decodeTableWord (nbits w : Nat) : Option Instr :=
  match decode (tableWords nbits w) with
  | .ok i _ => some i
  | .err _ => none

end Sys2Proof
end

