-- ==== Sys2Proof/Machine/Fetch.lean ====
section
/-! DEFINITION. Fetching a clause, its checks (R40, R43, R61), its WAIT (R42), and the words of the next instruction
(log 6). -/

namespace Sys2Proof.Machine

/-- The word at a list's byte offset. -/
def wordAtBytes (bs : List Byte) (off : Nat) : Word := word (leNat (slice bs off 4))

/-- The words after the header are filled exactly by instructions that R43 lets stand where they stand: `last` is whether
the clause must end in `susp` (R40, R43). -/
def wordsFit (susp : Bool) : Nat → List Word → Bool
  | 0, ws => ws.isEmpty
  | fuel + 1, ws =>
    match ws with
    | [] => true
    | w :: rest =>
      let n := measure w (rest.headD 0)
      let op := bits w 31 24
      if ws.length < n then false
      else
        let after := ws.drop n
        let isLast := after.isEmpty
        let isSusp := op == 0xD0
        (isLast || !(opEnds op || isSusp)) && (!isLast || (isSusp == susp)) && wordsFit susp fuel after

/-- A class a context may issue (R41, R61). -/
def classOk (k : Kind) (cls : Nat) : Bool :=
  match k with
  | .group => cls != 5 && cls != 7
  | .thread => cls == 0 || cls == 3 || cls == 5

/-- The checks of a header and its words (R61). -/
def headerOk (k : Kind) (h : Word) (ws : List Word) : Bool :=
  bits h 31 28 == 0xA && bits h 27 17 == 0 && bits h 3 0 != 0 && classOk k (bits h 6 4)
    && wordsFit (bitAt h 16) 16 ws

/-- The clause a header opens (R39). -/
def clauseOf (c : Ctx) (pc : Word64) (h : Word) (ws : List Word) : Clause :=
  { isOpen := true, hdr := pc, count := bits h 3 0, cls := bits h 6 4, wait := bits h 14 7, yieldHint := bitAt h 15,
    susp := bitAt h 16, waiting := bits h 14 7 != 0, words := ws, splitv := c.splitvNow }

/-- What the translation of a fetch comes to (R285). -/
def State.fetchX (s : State) (va len : Nat) : Xl := s.access (s.mine va len .fetch) s.cur.failed

/-- A fetch that does not translate: a trap at the header, or a wait (R286, R287). -/
def State.fetchFail (s : State) (va : Nat) (x : Xl) : Out :=
  match x with
  | .ok _ | .gather _ _ => .next (s.hold .translation)
  | x => .next (s.uniformEnd (s.mine va 4 .fetch) x)

/-- The page a byte lies in differs from another's (R270). -/
def samePage (a b : Nat) : Bool := a / 4096 == b / 4096

/-- CLAUSE_FETCH (R61): the fragment's next clause is fetched and checked before anything of it issues.  A PC whose low
bits are not zero names no header (R40).  DESIGN CHOICE (log 45): where the words run onto a second page that does not translate,
that page's fault or wait comes before any check of the header. -/
def State.clauseFetch (s : State) : Out :=
  let c := s.cur
  let pc := c.frag.pc
  let va := pc.toNat
  if va % 4 != 0 then .next (s.raise { code := 1, detail := 0 })
  else if 2 ^ 57 ≤ va then .next (s.raise { code := 7, detail := 0, tval := pc })
  else
    match s.fetchX va 4 with
    | .ok l =>
      let key := memKey l.mt l.pa
      let h := wordAtBytes (s.latest key 4) 0
      let count := bits h 3 0
      let finish := fun (ws : List Word) =>
        if headerOk c.kind h ws then .next (s.upd (fun c => { c with clause := clauseOf c pc h ws, stall := none, failed := [] }))
        else .next (s.raise { code := 1, detail := 0 })
      let sent := fun (va len : Nat) (l : Leaf) (x : Out) => match s.portStop c.loc.die c.loc.core va len l with
        | some (port, a) => s.fetchFail a (.trap 0x35 port)
        | none => x
      let words := fun (bs : List Byte) n => (List.range n).map (fun i => wordAtBytes bs (4 * i))
      if samePage va (va + 4 * count) then
        sent va (4 + 4 * count) l <| finish (words (s.latest (key + 4) (4 * count)) count)
      else
        let va2 := (va / 4096 + 1) * 4096
        match s.fetchX va2 4 with
        | .ok l2 =>
          let n1 := va2 - va - 4
          let bs := s.latest (key + 4) n1 ++ s.latest (memKey l2.mt l2.pa) (4 * count - n1)
          sent va (va2 - va) l <| sent va2 (4 * count - n1) l2 <| finish (words bs count)
        | x => s.fetchFail va2 x
    | x => s.fetchFail va x

/-- CLAUSE_WAIT_PASS (R42, R150): once every counter its WAIT names reads zero the clause issues; an unreported copy error
on a named tag is raised instead, the lowest tag first, at the header. -/
def State.waitPass (s : State) : State :=
  let c := s.cur
  let named := (List.range 8).filter (fun k => c.clause.wait / 2 ^ k % 2 = 1)
  if named.any (fun k => c.waitCounter k != 0) then s.hold .wait
  else
    match named.findSome? c.copyErrDue, named.findSome? c.loadErrDue with
    | some e, _ =>
      let s := s.upd (fun c => { c with copyErrs := c.copyErrs.filter (·.tag != e.tag), clause := {} })
      s.raise { code := 9, detail := e.tag, tval := e.addr, lanes := some e.lanes }
    | none, some e => { s with cur := { s.cur with clause := {} } }.raise (loadErrTrap e)
    | none, none => s.upd (fun c => { c with clause := { c.clause with waiting := false }, stall := none })

/-- CLAUSE_FETCH of the context that issues; it happens at a clause boundary, and not in a group that has ended or is
halted (log 8). -/
def execClauseFetch (s : State) : Out :=
  let c := s.cur
  if c.uid = 0 || c.ended || c.halted || c.clause.isOpen || (c.frags.getD c.fsel none).isNone then .next s
  else s.clauseFetch

/-- CLAUSE_WAIT_PASS of the context that issues. -/
def execClauseWaitPass (s : State) : Out :=
  if s.cur.clause.isOpen && s.cur.clause.waiting then .next s.waitPass else .next s

/-- A control thread may issue the instruction (R310). -/
def threadMay (op : Nat) (i : Instr) : Bool :=
  op = 0x32 || op = 0x33 || [0xC0, 0xC3, 0xC4, 0xC5, 0xCD, 0xCA, 0xC9, 0xD8, 0xD6, 0xD7].contains op
    || (op = 0xC1 && (match i with | .bra x => x.m.subop = 2 || x.m.subop = 3 | _ => false))
    || (0xE0 ≤ op && op < 0xE8) || (0xF0 ≤ op && op < 0xF4)

/-- The instruction about to issue, or nothing where the checks of order 1 of R62 refuse it: the decoder's, the class of
the header, and what a thread may issue (R310). -/
def Ctx.nextInstr (c : Ctx) : Option Instr :=
  let ws := c.clause.words.drop c.clause.pos
  let op := bits (ws.headD 0) 31 24
  match decode ws with
  | .err _ => none
  | .ok (.unassignedOpcode w) _ => some (.unassignedOpcode w)
  | .ok i _ => if i.shape.cls == c.clause.cls && (c.kind = .group || threadMay op i) then some i else none

end Sys2Proof.Machine
end

