-- ==== Sys2Proof/Machine/Tiles.lean ====
section
/-! DEFINITION. Frame tiles: pairs, rows, wakes, spills, loads and flashback (R195, R201 to R211), and the groups that loads
form. -/

namespace Sys2Proof.Machine

/-! ### Points (R177, R183, R184) -/

/-- A recipe entry. -/
def State.recipeAt (s : State) (fn at' : Nat) : Recipe :=
  { code := word64 (s.vreadLE fn at' 8), words := s.vreadLE fn (at' + 8) 2, out := bitsOf (s.vreadLE fn (at' + 16) 16) 128 }

/-- A suspend-point entry, with its recipe from a recipe table. -/
def State.pointAt (s : State) (fn rct at' : Nat) : Point :=
  let g := fun off n => s.vreadLE fn (at' + off) n
  { at' := at', rct, id := g 2 1, flash := g 3 1 % 2 = 1, live := bitsOf (g 0x18 16) 128, thresh := g 5 1, flush := g 8 4, resume := word64 (g 0x10 8),
    recipe := if g 0xC 4 = 0xFFFFFFFF then none else some (s.recipeAt fn (rct + 40 * g 0xC 4)) }

/-- The hardware reads a suspend-point entry, and its recipe: it is a second agent of their pages (R225). -/
def State.pointTouch (s : State) (fn rct at' : Nat) : State :=
  let e := s.vreadLE fn (at' + 0xC) 4
  let s := s.vtouch fn at' 48
  if e = 0xFFFFFFFF then s else s.vtouch fn (rct + 40 * e) 40

/-- A point as its entry now stands: hardware reads it again at suspend and at resume (R177); where the entry no longer
translates, as the dispatcher read it. -/
def State.pointNow (s : State) (t : Team) (p : Point) : Point :=
  let fn := s.fnOfPart t.part
  if p.at' = 0 || (s.keyOf fn p.at').isNone then p else { s.pointAt fn p.rct p.at' with id := p.id }

/-- The read of `pointNow`, where it reads the entry. -/
def State.pointUse (s : State) (t : Team) (p : Point) : State :=
  let fn := s.fnOfPart t.part
  if p.at' = 0 || (s.keyOf fn p.at').isNone then s else s.pointTouch fn p.rct p.at'

/-! ### Pairs and tiles (R201) -/

/-- A point of a kernel (R183). -/
def Kernel.point (k : Kernel) (p : Nat) : Option Point := k.points.find? (·.id == p)

/-- A declared point that an instruction may name, 1 to 31 (R203, R209). -/
def Kernel.named (k : Kernel) (p : Nat) : Option Point := if 1 ≤ p && p ≤ 31 then k.point p else none

/-- The pair of a point. -/
def Team.pair (t : Team) (p : Nat) : Pair := (t.pairs.find? (·.point == p)).getD { point := p, gateClosed := true }

/-- A declared point as its entry now stands (R177). -/
def State.pointOf (s : State) (t : Team) (p : Nat) : Option Point := (t.kern.named p).map (s.pointNow t)

def Team.setPair (t : Team) (q : Pair) : Team :=
  { t with pairs := q :: t.pairs.filter (·.point != q.point) }

/-- A row held in its pair's tile. -/
def Row.tileRow (r : Row) : Option Nat :=
  match r.place with
  | .tile n => some n
  | _ => none

def Team.rowsOf (t : Team) (p : Nat) : List Row := t.rows.filter (·.point == p)

def Team.inTile (t : Team) (p : Nat) : List Row := (t.rowsOf p).filter (·.tileRow.isSome)

/-- The free rows of a pair's tile, ascending. -/
def Team.freeRows (t : Team) (p : Nat) : List Nat :=
  (List.range 64).filter (fun n => (t.inTile p).all (fun r => r.tileRow != some n))

/-- The free slots of a team's spill area, ascending (R207). -/
def Team.freeSpills (t : Team) : List Nat :=
  let used := t.rows.filterMap (fun r => match r.place with | .spill n => some n | _ => none)
  (List.range t.spq).filter (fun n => !used.contains n)

/-- The teams that hold a core's resources. -/
def State.teamsOn (s : State) (die core : Nat) : List Team :=
  s.teams.filter (fun t => !t.out && t.die == die && t.core == core)

/-- The lowest free tile of a core's 32. -/
def State.freeTile (s : State) (die core : Nat) : Option Nat :=
  let used := (s.teamsOn die core).flatMap (fun t => t.pairs.filterMap (·.tile))
  (List.range 32).find? (fun n => !used.contains n)

/-- Rows sorted by write age, oldest first (R202). -/
def byAge (l : List Row) : List Row := sortBy (fun a b => a.age ≤ b.age) l

/-- Woken rows sorted as R202 orders them: wake time, then write age. -/
def byWake (l : List Row) : List Row :=
  sortBy (fun a b => a.wakeTime < b.wakeTime || (a.wakeTime == b.wakeTime && a.age ≤ b.age)) (l.filter (·.woke))

/-! ### Rows in memory (R202) -/

/-- A row's 64-bit header (R202). -/
def Row.header (r : Row) : Nat :=
  1 + r.woke.toNat * 2 + r.mon.toNat * 4 + r.grp % 32 * 2 ^ 8 + r.lane % 32 * 2 ^ 13 + r.point % 32 * 2 ^ 18
    + r.seq % 2 ^ 16 * 2 ^ 24 + r.ckpt % 1024 * 2 ^ 40

/-- The 136 bytes of a spilled row or a checkpoint slot. -/
def rowBytes (header : Nat) (cols : List Word) : List Byte :=
  natLE 8 header ++ (List.range 32).flatMap (fun j => natLE 4 (cols.getD j 0).toNat)

/-- Writes bytes at an offset of a partition's vault window. -/
def State.vaultWrite (s : State) (part off : Nat) (bs : List Byte) : State :=
  let p := s.part part
  if off / 2 ^ 25 = (off + bs.length - 1) / 2 ^ 25 then (s.homeWrite (p.vaultKey off) bs none).1
  else bs.zipIdx.foldl (fun s (b, i) => (s.homeWrite (p.vaultKey (off + i)) [b] none).1) s

/-- Copies a row held outside the tile to its place in vault memory. -/
def State.syncRow (s : State) (t : Team) (r : Row) : State :=
  match r.place with
  | .tile _ => s
  | .spill n => s.vaultWrite t.part (t.spillBase + 136 * n) (rowBytes r.header r.cols)
  | .ckpt n => s.vaultWrite t.part (t.ckptBase + 136 * n) (rowBytes r.header r.cols)

/-- Puts a changed row back under its age and in memory. -/
def State.setRow (s : State) (team : Nat) (r : Row) : State :=
  let t := s.team team
  let t := { t with rows := t.rows.map (fun q => if q.age == r.age then r else q) }
  (s.setTeam t).syncRow t r

/-! ### Waking (R204) -/

/-- Wakes a row at a time; its monitor is disarmed.  A row already woken stays as it is. -/
def State.wakeRow (s : State) (team : Nat) (r : Row) (time : Nat) : State :=
  if r.woke then s
  else
    let s := s.discardMons (fun m => m.team == team && m.row = some r.age && m.phase != .waking && m.phase != .acking)
    s.setRow team { r with woke := true, wakeTime := time }

/-- Wakes several rows at one moment. -/
def State.wakeRows (s : State) (team : Nat) (rs : List Row) : State := rs.foldl (fun s r => s.wakeRow team r s.time) s

/-- The oldest woken row of a pair held outside its tile. -/
def Team.outside (t : Team) (p : Nat) : Option Row := (byWake ((t.rowsOf p).filter (·.tileRow.isNone))).head?

/-- The pair of a core that has no tile and holds the oldest woken row outside any tile, as its team and point (R201). -/
def State.tileNext (s : State) (die core : Nat) : Option (Nat × Nat) :=
  let all := (s.teamsOn die core).flatMap (fun t => (List.range 31).filterMap (fun k =>
    match (t.pair (k + 1)).tile, t.outside (k + 1) with
    | none, some r => some (t.id, k + 1, r)
    | _, _ => none))
  (all.foldl (fun (b : Option (Nat × Nat × Row)) x => match b with
    | none => some x
    | some y => if x.2.2.wakeTime < y.2.2.wakeTime || (x.2.2.wakeTime == y.2.2.wakeTime && x.2.2.age < y.2.2.age) then some x
                else some y) none).map (fun x => (x.1, x.2.1))

/-- A released tile is bound to the pair of R201, where there is one. -/
def State.bindNext (s : State) (die core : Nat) : State :=
  match s.freeTile die core, s.tileNext die core with
  | some k, some (team, p) =>
    let t := s.team team
    s.setTeam (t.setPair { t.pair p with tile := some k })
  | _, _ => s

/-- Releases a tile with no used row whose pair has no row outside it, and binds it where a pair waits for one (R201). -/
def State.releaseTile (s : State) (team p : Nat) : State :=
  let t := s.team team
  if (t.rowsOf p).isEmpty && (t.pair p).tile.isSome then
    (s.setTeam (t.setPair { t.pair p with tile := none, twct := 0 })).bindNext t.die t.core
  else s

/-! ### susp (R203, R207) -/

/-- Moves the 32 oldest sleeping rows of a pair's tile into free spill slots (R207). -/
def State.spill (s : State) (team p : Nat) : State :=
  let t := s.team team
  let rows := (byAge ((t.inTile p).filter (!·.woke))).take 32
  (rows.zip t.freeSpills).foldl (fun s (r, n) => s.setRow team { r with place := .spill n }) s

/-- Where `n` new rows of a pair go: tile rows, after a spill if it needs one, or spill slots where no tile is free; nothing
while `susp` stalls (R201, R203, R207). -/
def State.rowPlaces (s : State) (team p n : Nat) : Option (State × List Place) :=
  let s := s.bindNext (s.team team).die (s.team team).core
  let t := s.team team
  let canSpill := 32 ≤ t.freeSpills.length
  match (t.pair p).tile with
  | some _ =>
    if n ≤ (t.freeRows p).length then some (s, (t.freeRows p).map .tile)
    else if 32 ≤ ((t.inTile p).filter (!·.woke)).length && canSpill then
      let s := s.spill team p
      some (s, ((s.team team).freeRows p).map .tile)
    else none
  | none =>
    match s.freeTile t.die t.core with
    | some k => some (s.setTeam (t.setPair { t.pair p with tile := some k }), (List.range 64).map .tile)
    | none => if canSpill then some (s, t.freeSpills.map .spill) else none

/-- The registers of a live list in a lane, as columns (R201). -/
def Ctx.liveCols (c : Ctx) (live : List Nat) (i : Nat) : List Word := live.map (fun r => c.vreg r i)

/-- Writes one lane's row (R203): its monitor is bound, and it is woken at once where the monitor has fired or the gate is
open (R204, R254, R345). -/
def State.writeRow (s : State) (c : Ctx) (p : Nat) (pt : Point) (i : Nat) (pl : Place) : State :=
  let age := s.uids + 1
  let t := s.team c.team
  let q := t.pair p
  let mon := s.mons.find? (fun m => m.uid == c.uid && m.row.isNone && m.lane == i)
  let r : Row := { point := p, place := pl, mon := mon.isSome, grp := c.grpid, lane := i, seq := q.seq % 2 ^ 16,
                   ckpt := c.ckpts.getD i 0, cols := c.liveCols pt.live i, age, who := c.whoOf i, regError := c.regError && !pt.flash }
  let t := { t.setPair { q with seq := q.seq + 1 } with rows := t.rows ++ [r] }
  let bind := fun (m : Mon) => if mon.map (·.id) = some m.id then { m with row := some age, uid := 0 } else m
  let s : State := { s with uids := age, mons := s.mons.map bind }
  let s := (s.setTeam t).syncRow t r
  if (mon.map (·.fired)).getD false || !q.gateClosed then s.wakeRow c.team r s.time else s

/-! ### Groups formed on a core (R195) -/

/-- The occupied slots of a pipe, one that a launched group shares with an ended one once (log 51). -/
def State.pipeSlots (s : State) (die core pipe : Nat) : List Nat :=
  (((s.onCore die core).filter (·.loc.pipe == pipe)).map (·.loc.slot)).eraseDups

/-- The place of a group on a core by the occupied slots of each pipe: the pipe with the fewest, the lowest of them, and its
lowest free slot (R195). -/
def placeAmong (die core : Nat) (held : Nat → List Nat) : Option Loc :=
  let pipe := (List.range 8).foldl (fun b p => if (held p).length < (held b).length then p else b) 0
  ((List.range 6).find? (fun k => !(held pipe).contains k)).map (fun slot => { die, core, pipe, slot })

/-- The place of a new group on a core (R195). -/
def State.newLoc (s : State) (die core : Nat) : Option Loc := placeAmong die core (s.pipeSlots die core)

/-- The place of a launched group.  Where ended groups that still drain hold every slot, it takes one of theirs, which R372 counts
as free (log 51). -/
def State.launchLoc (s : State) (die core : Nat) : Option Loc :=
  let going := fun (pipe : Nat) => (((s.onCore die core).filter (fun c => !c.ended && c.loc.pipe == pipe)).map (·.loc.slot))
  (s.newLoc die core).orElse (fun _ => placeAmong die core going)

/-- The team index of a new group (R195).  DESIGN CHOICE (log 51): a group that has ended and still drains holds its index until
its slot is freed. -/
def State.newGrpid (s : State) (team : Nat) : Option Nat :=
  (List.range 32).find? (fun g => (s.ctxs.filter (fun c => c.kind = .group && c.team == team)).all (·.grpid != g))

/-- The launch's acquired count (R29). -/
def Kernel.acq (k : Kernel) : Nat := 32 + 16 * k.regblk

/-- The scalar registers at launch: argument words from s0 (R27). -/
def argRegs (args : List Word) (n : Nat) : Cells Word := Cells.setMany 0 [] 0 (args.take n)

/-- A group of a team as every creation starts it (R27, R159, R206): `frag` is its one fragment. -/
def State.freshGroup (s : State) (t : Team) (grpid acq : Nat) (loc : Loc) (f : Frag) : Ctx :=
  { uid := s.uids + 1, kind := .group, team := t.id, grpid, teamid := t.teamid, clusid := t.clusid, ngrp := t.kern.groups, loc,
    acq, s := argRegs t.args 64, mode := 0x31, frags := some f :: List.replicate 7 none, joins := List.replicate 8 none,
    tvec := t.kern.trapvec, priv := t.priv, svec := (s.part t.part).psvec, born := s.uids + 1 }

/-- A new context joins the package; it issues when its turn comes. -/
def State.addCtx (s : State) (c : Ctx) : State :=
  let s := { s with uids := max s.uids c.uid }
  if s.cur.uid = 0 then { s with cur := c } else { s with others := s.others ++ [c] }

/-! ### Loads (R205, R206) -/

/-- WAKET of a pair's tile: the wake time of its oldest woken row (R205). -/
def Team.waket (t : Team) (p : Nat) : Option Nat := ((byWake (t.inTile p)).head?).map (·.wakeTime)

/-- Why each fragment of a context has not issued: the one that issues, and the others. -/
def Ctx.stalls (c : Ctx) : List Stall :=
  c.stall.toList ++ c.frags.zipIdx.filterMap (fun (o, k) => if k == c.fsel then none else o.bind (·.stall))

/-- The rows that the stalled `susp`s of a pair need, those that enough rows are free for by now among them (R207). -/
def State.suspNeeds (s : State) (team p : Nat) : Nat :=
  (s.ctxs.filter (·.team == team)).foldl (fun k c => c.stalls.foldl (fun k w => match w with
    | .susp q n => if q == p && q != 0 then k + n else k
    | _ => k) k) 0

/-- A `susp` of a group of the team is stalled on the pair for rows that it still lacks. -/
def State.suspStalled (s : State) (team p : Nat) : Bool :=
  s.ctxs.any (fun c => c.team == team && c.stalls.any (fun w => match w with
    | .susp q n => q == p && q != 0 && (s.rowPlaces team p n).isNone
    | _ => false))

/-- A load of a tile is due (R205), by the point's THRESH and FLUSH as they now stand (R177). -/
def State.loadDue (s : State) (t : Team) (p : Nat) : Bool :=
  let woken := ((t.inTile p).filter (·.woke)).length
  let q := t.pair p
  let pt := s.pointOf t p
  woken != 0 && (q.thresh.getD ((pt.map (·.thresh)).getD 32) ≤ woken || q.flushDue || s.suspStalled t.id p ||
    (match t.waket p with
     | some w => w + (pt.map (·.flush)).getD 8192 ≤ s.time
     | none => false))

/-- The woken point-0 rows of a launch index (R206). -/
def Team.zeroRows (t : Team) (grp : Nat) : List Row := t.rows.filter (fun r => r.point = 0 && r.woke && r.grp == grp)

/-- The wake times of the loads due on a core, with their team and point; point-0 loads count their earliest (R205). -/
def State.dueTimes (s : State) (die core : Nat) : List Nat :=
  (s.teamsOn die core).flatMap (fun t =>
    ((List.range 31).filterMap (fun k => if s.loadDue t (k + 1) then t.waket (k + 1) else none))
      ++ (t.rows.filter (fun r => r.point = 0 && r.woke)).map (·.wakeTime))

/-- No due load of the core has an earlier wake time. -/
def State.loadFirst (s : State) (t : Team) (w : Nat) : Bool := (s.dueTimes t.die t.core).all (fun x => w ≤ x)

/-- The acquired count of a group loaded at a point: raised in blocks of 16 to cover LIVE and OUT (R206). -/
def Kernel.loadAcq (k : Kernel) (p : Point) : Nat :=
  let top := (p.live ++ ((p.recipe.map (·.out)).getD [])).foldl (fun m r => max m (r + 1)) 0
  max k.acq (32 + (top - 32 + 15) / 16 * 16)

/-- The recipe a loaded group runs first, and its PC (R172, R206). -/
def Point.start (p : Point) : Word64 × Option RecipeRun :=
  match p.recipe with
  | some r => (r.code, some { stop := r.code + word64 (4 * r.words), resume := p.resume })
  | none => (p.resume, none)

/-- The mask of the first n lanes. -/
def lowMask (n : Nat) : Word := maskOf (fun i => i < n)

/-- Copies the rows a load took from a flashback point into their lanes' checkpoint slots (R210). -/
def State.checkpoint (s : State) (team : Nat) (rows : List Row) : State :=
  rows.foldl (fun s r =>
    let t := s.team team
    let k : Ckpt := { point := r.point, grp := r.grp, lane := r.lane, seq := r.seq, cols := r.cols }
    let t := { t with ckpts := t.ckpts.set r.ckpt k }
    (s.setTeam t).vaultWrite t.part (t.ckptBase + 136 * r.ckpt) (rowBytes r.header r.cols)) s

/-- A lane is killed by the uncorrectable error of its frame row, which is logged (R391, R392). -/
def State.killLane (s : State) (team : Nat) : State :=
  let t := s.team team
  let s := s.reportEnd t 0x12 (word (0x36 + 3 * 2 ^ 16 + t.priv.toNat * 2 ^ 24)) 0
  ((s.found 3 0).partEvent t.part 6 0).abandon team

/-- The group that a load forms is added, but for the lanes that an error in their rows kills (R391): it has no other state where
that leaves none. -/
def State.addLoaded (s : State) (c : Ctx) (dead : Word) : State :=
  let s := (lanesOf dead).foldl (fun s _ => s.killLane c.team) s
  let f := c.frag
  if f.fmask &&& ~~~dead == 0 then s else s.addCtx (c.setFrag { f with fmask := f.fmask &&& ~~~dead, amask := f.amask &&& ~~~dead })

/-- A load takes rows from a pair: they are freed with their monitors, and lane k of the new group receives the k-th
(R205, R206). -/
def State.takeRows (s : State) (t : Team) (p : Point) (rows : List Row) (loc : Loc) (grpid : Nat) : State :=
  let n := rows.length
  let (pc, recipe) := p.start
  let c := s.freshGroup t grpid (t.kern.loadAcq p) loc { pc, fmask := lowMask n, amask := lowMask n }
  let v := (p.live.zipIdx).foldl (fun v (r, j) =>
    Cells.setMany 0 v (32 * r) (rows.map (fun row => row.cols.getD j 0))) ([] : Cells Word)
  let q := t.pair p.id
  let lw := rows.foldl (fun m r => max m r.lwct) q.twct
  let c := { c with v, recipe, lastwct := lw, ckpts := rows.map (·.ckpt), whos := rows.map (·.who), regError := rows.any (·.regError) }
  let gone := fun (r : Row) => rows.any (fun x => x.age == r.age)
  let s := s.discardMons (fun m => m.team == t.id && (match m.row with | some a => rows.any (fun x => x.age == a) | none => false))
  let s := s.setTeam { t.setPair { q with flushDue := false } with rows := t.rows.filter (fun r => !gone r) }
  let s := if p.flash then s.checkpoint t.id rows else s
  (s.releaseTile t.id p.id).addLoaded c (maskOf (fun i => (rows[i]?).any (·.bad)))

/-- A tile load, where its resources are free (R205, R206). -/
def State.tileLoad (s : State) (team p : Nat) : State :=
  let t := s.team team
  match t.kern.named p, t.waket p, s.newLoc t.die t.core, s.newGrpid team with
  | some pt0, some w, some loc, some g =>
    let pt := s.pointNow t pt0
    if !t.out && s.loadDue t p && s.loadFirst t w && unitsOf (t.kern.loadAcq pt) ≤ s.freeUnits t.die t.core then
      let rows := (sortBy (fun a b => (a.tileRow.getD 0) ≤ (b.tileRow.getD 0)) ((t.inTile p).filter (·.woke))).take 32
      (s.pointUse t pt0).takeRows t pt rows loc g
    else s
  | _, _, _, _ => s

/-- A load of the woken point-0 rows of a launch index (R206): the group starts as its launch started it, its lanes where
their launch had them. -/
def State.zeroLoad (s : State) (team grp : Nat) : State :=
  let t := s.team team
  let rows := t.zeroRows grp
  let free := (s.ctxs.filter (fun c => c.kind = .group && c.team == team)).all (·.grpid != grp)
  match rows.head?, s.newLoc t.die t.core with
  | some r, some loc =>
    let w := rows.foldl (fun m x => min m x.wakeTime) r.wakeTime
    if !t.out && free && s.loadFirst t w && unitsOf t.kern.acq ≤ s.freeUnits t.die t.core then
      let m := maskOf (fun i => rows.any (fun x => x.lane == i))
      let c := s.freshGroup t grp t.kern.acq loc { pc := t.kern.entry, fmask := m, amask := m }
      let whos := lanes.map (fun i => ((rows.find? (·.lane == i)).map (·.who)).getD 0)
      let c := { c with lastwct := rows.foldl (fun m x => max m x.lwct) 0, ckpts := lanes.map (fun i => 32 * grp + i), whos, regError := rows.any (·.regError) }
      (s.setTeam { t with rows := t.rows.filter (fun x => !(x.point = 0 && x.woke && x.grp == grp)) }).addLoaded c
        (maskOf (fun i => rows.any (fun x => x.bad && x.lane == i)))
    else s
  | _, _ => s

/-! ### Returns (R201, R207) -/

/-- The oldest woken row of a pair outside its tile moves into the lowest free row that no stalled `susp` needs (R207).  DESIGN
CHOICE (log 51): the slot that it leaves, like a checkpoint slot that a load took from, keeps in vault memory the bytes it had. -/
def State.rowReturn (s : State) (team p : Nat) : State :=
  let t := s.team team
  match t.outside p with
  | none => s
  | some r =>
    if t.out || p = 0 then s
    else
      match (t.pair p).tile with
      | some _ =>
        match t.freeRows p with
        | n :: _ => if (t.freeRows p).length ≤ s.suspNeeds team p then s else s.setRow team { r with place := .tile n }
        | [] => s
      | none =>
        match s.freeTile t.die t.core with
        | some k =>
          if s.tileNext t.die t.core = some (team, p) && s.suspNeeds team p < 64 then
            (s.setTeam (t.setPair { t.pair p with tile := some k })).setRow team { r with place := .tile 0 }
          else s
        | none => s

/-! ### Flashback (R211) -/

/-- A lane becomes a woken row of the point its checkpoint slot records, held in that slot (R211).  DESIGN CHOICE (log 51): the row
keeps the GRP, LANE and SEQ that the slot holds. -/
def State.flashLane (s : State) (c : Ctx) (i : Nat) : State :=
  let t := s.team c.team
  let slot := c.ckpts.getD i 0
  let k := t.ckpts.getD slot {}
  let age := s.uids + 1
  let r : Row := { point := k.point, place := .ckpt slot, woke := true, wakeTime := s.time, grp := k.grp, lane := k.lane,
                   seq := k.seq, ckpt := slot, cols := k.cols, age, lwct := c.lastwct, who := c.whoOf i, regError := c.regError }
  let t := { t with rows := t.rows ++ [r] }
  ({ s with uids := age }.setTeam t).syncRow t r

/-- The members of a group, active or idle. -/
def Ctx.members (c : Ctx) : Word :=
  c.joins.foldl (fun m o => match o with | some r => m ||| r.jarr | none => m)
    (c.frags.foldl (fun m o => match o with | some f => m ||| f.fmask | none => m) 0)

/-- The hardware reads the suspend-point entries of the points that a group's lanes are flashed back to (R177, R225). -/
def State.flashReads (s : State) (c : Ctx) : State :=
  let t := s.team c.team
  let used := fun (p : Point) => (lanesOf c.members).any (fun i => (t.ckpts.getD (c.ckpts.getD i 0) {}).point == p.id)
  (t.kern.points.filter used).foldl (fun s p => if p.at' = 0 then s else s.vtouch (s.fnOfPart t.part) p.at' 48) s

/-- A group is flashed back (R211): its members become rows, its pending monitors go, and it ends. -/
def State.flashback (s : State) (uid : Nat) : State :=
  match s.ctx uid with
  | none => s
  | some c =>
    if c.kind = .thread || c.ended then s
    else ((lanesOf c.members).foldl (fun s i => s.flashLane c i) (s.flashReads c)).endCtx uid

end Sys2Proof.Machine
end

