-- ==== Sys2Proof/Machine/HomeEvents.lean ====
section
/-! DEFINITION. What happens to operations in flight: loads, stores and atomics at home and over the host link, copies,
monitors, retirement, reclassification and home migration (R136, R148, R150, R226 to R239, R243 to R260).  An event names
its operation in `x` and its lane in `y` of State.args; one that is not possible changes nothing (log 8). -/

namespace Sys2Proof.Machine

/-! ### Order (R37, R231, R239) -/

def Act.isSync : Act → Bool
  | .load | .store => true
  | _ => false

/-- A part waits for an older one that is not yet performed: a load and a store of its group on one byte (R37; two loads of one byte
wait for nothing, strong, bypassing or of a space of the core's own too: DESIGN CHOICE, log 57), an earlier
store of its core to the line (R231), an earlier store of its group to the host (R239), and its lane's loop on those bytes
of the host, whichever group the lane is in by now (R260). -/
def mustFollow (o : Op) (p : Piece) (o' : Op) (q : Piece) : Bool :=
  q.phase = .sent && (o'.id < o.id || (o'.id == o.id && q.lane < p.lane)) &&
    ((o'.uid == o.uid && p.act.isSync && q.act.isSync && (p.act = .store || q.act = .store)
        && (p.space == q.space || (p.space.isMain && q.space.isMain)) && overlap p q)
     || (p.act = .store && q.act = .store && o'.coreNo == o.coreNo && p.space.isMain && q.space.isMain
        && lineOf p.key == lineOf q.key)
     || (p.act = .store && q.act = .store && o'.uid == o.uid && p.space = .host && q.space = .host)
     || (looping q && q.who == p.who && overlap p q))

/-- A home slice holds as many armed monitors as it can (R253). -/
def State.monsFull (s : State) (slice : Nat) : Bool :=
  16384 ≤ (s.mons.filter (fun k => k.phase = .armed && k.slice == slice)).length

/-- An arm that its core sent before a store to the line is on its way to its home slice, which the store reaches after it (R191
needs that order; log 54). -/
def State.armFirst (s : State) (o : Op) (p : Piece) : Bool :=
  p.act = .store && p.space.isMain && s.mons.any (fun m =>
    m.phase = .arming && m.id < o.id && coreNo (s.team m.team).die (s.team m.team).core == o.coreNo && lineOf m.key == lineOf p.key
      && (m.held.isSome || !s.monsFull m.slice))

/-- A part may be performed now, which is later than it was sent (R228). -/
def State.mayPerform (s : State) (o : Op) (p : Piece) : Bool :=
  p.phase = .sent && p.held.isNone && !p.late && p.moved != s.time && !s.armFirst o p
    && !(s.ops.any (fun o' => o'.pieces.any (mustFollow o p o')))

/-! ### Parts of an access (R141) -/

/-- The aligned 8-byte part of a 16-byte or 32-byte access that the event performs alone (R141): the first of `nats`, where
it is not performed yet and another part remains. -/
def State.tornPart (s : State) (p : Piece) : Option Nat :=
  match s.args.nats with
  | k :: _ => if 16 ≤ p.len && k < p.len / 8 && !p.torn.contains k && p.torn.length + 1 < p.len / 8 then some k else none
  | [] => none

/-- The bytes of a range that a store in flight writes, laid over them. -/
def laidOver (key : Nat) (bs : List Byte) (q : Piece) : List Byte :=
  bs.zipIdx.map (fun (b, i) => if q.key ≤ key + i && key + i < q.key + q.data.length then q.data.getD (key + i - q.key) 0 else b)

/-- Bytes of a team's scratchpad as a load of the operation `o` finds them: those of the latest store that has retired, or of a
store of another group that is in flight (R216), which `stripes` names by its operation and lanes. -/
def State.scratchBytes (s : State) (o : Op) (p : Piece) : List Byte :=
  s.args.stripes.foldl (fun bs (id, ls) => match s.op id with
    | some o' =>
      if o'.team == o.team && o'.uid != o.uid then
        (o'.pieces.filter (fun q => q.act = .store && q.phase = .sent && q.space = .scratch && ls.any (·.toNat == q.lane))).foldl
          (laidOver p.key) bs
      else bs
    | none => bs) ((s.team o.team).bytes p.key p.len)

/-- Bytes of a scratchpad or of a quad's operand buffer. -/
def State.spaceBytes (s : State) (o : Op) (p : Piece) : List Byte :=
  match p.space with
  | .scratch => s.scratchBytes o p
  | _ => Cells.getMany 0 (s.quad (quadNo o.die o.core)).obuf p.key p.len

/-- Bytes of a team's scratchpad are about to be written: those in its `sa` ranges are kept as values held since the reservation,
the ranges are not fenced, and passes over them that are queued race the write (R326). -/
def State.noteSa (s : State) (t : Team) (off n : Nat) : State :=
  let k := quadNo t.die t.core
  let q := s.quad k
  let hit := fun (r : Rsv) => r.team = t.id && r.kind = 2 && r.base < off + n && off < r.base + r.len
  if !q.rsv.any (fun e => hit e.2) then s
  else
    let lost := fun (r : Rsv) => ((List.range n).filter (fun i => r.base ≤ off + i && off + i < r.base + r.len)).map
      (fun i => (off + i - r.base, Cells.get 0 t.scratch (off + i)))
    let note := fun (e : Nat × Rsv) =>
      (e.1, if hit e.2 then { e.2 with old := e.2.old ++ (lost e.2).filter (fun x => !e.2.old.contains x), unfenced := true } else e.2)
    let race := fun (m : Cmd) => if m.team = t.id && m.pass && hit (q.rsvAt m.handle) then { m with raced := true } else m
    s.setQuad k { q with rsv := q.rsv.map note, queue := q.queue.map race }

/-- Writes bytes of a team's scratchpad. -/
def State.scratchWrite (s : State) (team off : Nat) (bs : List Byte) : State :=
  let t := s.team team
  (s.noteSa t off bs.length).setTeam (t.write off bs)

/-- Bytes of the operand buffer are about to be written: the pass that the array performs may still read those it held (R328). -/
def Quad.noteObuf (q : Quad) (off n : Nat) : Quad :=
  let lost := (List.range n).map (fun i => (off + i, Cells.get 0 q.obuf (off + i)))
  { q with queue := q.queue.map (fun m =>
      if q.running = some m.op && m.pass then { m with old := m.old ++ lost.filter (fun x => !m.old.contains x) } else m) }

/-- Writes bytes of a scratchpad or of a quad's operand buffer; an ended team's are gone (R331). -/
def State.spaceWrite (s : State) (o : Op) (p : Piece) : State :=
  match p.space with
  | .scratch => s.scratchWrite o.team p.key p.data
  | _ =>
    let n := quadNo o.die o.core
    let q := (s.quad n).noteObuf p.key p.data.length
    s.setQuad n { q with obuf := Cells.setMany 0 q.obuf p.key p.data }

/-- The parts of a store that remain, performed in its space. -/
def State.spaceRest (s : State) (o : Op) (p : Piece) : State :=
  p.rest.foldl (fun s (k, bs) => s.spaceWrite o { p with key := k, data := bs }) s

/-- One part of a load read by itself: in the owner's cache, at home or over the link, or in a space of the core's own. -/
def State.loadPart (s : State) (o : Op) (p : Piece) (k : Nat) : State :=
  let (s, bs) :=
    if p.owner then s.ownerRead o.coreNo p.entry (p.key + 8 * k) 8 p.install
    else if p.space.isMain then (s, s.readBytes (p.key + 8 * k) 8)
    else (s, s.spaceBytes o { p with key := p.key + 8 * k, len := 8 })
  let got := if p.torn.isEmpty then List.replicate p.len 0 else p.got
  let bad := p.space.isMain && s.poisoned (p.key + 8 * k) 8
  (if bad then s.noteBad o p 1 else s).setOp
    (o.setPiece { p with got := patch got (8 * k) bs, torn := k :: p.torn, poisoned := p.poisoned || bad })

/-- A load that its core's copy of the line has served reads one part of it once more, at its time of issue (R230), where no later
store of its group has touched it: the parts of one access need not be one read of the copy (R141). -/
def State.partAgain (s : State) (o : Op) (p : Piece) : State :=
  match s.args.nats, s.copyOf o.coreNo (lineOf p.key) with
  | k :: _, some l =>
    let after := s.ops.any (fun o' => o'.uid == o.uid && o.id < o'.id && o'.pieces.any (fun q => q.act != .load && overlap q p))
    if p.moved = s.time && p.act = .load && p.phase = .replied && p.fill.isEmpty && !p.owner && p.space.isMain && 16 ≤ p.len && k < p.len / 8 && !after
    then s.setOp (o.setPiece { p with got := patch p.got (8 * k) (slice l.data ((p.key + 8 * k) % 128) 8) })
    else s
  | _, _ => s

/-! ### Loads (R229, R230, R239) -/

/-- A line's bytes with the stores laid over them that some operations have sent and that are not performed: those of their
parts in main memory that a test picks. -/
def State.sentOver (s : State) (ops : Op → Bool) (parts : Piece → Bool) (key : Nat) (line : List Byte) : List Byte :=
  ((s.ops.filter ops).flatMap (·.pieces)).foldl (fun (l : List Byte) (q : Piece) =>
    if q.act = .store && q.phase = .sent && q.space.isMain && parts q && lineOf q.key == lineOf key
    then q.rest.foldl (fun l (k, bs) => patch l (k % 128) bs) l else l) line

/-- The home line as it fills a core's cache, with the stores that the core has sent (R229). -/
def State.fillLine (s : State) (core key : Nat) : List Byte :=
  s.sentOver (fun o => o.coreNo == core) (fun q => !q.owner && !q.unsent) key (s.homeLine key)

/-- Bytes at an offset of a line whose other bytes do not matter. -/
def padLine (off : Nat) (bs : List Byte) : List Byte := patch (List.replicate 128 0) off bs

/-- A load performed at home, which grants a lease for a weak one (R229); poison is not installed (R391). -/
def State.homeLoad (s : State) (o : Op) (p : Piece) : State :=
  let e := s.time + 32 * 2 ^ o.lease
  let poisoned := p.poisoned || s.poisoned p.key p.len
  let bad := s.poisoned (lineOf p.key * 128) 128
  let p' := { p with got := p.keepTorn (s.readBytes p.key p.len), fill := s.fillLine o.coreNo p.key, phase := .performed, expiry := e, poisoned,
                     install := p.install && !bad }
  let s := if p.lease then s.grant (lineOf p.key) e else s
  let s := if poisoned then s.noteBad o p 1 else s
  s.putPiece o p'

/-- A prefetch whose lines have all come is done. -/
def State.prefetchDone (s : State) (id : Nat) : State :=
  match s.op id with
  | some o => if o.kind = .prefetch && o.pieces.all (fun p => p.phase = .replied || p.phase = .abandoned)
              then { s with ops := s.ops.filter (·.id != id) } else s
  | none => s

/-- A lane of an operation and its part, as the event names them. -/
def State.named (s : State) : Option (Op × Piece) :=
  (s.op s.args.x).bind (fun o => (o.piece s.args.y).map (fun p => (o, p)))

/-- HOME_LOAD_PERFORM (R230); one 8-byte part alone where `nats` names it (R141). -/
def execHomeLoadPerform (s : State) : Out :=
  .next (match s.named with
    | some (o, p) =>
      if p.act.isLoad && p.phase = .replied then s.partAgain o p
      else if !p.act.isLoad || p.space = .host || !s.mayPerform o p then s
      else
        match s.tornPart p with
        | some k => s.loadPart o p k
        | none =>
          if p.owner then (s.performOwned o p).prefetchDone o.id
          else if p.space = .home then s.homeLoad o p
          else s.putPiece o { p with got := p.keepTorn (s.spaceBytes o p), phase := .replied }
    | none => s)

/-- Installs a reply's line under its lease, unless a fence came between (R229). -/
def State.installReply (s : State) (o : Op) (p : Piece) : State :=
  if p.lease && p.install then s.install { core := o.coreNo, line := lineOf p.key, data := p.fill, expiry := p.expiry } else s

/-- LOAD_REPLY (R229). -/
def execLoadReply (s : State) : Out :=
  .next (match s.named with
    | some (o, p) =>
      if p.act.isLoad && p.phase = .performed && p.moved != s.time then
        ((s.installReply o p).putPiece o { p with phase := .replied }).prefetchDone o.id
      else s
    | none => s)

/-- A host access that ends in an error or by timeout (R391). -/
def State.hostFailed (s : State) (o : Op) (p : Piece) : State :=
  (s.noteBad o p 4).putPiece o { p with phase := .replied, hostErr := true }

/-- A lane's loop has ended: its stores and atomics that waited for that are sent (R231, R243, R260). -/
def State.sendLate (s : State) (who : Nat) : State :=
  s.sendDue (fun p => p.late && p.who == who)

/-- HOST_READ_COMPLETION (R239, R260, R391): a load takes its line at once under its lease; the loop of an atomic takes its
first value; `ok` false is a completion with an error; with `nats` a load reads one 8-byte part (R141). -/
def execHostReadCompletion (s : State) : Out :=
  .next (match s.named with
    | some (o, p) =>
      if p.space != .host || !s.mayPerform o p then s
      else if p.act.isLoad then
        if !s.args.ok then (s.hostFailed o p).prefetchDone o.id
        else match s.tornPart p with
        | some k => s.loadPart o p k
        | none =>
            let s := s.homeLoad o p
            match s.named with
            | some (o, p) => ((s.installReply o p).putPiece o { p with phase := .replied }).prefetchDone o.id
            | none => s
      else if p.act.isAtomic && !p.looped then
        if s.args.ok then s.putPiece o { p with got := s.readBytes p.key p.len, looped := true } else (s.hostFailed o p).sendLate p.who
      else s
    | none => s)

/-! ### Stores (R231) -/

/-- A store performed at home or on the host link: its WCT, and the wakes it caused (R231, R239, R255). -/
def State.homeStore (s : State) (o : Op) (p : Piece) : State :=
  let wct := s.wctOf p.key p.len
  let (s, n) := s.homeWrite p.key p.data (some (o.id, p.lane))
  (s.putPiece o { p with phase := .performed, wct, acks := n }).coverLine o.id (lineOf p.key)

/-- One 8-byte part of a store performed by itself (R141). -/
def State.storePart (s : State) (o : Op) (p : Piece) (k : Nat) (bs : List Byte) : State × Piece :=
  let wct := s.wctOf (p.key + 8 * k) 8
  let (s, n) := s.homeWrite (p.key + 8 * k) bs (some (o.id, p.lane))
  let p := { p with torn := k :: p.torn, wct := max p.wct wct, acks := p.acks + n }
  (s.setOp (o.setPiece p), p)

/-- The parts of a store that remain, performed together. -/
def State.storeRest (s : State) (o : Op) (p : Piece) : State :=
  let (s, p) := p.partsLeft.foldl (fun (r : State × Piece) (k, bs) => r.1.storePart o r.2 k bs) (s, p)
  (s.putPiece o { p with phase := .performed, torn := [] }).coverLine o.id (lineOf p.key)

/-- The record that `gmemb` leaves: the descriptor as it stands, and STATUS (R358). -/
def Shard.record (g : Shard) (status : Nat) : List Byte :=
  natLE 2 g.group ++ natLE 1 g.stripe ++ natLE 1 g.self ++ natLE 4 g.version ++ natLE 8 g.members ++ natLE 4 g.timeout
    ++ natLE 4 status ++ natLE 8 0

/-- A membership operation's work is done, and its record can be written (R358). -/
def Op.memberDone (o : Op) (now sub mask status : Nat) : Op :=
  { o with kind := .member sub mask status, done := true, pieces := o.pieces.map (fun p => { p with phase := .sent, moved := now }) }

/-- The bytes a store writes: the record of a membership operation is the descriptor as it then stands (R358). -/
def State.storeData (s : State) (o : Op) (p : Piece) : Piece :=
  match o.kind with
  | .member _ _ status => { p with data := (s.shard o.part).record status }
  | _ => p

/-- One part of a store performed by itself, in the owner's cache, at home, or in the operand buffer. -/
def State.storeTorn (s : State) (o : Op) (p : Piece) (k : Nat) : State :=
  let bs := slice p.data (8 * k) 8
  let torn := { p with torn := k :: p.torn }
  if p.owner then (s.ownerWrite o.coreNo p.entry (p.key + 8 * k) bs).setOp (o.setPiece torn)
  else if p.space.isMain then (s.storePart o p k bs).1
  else (s.spaceWrite o { p with key := p.key + 8 * k, data := bs }).setOp (o.setPiece torn)

/-- HOME_STORE_PERFORM (R231); one 8-byte part alone where `nats` names it (R141).  A store of the scratchpad takes its place
whole as it retires (R213, R216). -/
def execHomeStorePerform (s : State) : Out :=
  .next (match s.named with
    | some (o, p) =>
      let p := s.storeData o p
      if p.act != .store || p.space = .scratch || !s.mayPerform o p then s
      else
        match s.tornPart p with
        | some k => s.storeTorn o p k
        | none =>
          if p.owner then s.performOwned o p
          else if p.space = .opbuf then (s.spaceRest o p).putPiece o { p with phase := .replied }
          else if p.torn.isEmpty then s.homeStore o p
          else s.storeRest o p
    | none => s)

/-- STORE_WCT_REPLY (R231, R255). -/
def execStoreWctReply (s : State) : Out :=
  .next (match s.named with
    | some (o, p) =>
      if p.act = .store && p.phase = .performed && p.acks = 0 && p.moved != s.time then s.putPiece o { p with phase := .replied } else s
    | none => s)

/-! ### Atomics (R243 to R250, R259, R260) -/

/-- The bin deltas of a request. -/
def Act.deltas : Act → List Int
  | .bin _ d0 d1 d2 => [d0, d1, d2]
  | _ => []

/-- A request that merges with others whose bin deltas sum to `sum` (R248). -/
def mergeable (sum : List Int) (p q : Piece) : Bool :=
  q.phase = .sent && q.held.isNone && q.space = .home && !q.owner && p.key == q.key && p.len == q.len && p.scope == q.scope &&
  (match p.act, q.act with
   | .int 0, .int 0 => true
   | .bin _ _ _ _, .bin _ _ _ _ => p.binRec == q.binRec && (sum.zip q.act.deltas).all (fun e => (e.1 + e.2).natAbs ≤ 2 ^ 62)
   | _, _ => false)

/-- The other requests that came merged with this one, by operation and lane, performed after it in the order in which they
reached the router (R248, R249); `sum` are the deltas merged so far. -/
def State.mergedWith (s : State) (p : Piece) (sum : List Int) : List Nat → State
  | id :: lane :: rest =>
    match s.op id with
    | some o => match o.piece lane with
      | some q =>
        if mergeable sum p q && s.mayPerform o q
        then (s.homeAtomic o q).mergedWith p ((sum.zip q.act.deltas).map (fun e => e.1 + e.2)) rest
        else s.mergedWith p sum rest
      | none => s.mergedWith p sum rest
    | none => s.mergedWith p sum rest
  | _ => s

/-- HOME_ATOMIC_PERFORM (R243, R248 to R250). -/
def execHomeAtomicPerform (s : State) : Out :=
  .next (match s.named with
    | some (o, p) =>
      if !p.act.isAtomic || p.space != .home || !s.mayPerform o p then s
      else if p.owner then s.performOwned o p
      else (s.homeAtomic o p).mergedWith p p.act.deltas s.args.nats
    | none => s)

/-- ATOMIC_REPLY (R249). -/
def execAtomicReply (s : State) : Out :=
  .next (match s.named with
    | some (o, p) =>
      if p.act.isAtomic && p.phase = .performed && p.acks = 0 && p.moved != s.time then s.putPiece o { p with phase := .replied } else s
    | none => s)

/-- HOST_ATOMIC_COMPLETION (R259, R260): the AtomicOp, or a pass of the loop, whose CAS succeeds where the host still holds
the value read. -/
def execHostAtomicCompletion (s : State) : Out :=
  .next (match s.named with
    | some (o, p) =>
      if !p.act.isAtomic || p.space != .host || !s.mayPerform o p then s
      else if !s.args.ok then (s.hostFailed o p).sendLate p.who
      else
        let old := s.readBytes p.key p.len
        if p.act.direct || (p.looped && old == p.got) then (s.homeAtomic o p).sendLate p.who
        else if p.looped then s.putPiece o { p with got := old }
        else s
    | none => s)

/-! ### Reclassification (R226) -/

/-- PAGE_RECLASSIFY (R226): of the leaf entry at `x`, on which an access or an arm is held. -/
def execPageReclassify (s : State) : Out :=
  let e := s.args.x
  .next (if s.entryHeld e then s.reclassify e else s)

/-! ### Copies (R148 to R150, R236, R237) -/

/-- What an engine's translation of a range comes to: the place of each page; a wait, for the reply to a page request or for
what it will meet when it tries again; a fault that cannot be resolved, with its address; a forbidden port, whose leaf it has
reached (R276, R376); or a poisoned entry (R391). -/
inductive Reach where
  | ok (l1 l2 : Leaf)
  | wait (on : Option (Nat × Bool)) (s : State)
  | fail (va : Nat) (s : State)
  | port (port va : Nat) (s : State)
  | poison (va key : Nat) (s : State)

/-- Translates a range of at most two pages for an engine that makes accesses as `b` does (R150): a resolvable fault makes its request
or starts its gather, and a miss joins a walk (R278). -/
def State.reach (s : State) (b : Miss) (va len : Nat) (failed : List (Nat × Bool)) : Reach :=
  let one := fun (va len : Nat) => s.access { b with va, len } failed
  let n1 := min len (4096 - va % 4096)
  let bad := fun (va len : Nat) (x : Xl) =>
    let t := s.unwalk b.who
    match x with
    | .trap 0x35 port => match s.xlate { b with va, len } with
      | some (.leaf l) => Reach.port port ((s.portStop b.die b.core va len l).getD (port, va)).2 t
      | _ => Reach.port port va t
    | .request lvl st2 page => Reach.wait (some (page, st2)) (t.request b.fn st2 page lvl b.want.writes false).1
    | .gather page _ => Reach.wait none (t.startGather b.fn page)
    | .busy => Reach.wait none (s.joinWalks [{ b with va, len }])
    | .off => Reach.wait none s
    | .poison key => Reach.poison va key t
    | _ => Reach.fail va t
  match one va n1 with
  | .ok l1 =>
    if len ≤ n1 then .ok l1 l1
    else match one (va + n1) (len - n1) with
      | .ok l2 => .ok l1 l2
      | x => bad (va + n1) (len - n1) x
  | x => bad va n1 x

/-- A copy's lane replaced in its operation. -/
def Op.setCopy (o : Op) (l : CopyLane) (err : Option Nat) : Op :=
  match o.kind with
  | .copy tag ls e a =>
    let ls := ls.map (fun m => if m.lane == l.lane then l else m)
    let low := (lanesOf e).headD 32
    match err with
    | none => { o with kind := .copy tag ls e a }
    | some va => { o with kind := .copy tag ls (e ||| maskOf (· == l.lane)) (if l.lane < low then word64 va else a) }
  | _ => o

/-- An operation's engine met a forbidden port: its group or thread takes Partition-port when it would have retired (R376). -/
def State.notePort (s : State) (id port va : Nat) : State :=
  match s.op id with
  | some o => s.setOp { o with owes := o.owes.orElse (fun _ => some { code := 0x35, detail := port, tval := word64 va }) }
  | none => s

/-- Runs of consecutive places among bytes in rising order of place. -/
def runsOf (bs : List (Nat × Byte)) : List (Nat × List Byte) :=
  bs.foldr (fun (e : Nat × Byte) (rs : List (Nat × List Byte)) => match rs with
    | (k, l) :: rest => if k = e.1 + 1 then (e.1, e.2 :: l) :: rest else (e.1, [e.2]) :: rs
    | [] => [(e.1, [e.2])]) []

/-- The lanes of a copy. -/
def Op.lanes (o : Op) : List CopyLane :=
  match o.kind with
  | .copy _ ls _ _ => ls
  | _ => []

/-- The first byte of a lane's destination: a place in memory or in the scratchpad. -/
def CopyLane.dstKey (l : CopyLane) : Nat := if l.dstGlobal then (l.place.getD (0, 0, 0)).1 else l.dst.toNat

/-- Another lane of the copy has written a byte of the destination. -/
def CopyLane.wrote (l : CopyLane) (dstGlobal : Bool) (key : Nat) : Bool :=
  l.dstGlobal == dstGlobal && (l.place.isSome || !l.dstGlobal) && l.dstKey ≤ key && key < l.dstKey + 32 && l.torn.contains (key - l.dstKey)

/-- The place of byte `i` of a lane's source. -/
def CopyLane.srcKey (l : CopyLane) (i : Nat) : Nat :=
  if !l.srcGlobal then l.src.toNat + i
  else
    let n1 := 4096 - l.src.toNat % 4096
    let p := l.place.getD (0, 0, 0)
    if i < n1 then p.2.1 + i else p.2.2 + (i - n1)

/-- A lane's addresses are translated (R150): the places, a wait, or the address of the fault; a copy is a second agent of each
page (R225).  DESIGN CHOICE (log 59): the privilege level is the group's at the moment of the transfer, and the source is tried
before the destination, so its address is the faulting one where neither translates. -/
def State.placeLane (s : State) (o : Op) (l : CopyLane) : State :=
  let priv := ((s.ctx o.uid).map (·.priv)).getD (s.team o.team).priv
  let by' := fun (want : Want) => ({ die := o.die, core := o.core, fn := s.fnOfPart o.part, want, priv, who := 16 * o.id + 8, toucher := .engine } : Miss)
  let set := fun (s : State) (l : CopyLane) (e : Option Nat) => match s.op o.id with
    | some o => s.setOp (o.setCopy l e)
    | none => s
  let key := fun (l : Leaf) => memKey l.mt l.pa
  let bad := fun (r : Reach) => match r with
    | .wait on s => set s { l with wait := on } none
    | .fail va s => set s { l with phase := .abandoned } (some va)
    | .port port va s => (set s { l with phase := .abandoned } none).notePort o.id port va
    | .poison va key s => (set s { l with phase := .abandoned } none).kill o.uid 5 (word64 va) (key % 2 ^ 48)
    | .ok _ _ => s
  match (if l.srcGlobal && l.n != 0 then s.reach (by' .load) l.src.toNat l.n l.failed else .ok {} {}) with
  | .ok a b =>
    match (if l.dstGlobal then s.reach (by' .store) l.dst.toNat 32 l.failed else .ok {} {}) with
    | .ok d _ =>
      set (s.unwalk (16 * o.id + 8)) { l with place := some (key d, key a, key b), span := max a.bits (max b.bits d.bits) } none
    | r => bad r
  | r => bad r

/-- A lane reads the bytes of its block that the event names: at home, or in the team's scratchpad (R148, R237); poison in them
kills the copy's group (R391), and `z` 4 is a host completion with an error. -/
def State.copyRead (s : State) (o : Op) (l : CopyLane) (ks : List Nat) : State :=
  let new := ks.filter (fun i => i < l.n && !l.torn.contains i && !l.got.any (·.1 == i) && !(l.srcGlobal && s.loopOn o.id l.who (l.srcKey i)))
  let bad := l.srcGlobal && new.any (fun i => s.poisoned (l.srcKey i) 1)
  let host := l.srcGlobal && s.args.z = 4 && new.any (fun i => memKey 2 0 ≤ l.srcKey i)
  if bad || host then
    (s.setOp (o.setCopy { l with phase := .abandoned } (some l.src.toNat))).kill o.uid (if host then 4 else 1) l.src (l.srcKey 0 % 2 ^ 48)
  else
    let byte := fun (i : Nat) => if l.srcGlobal then s.byteAt (l.srcKey i) else ((s.team o.team).bytes (l.srcKey i) 1).headD 0
    s.setOp (o.setCopy { l with got := l.got ++ new.map (fun i => (i, byte i)), moved := s.time } none)

/-- The bytes of a copy's write as the core's own copy of the line and its fills take them: under the stores that the core has sent
and that the home has still to perform, which stand there after it (R149, R229, R231, R236). -/
def State.underSent (s : State) (core key : Nat) (bs : List Byte) : List Byte :=
  slice (s.sentOver (fun o => o.coreNo == core) (fun q => !q.owner && !q.unsent) key (padLine (key % 128) bs)) (key % 128) bs.length

/-- A lane writes the bytes that the event names and that it has read, and zeros past its valid ones: at home, where the core's
own copy and fills take them too, or into the team's scratchpad (R148, R236).  A byte that a higher lane of the copy has
written stands (R149). -/
def State.copyWrite (s : State) (o : Op) (l : CopyLane) (ks : List Nat) : State :=
  let have' := (List.range 32).filterMap (fun i =>
    if !ks.contains i || l.torn.contains i || (l.dstGlobal && s.loopOn o.id l.who (l.dstKey + i)) then none
    else if l.n ≤ i then some (i, (0 : Byte)) else l.got.find? (·.1 == i))
  let torn := l.torn ++ have'.map (·.1)
  let next := { l with got := l.got.filter (fun e => !torn.contains e.1), torn, moved := s.time,
                       phase := if torn.length = 32 then .replied else .sent }
  let stands := fun (i : Nat) => o.lanes.any (fun m => l.lane < m.lane && m.wrote l.dstGlobal (l.dstKey + i))
  let runs := runsOf ((have'.filter (fun e => !stands e.1)).map (fun e => (l.dstKey + e.1, e.2)))
  let write := fun (s : State) (e : Nat × List Byte) =>
    if l.dstGlobal then
      let own := s.underSent o.coreNo e.1 e.2
      let s := (s.patchCopy o.coreNo e.1 own).patchFills o.coreNo e.1 own
      let wct := s.wctOf e.1 e.2.length
      let (s, n) := s.homeWrite e.1 e.2 (some (o.id, 32))
      match s.op o.id with
      | some o => s.setOp { o with wct := max o.wct wct, acks := o.acks + n }
      | none => s
    else s.scratchWrite o.team e.1 e.2
  let s := runs.foldl write s
  match s.op o.id with
  | some o => s.setOp (o.setCopy next none)
  | none => s

/-- A line whose every byte a copy has written is no longer poisoned (R391). -/
def State.coverCopy (s : State) (id line : Nat) : State :=
  if !s.poison.contains line then s
  else
    match s.op id with
    | none => s
    | some o =>
      if (List.range 128).all (fun i => o.lanes.any (fun m => m.dstGlobal && m.wrote true (line * 128 + i)))
      then { s with poison := s.poison.filter (· != line) } else s

/-- COPY_LANE_TRANSFER of the copy `x` in lane `y` (R148 to R150, R236, R237): the lane's addresses translate; then it reads
bytes of its block where `ok` holds, and writes bytes that it read earlier where it does not: those that `nats` names, or
all.  A lane whose page was requested waits for the reply. -/
def execCopyLaneTransfer (s : State) : Out :=
  .next (match s.op s.args.x with
    | some o => match o.lanes.find? (fun l => l.lane == s.args.y && l.phase = .sent && l.wait.isNone && l.moved != s.time) with
      | some l =>
        let s := if l.place.isNone && (l.dstGlobal || l.srcGlobal) then s.placeLane o l else s
        let ks := if s.args.nats.isEmpty then List.range 32 else s.args.nats
        match (s.op o.id).bind (fun o => (o.lanes.find? (fun m => m.lane == l.lane)).map (fun m => (o, m))) with
        | some (o, l) =>
          if l.phase != .sent || (l.place.isNone && (l.dstGlobal || l.srcGlobal)) then s
          else if s.args.ok then s.copyRead o l ks
          else (s.copyWrite o l ks).coverCopy o.id (lineOf l.dstKey)
        | none => s
      | none => s
    | none => s)

/-! ### Monitors (R253 to R255) -/

/-- MONITOR_REGISTER of the monitor `x` (R253, R254): it waits while its slice holds 16,384 armed ones. -/
def execMonitorRegister (s : State) : Out :=
  .next (match s.mons.find? (fun m => m.id == s.args.x && m.phase = .arming && m.held.isNone && m.moved != s.time) with
    | none => s
    | some m =>
      if s.monsFull m.slice then s
      else
        let m' := if s.monTrue m then { m with phase := .waking, cause := none, moved := s.time } else { m with phase := .armed, moved := s.time }
        { s with mons := s.mons.map (fun k => if k.id == m.id then m' else k) })

/-- WAKE_RECORD of the monitor `x` (R254): its row is woken, or it is marked fired; the core acknowledges. -/
def execWakeRecord (s : State) : Out :=
  .next (match s.mons.find? (fun m => m.id == s.args.x && m.phase = .waking && m.moved != s.time) with
    | none => s
    | some m =>
      let set := fun (s : State) =>
        { s with mons := s.mons.map (fun k => if k.id == m.id then { k with phase := .acking, fired := true, moved := s.time } else k) }
      match m.row with
      | some a =>
        match (s.team m.team).rows.find? (·.age == a) with
        | some r => set (s.wakeRow m.team r s.time)
        | none => set s
      | none => set s)

/-- A wake's acknowledgement reaches the write that caused it (R255). -/
def State.ackCause (s : State) (cause : Option (Nat × Nat)) : State :=
  match cause with
  | none => s
  | some (id, lane) =>
    let s := { s with colls := s.colls.map (fun (c : Coll) => if c.id == id then { c with acks := c.acks - 1 } else c) }
    match s.op id with
    | none => s
    | some o =>
      match o.piece lane with
      | some p => s.putPiece o { p with acks := p.acks - 1 }
      | none =>
        let kind := match o.kind with
          | .copy tag ls e a => .copy tag (ls.map (fun l => { l with moved := s.time })) e a
          | k => k
        s.setOp { o with acks := o.acks - 1, kind }

/-- WAKE_ACK of the monitor `x` (R255): what no lane or frame still holds goes. -/
def execWakeAck (s : State) : Out :=
  .next (match s.mons.find? (fun m => m.id == s.args.x && m.phase = .acking && m.moved != s.time) with
    | none => s
    | some m =>
      let s := s.ackCause m.cause
      let kept := m.row.isNone && (m.uid != 0 || s.frames.any (fun f => f.mon = some m.id))
      { s with mons := s.mons.filterMap (fun k => if k.id == m.id then (if kept then some { k with phase := .done } else none) else some k) })

/-! ### Retirement (R136, R138, R216) -/

/-- The registers a loaded lane writes (R142). -/
def loadWords (n : Nat) (sx : Bool) (bs : List Byte) : List Word :=
  if n < 4 then
    let x := leNat bs
    [if sx && 2 ^ (8 * n - 1) ≤ x then word (x + 2 ^ 32 - 2 ^ (8 * n)) else word x]
  else (List.range (n / 4)).map (fun k => word (leNat (slice bs (4 * k) 4)))

/-- Writes words to consecutive vector registers of a lane. -/
def Ctx.putLane (c : Ctx) (dst i : Nat) (ws : List Word) : Ctx :=
  { c with v := (ws.zipIdx).foldl (fun v (w, k) => Cells.set 0 v (32 * (dst + k) + i) w) c.v }

/-- Loads of a scratchpad or operand buffer that have not been performed are performed as the operation retires. -/
def State.readyPieces (s : State) (o : Op) : List Piece :=
  o.pieces.map (fun p =>
    if p.phase = .sent && p.act = .load && !p.space.isMain then { p with got := p.keepTorn (s.spaceBytes o p), phase := .replied } else p)

/-- A part that retirement itself performs: in the scratchpad or the operand buffer, with nothing older before it. -/
def State.atRetire (s : State) (o : Op) (p : Piece) : Bool :=
  p.phase = .sent && !p.space.isMain
    && !(s.ops.any (fun o' => o'.id != o.id && o'.pieces.any (mustFollow o p o')))

/-- An operation's whole effect is complete (R136, R236). -/
def State.complete (s : State) (o : Op) : Bool :=
  o.pieces.all (fun p => p.phase = .replied || p.phase = .abandoned || s.atRetire o p) && o.acks = 0 &&
  (match o.kind with
   | .copy _ ls _ _ => ls.all (fun l => l.phase = .abandoned || (l.phase = .replied && (!l.dstGlobal || l.moved != s.time)))
   | .fill _ | .engine | .member _ _ _ => o.done
   | _ => true)

/-- No older operation of its context on its counter is in flight (R136). -/
def State.oldest (s : State) (o : Op) : Bool :=
  s.ops.all (fun q => !(q.counted && q.uid == o.uid && q.ctr == o.ctr && q.id < o.id))

/-- The context's part of a retirement: results, LASTWCT, BO, a copy's errors, a pass's signature, and the counter. -/
def Ctx.retireOp (c : Ctx) (o : Op) (ps : List Piece) : Ctx :=
  let wct := ps.foldl (fun m p => max m p.wct) o.wct
  let c := { c with lastwct := max c.lastwct wct, owedTrap := c.owedTrap.orElse (fun _ => o.owes) }.setCounter o.ctr (c.counter o.ctr - 1)
  if c.ended then
    match o.kind with
    | .copy tag _ e a => if e == 0 then c else { c with copyErrs := c.copyErrs ++ [⟨tag, e, a⟩] }
    | _ => c
  else
    let ps := ps.filter (fun p => p.phase != .abandoned)
    match o.kind with
    | .load dst regs n sx scalar =>
      if regs = 0 then c else ps.foldl (fun c p =>
        let ws := loadWords n sx p.got
        if scalar then (ws.zipIdx).foldl (fun c (w, k) => c.setS (dst + k) w) c else c.putLane dst p.lane ws) c
    | .atomic dst regs =>
      let c := if o.bo then c.stick fBO else c
      if regs = 0 then c else ps.foldl (fun c p => c.putLane dst p.lane (loadWords (4 * regs) false p.got)) c
    | .copy tag _ e a => if e == 0 then c else { c with copyErrs := c.copyErrs ++ [⟨tag, e, a⟩] }
    | .engine => { c with sig := o.sig.getD c.sig }
    | _ => c

/-- Opens the gate of a board's point and wakes its sleeping rows (R342, R345). -/
def State.openGate (s : State) (team p : Nat) : State :=
  let t := s.team team
  let s := s.setTeam (t.setPair { t.pair p with gateClosed := false })
  s.wakeRows team (byAge ((t.rowsOf p).filter (!·.woke)))

/-- A board leaves its stop; its gate opens (R342). -/
def State.boardRetire (s : State) (o : Op) : State :=
  let n := quadNo o.die o.core
  let q := s.quad n
  match q.boards.find? (·.op == o.id) with
  | none => s
  | some b =>
    let s := s.setQuad n { q with boards := q.boards.filter (·.op != o.id) }
    if b.pt = 0 then s else s.openGate b.team b.pt

/-- Retirement of an operation (R136): scratchpad stores take their place in the team's order, in lane order (R216). -/
def State.retire (s : State) (o : Op) : State :=
  let ps : List Piece := s.readyPieces o
  let s := (ps.filter (fun p => p.phase = .sent && p.act = .store && !p.space.isMain)).foldl (fun s p => s.spaceRest o p) s
  let wct := ps.foldl (fun m p => max m p.wct) o.wct
  let s := { s with ops := s.ops.filter (·.id != o.id) }
  let s := s.noteWct o.team wct
  let s := match o.kind with
    | .collLoad t =>
      let tm := s.team o.team
      s.setTeam { tm with t := (List.range 8).map (fun k =>
        if k == t then leNat ((ps.map (fun (p : Piece) => p.got)).headD []) else tm.t.getD k 0) }
    | .fill _ => s.boardRetire o
    | _ => s
  match s.ctx o.uid with
  | some c => s.setCtx (c.retireOp o ps)
  | none => s

/-- OPERATION_RETIRE of the operation `x` (R136); one that met poison, or a failed completion, does not retire into its
registers: its group or thread is killed (R391, R392). -/
def execOperationRetire (s : State) : Out :=
  .next (match s.op s.args.x with
    | some o =>
      if o.counted && s.complete o && s.oldest o then
        (match o.bad with
         | some (src, p) => s.killLogged o.uid src p.va (p.key % 2 ^ 48)
         | none => s).retire o
      else s
    | none => s)

/-- GROUP_SLOT_FREE of the context `x` (R132). -/
def execGroupSlotFree (s : State) : Out :=
  .next (match s.ctx s.args.x with
    | some c => if c.uid != 0 && c.ended && c.idle then s.freeSlot c else s
    | none => s)

/-! ### Home migration (R238) -/

/-- The lines of a page at a place. -/
def pageLines (key bits : Nat) : List Nat := (List.range (2 ^ bits / 128)).map (fun i => key / 128 + i)

/-- Copies lines of a page to its new home; the copies are writes there (R254). -/
def State.copyLines (s : State) (key new : Nat) (ls : List Nat) : State :=
  ls.foldl (fun s l => (s.agentWrite (new + (l * 128 - key)) (s.readBytes (l * 128) 128) none).1) s

/-- The pages in a range of places become Shared: the migration engine is a second agent of the Private ones, whose home then
holds what their owners wrote, and the first to touch the Unclaimed ones (R224 to R226, R238). -/
def State.shareAll (s : State) (key n : Nat) : State :=
  let lines := (s.lines.filter (fun l => l.priv && key ≤ l.line * 128 && l.line * 128 < key + n)).map (·.entry)
  (lines ++ s.entriesIn (key, n)).eraseDups.foldl State.entryTouch s

/-- HOME_MIGRATION_PASS of the page at the virtual address `y` of function `x` to die `z` and the physical address `value`
(R238): the first pass copies every line, a later one those stored to since.  Under two stages the page is that of the stage-2
leaf, which names the home. -/
def execHomeMigrationPass (s : State) : Out :=
  let fn := s.args.x
  .next (match s.pageLeaf fn s.args.y with
    | none => s
    | some l =>
      if l.mt != 0 || l.cls = 0 then s
      else
        let bits := l.homeBits
        let key := l.pa / 2 ^ bits * 2 ^ bits
        let s := (if l.cls = 1 then s.reclassify l.entry else s).shareAll key (2 ^ bits)
        let leaf := l.entry2.getD l.entry
        match s.sys.migration with
        | none =>
          let s := s.copyLines key s.args.value.toNat (pageLines key bits)
          { s with sys := { s.sys with migration := some (fn, leaf, s.args.z % 8, s.args.value.toNat, 1), migLines := [] } }
        | some (_, e, die, new, n) =>
          let ls := s.sys.migLines.eraseDups.filter (fun x => (pageLines key bits).contains x)
          if e != leaf || ls.length ≤ 64 || 8 ≤ n then s
          else { s.copyLines key new ls with sys := { s.sys with migration := some (fn, e, die, new, n + 1), migLines := [] } })

/-- HOME_MIGRATION_SWITCH (R238): the final pass copies the remaining lines with their leases, poison and monitors, the
leaf entry names the new home, and what was on its way is performed there. -/
def execHomeMigrationSwitch (s : State) : Out :=
  .next (match s.sys.migration with
    | none => s
    | some (fn, e, die, new, n) =>
      match s.pageLeaf fn s.args.y with
      | none => s
      | some l =>
        let bits := l.homeBits
        let key := l.pa / 2 ^ bits * 2 ^ bits
        let lines := pageLines key bits
        let t := s.shareAll key (2 ^ bits)
        let ls := t.sys.migLines.eraseDups.filter (fun x => lines.contains x)
        if l.entry2.getD l.entry != e || !(ls.length ≤ 64 || 8 ≤ n) then s
        else
          let s : State := t.copyLines key new ls
          let to' := fun (k : Nat) => new + (k - key)
          let inPage := fun (k : Nat) => key ≤ k && k < key + 2 ^ bits
          let s : State := lines.foldl (fun (s : State) x => if s.latestLease x = 0 then s else s.grant (to' (x * 128) / 128) (s.latestLease x)) s
          let move := fun (m : Mon) => if inPage m.key then { m with key := to' m.key, slice := homeSlice 0 (to' m.key) die } else m
          let shift := fun (p : Piece) => if p.space = .home && inPage p.key then { p with key := to' p.key, install := false } else p
          let at' := fun (k : Nat) => if inPage k then to' k else k
          let lane := fun (l : CopyLane) => { l with place := l.place.map (fun (d, a, b) => (if l.dstGlobal then at' d else d,
            if l.srcGlobal then at' a else a, if l.srcGlobal then at' b else b)) }
          let op := fun (o : Op) => match o.kind with
            | .copy tag ls e a => { o with kind := .copy tag (ls.map lane) e a }
            | _ => { o with pieces := o.pieces.map shift }
          let s : State := { s with
            poison := s.poison ++ (s.poison.filter (fun x => lines.contains x)).map (fun x => to' (x * 128) / 128),
            lines := s.lines.filter (fun x => !(inPage (x.line * 128))),
            mons := s.mons.map move, ops := s.ops.map op }
          let v := s.readLE e 8
          let s := s.setEntry e (setFld (setFld v 15 13 die) 63 28 (new / 4096))
          let s := s.dropHits (fun _ => true) (fun _ l => l.madeFrom e || l.entry2 == some e)
          { s with sys := { s.sys with migration := none, migLines := [] } })

end Sys2Proof.Machine
end

