-- ==== Sys2Proof/Machine/TileEvents.lean ====
section
/-! DEFINITION. What a core does of itself: register deadlock, grants of register units, row returns, loads, replay groups
and the debugger's resume (R156, R199, R200, R205 to R207, R264, R287).  An event names its team or context in `x`. -/

namespace Sys2Proof.Machine

/-- The record of a die (R407). -/
def State.die (s : State) (n : Nat) : Die := Cells.get {} s.sys.dies n
def State.setDie (s : State) (n : Nat) (d : Die) : State := { s with sys := { s.sys with dies := Cells.set {} s.sys.dies n d } }

/-- `n` cycles of a die's current clock have passed since a time; a clock is counted in steps of 62.5 MHz (R9, R407). -/
def State.cyclesSince (s : State) (die since n : Nat) : Bool := 16 * n ≤ (s.die die).clock * (s.time - since)

/-- A partition is resident and runs: nothing is placed or loaded for another (R372, R378). -/
def State.partRuns (s : State) (part : Nat) : Bool := (s.part part).state = 1 && s.sys.heat = .run

/-- A team's core runs: its partition does, and its slice is not one that it must give back (R383). -/
def State.teamRuns (s : State) (t : Team) : Bool :=
  s.partRuns t.part && !t.out
    && !(s.sys.loans.any (fun l => l.borrower == t.part && l.die == t.die && l.slice == sliceOfCore t.core && l.recallAt.isSome))

/-- The youngest context of a list. -/
def youngest (cs : List Ctx) : Option Ctx :=
  cs.foldl (fun (b : Option Ctx) c => match b with
    | none => some c
    | some d => if d.born < c.born then some c else some d) none

/-- Since when a group has waited in `racq`: since the first of its fragments that wait. -/
def Ctx.racqSince (c : Ctx) : Nat := (c.racqs.map (·.2.at')).foldl min ((c.racqs.map (·.2.at')).headD 0)

/-- REGISTER_DEADLOCK of the core `y` of die `x` (R200).  DESIGN CHOICE (log 51): a group waits in `racq` while one of its
fragments does, whether or not another could issue. -/
def execRegisterDeadlock (s : State) : Out :=
  let gs := (s.onCore s.args.x s.args.y).filter (!·.ended)
  let since := gs.foldl (fun m c => max m (max c.racqSince c.lastIssue)) (Cells.get 0 s.sys.deadlock (coreNo s.args.x s.args.y))
  .next (if gs.all (fun c => !c.racqs.isEmpty) && s.cyclesSince s.args.x since 2048 then
      match youngest gs with
      | some c => (s.setCtx { c with regError := false }).flashback c.uid
      | none => s
    else s)

/-- RACQ_GRANT on the core of the context `x` (R199): waiting `racq`s take their units in issue order as far as they are
free. -/
def execRacqGrant (s : State) : Out :=
  .next (match s.ctx s.args.x with
    | none => s
    | some c => if c.kind = .group then s.grantUnits c.loc.die c.loc.core 384 else s)

/-- ROW_RETURN of the pair of team `x` and point `y` (R207). -/
def execRowReturn (s : State) : Out := .next (s.rowReturn s.args.x s.args.y)

/-- FLUSH_TIMEOUT of the pair of team `x` and point `y` (R205): a load is due from then on. -/
def execFlushTimeout (s : State) : Out :=
  let t := s.team s.args.x
  let p := s.args.y
  .next (match t.waket p, s.pointOf t p with
    | some w, some pt =>
      if w + pt.flush ≤ s.time then s.setTeam (t.setPair { t.pair p with flushDue := true }) else s
    | _, _ => s)

/-- TILE_LOAD of the pair of team `x` and point `y` (R205, R206). -/
def execTileLoad (s : State) : Out :=
  .next (if s.teamRuns (s.team s.args.x) then s.tileLoad s.args.x s.args.y else s)

/-- CHECKPOINT_LOAD of the point-0 rows of launch index `y` of team `x` (R206). -/
def execCheckpointLoad (s : State) : Out :=
  .next (if s.teamRuns (s.team s.args.x) then s.zeroLoad s.args.x s.args.y else s)

/-- The registers of a replay group: each frame's in its own lane (R264 item 7). -/
def frameRegs (fs : List Frame) : Cells Word :=
  fs.foldl (fun v f => (f.v.zipIdx).foldl (fun v (x, r) => Cells.set 0 v (32 * r + f.lane) x) v) []

/-- The predicates of a replay group. -/
def framePreds (fs : List Frame) : Cells Word :=
  (List.range 7).foldl (fun p k =>
    Cells.set 0 p (k + 1) (maskOf (fun i => fs.any (fun f => f.lane == i && f.p.getD (k + 1) false)))) []

/-- REPLAY_GROUP_LOAD of the issue `x` (R264 item 7, R287): its woken frames form one group that issues the faulting
instruction first.  Its trap registers are 0, TVEC among them (R151; log 21).  R264 lists no split table in a frame: in what is
left of the held clause SPLITV stays as the clause began with it (log 21). -/
def execReplayGroupLoad (s : State) : Out :=
  let fs := s.frames.filter (fun f => f.issue == s.args.x && f.woken)
  .next (match fs.head? with
    | none => s
    | some f =>
      let t := s.team f.team
      match s.newLoc t.die t.core, s.newGrpid f.team with
      | some loc, some g =>
        if !s.teamRuns t || s.freeUnits t.die t.core < unitsOf f.acq then s
        else
          let m := maskOf (fun i => fs.any (·.lane == i))
          let c := s.freshGroup t g f.acq loc { pc := f.clause.hdr, fmask := m, amask := m }
          let ck := lanes.map (fun i => ((fs.find? (·.lane == i)).map (·.ckpt)).getD 0)
          let whos := lanes.map (fun i => ((fs.find? (·.lane == i)).map (·.who)).getD 0)
          let c := { c with whos, v := frameRegs fs, p := framePreds fs, s := f.s, mode := f.mode, lastwct := f.lastwct,
                            clause := f.clause, priv := f.priv, recipe := f.recipe, ckpts := ck, tvec := 0,
                            regError := fs.any (·.regError), failed := fs.filterMap (·.failed) }
          let own := fun (m : Mon) => if fs.any (fun f => f.mon = some m.id) then { m with uid := c.uid } else m
          { s with frames := s.frames.filter (fun f => !(f.issue == s.args.x && f.woken)), mons := s.mons.map own }.addCtx c
      | _, _ => s)

/-- DEBUG_RESUME of the context `x` (R156): a group that `brk` halted goes on. -/
def execDebugResume (s : State) : Out :=
  .next (match s.ctx s.args.x with
    | some c =>
      if c.halted && c.kind = .group && s.teamRuns (s.team c.team) then s.setCtx { c with halted := false } else s
    | none => s)

end Sys2Proof.Machine
end

