-- ==== Sys2Proof/Machine/Commands.lean ====
section
/-! DEFINITION. The translation walk as an event, page requests, and the commands of a function's ring (R276, R280, R281,
R283, R287, R290, R293, R296, R299, R411). -/

namespace Sys2Proof.Machine

/-! ### Walks and page requests -/

/-- The access that an instruction makes in a lane: address, bytes and kind. -/
def Ctx.laneAccess (c : Ctx) (i : Instr) (j : Nat) : Option (Word64 × Nat × Want) :=
  let at' := fun (x : Mem) n w => if (c.enabledD x.d).getLsbD j then some (c.gaddr x j, n, w) else none
  match i with
  | .ld x => at' x (widthBytes x.d.width) .load
  | .pref x => at' x 4 .load
  | .ldsc x => some (c.uni64 x.immW x.w.a + sext64 (c.uni x.immW x.w.b), widthBytes x.d.width, .load)
  | .st x => at' x (widthBytes x.d.width) .store
  | .atom x => at' x (widthBytes x.d.width) .atomic
  | .ared x => at' x (widthBytes x.d.width) .atomic
  | .afadd x => at' x 4 .atomic
  | .afred x => at' x 4 .atomic
  | .abin x => at' x 24 .bin
  | .cas x => at' x 4 .atomic
  | .cas64 x => at' x 8 .atomic
  | .cas128 x => at' x 16 .atomic
  | .mwait x => at' x (widthBytes x.d.width) .mwait
  | _ => none

/-- What a context is about to access in a lane: its next clause header, or its next instruction's address. -/
def Ctx.nextAccess (c : Ctx) (j : Nat) : Option (Word64 × Nat × Want) :=
  if !c.clause.isOpen then some (c.frag.pc, 4, .fetch)
  else if c.clause.waiting then none
  else c.nextInstr.bind (fun i => c.laneAccess i j)

/-- A walk ends (R278): for the miss it was begun for, those that joined it, and those waiting that its leaf covers; its walker
takes the next miss. -/
def State.endWalk (s : State) (w : Walker) (merge : Bool) : State :=
  let m := w.first
  let bits := match s.walkOn w.seen m.fn m.die m.va with
    | .leaf l => l.bits
    | _ => 12
  let under := fun (k : Miss) => k.die == m.die && k.fn == m.fn && k.va / 2 ^ bits == m.va / 2 ^ bits && k.at' < s.time
  let due := (w.all ++ s.misses.filter under).filter (fun k => fld (s.fn k.fn).tctl.toNat 0 0 = 1)
  let s : State := { s with walkers := s.walkers.filter (fun v => !v.covers m), misses := s.misses.filter (fun k => !under k) }
  (due.foldl (fun (s : State) k => s.serveMiss merge w.seen k) s).nextMiss m.die

/-- A walker moves, later than it moved last (R228): it reads the next entry, or, where nothing is left to read, it ends, unless an
access has joined it only now; it begins again where a leaf has changed since it read it (R276). -/
def State.walkerMoves (s : State) (w : Walker) (merge : Bool) : State :=
  let set := fun (v : Walker) => { s with walkers := s.walkers.map (fun u => if u == w then { v with moved := s.time } else u) }
  if s.time ≤ w.moved then s
  else if (s.nextRead w.first w.seen).isSome then set (s.readOn w 64)
  else
    let fresh := match s.walkOn w.seen w.first.fn w.first.die w.first.va with
      | .leaf l => s.unchanged w.seen l
      | _ => true
    if !fresh then set { w with seen := [] }
    else if w.all.all (fun m => m.at' < s.time) then s.endWalk w merge
    else s

/-- TRANSLATION_WALK for lane `y` of the context `x` (R271 to R278, R284): a walker begins the walk of the access that the lane is
about to make, or the access joins one or waits.  With `z` 2 the walk number `y` in progress on die `x` moves: it reads its next entry,
or ends, when A and D are set as R276 says and the translation is cached, with `ok` merged, where R275 lets the walker merge.  With `z` 3
the caches lose the translation of that access, and with `z` 4 those of core `y` of die `x` lose that of the address `value` of
function `value2`.  A fault is taken, and a request or gather made, when the instruction is settled (R286). -/
def execTranslationWalk (s : State) : Out :=
  if s.args.z = 2 then
    .next (match (s.walkers.filter (·.first.die == s.args.x))[s.args.y]? with
      | some w => s.walkerMoves w s.args.ok
      | none => s)
  else if s.args.z = 4 then .next (s.forget s.args.value2.toNat s.args.x s.args.y s.args.value.toNat)
  else
    match s.ctx s.args.x with
    | none => .next s
    | some c =>
      if c.ended || (c.frags.getD c.fsel none).isNone then .next s
      else
        match c.nextAccess s.args.y with
        | none => .next s
        | some (va, len, want) =>
          let fn := s.fnOf c
          if 2 ^ 57 ≤ va.toNat || (want != .bin && va.toNat % len != 0) then .next s
          else if s.args.z = 3 then .next (s.forget fn c.loc.die c.loc.core va.toNat)
          else
            let m := s.missOf c va.toNat len want
            match s.access m c.failed with
            | .busy => .next (s.joinWalks [m])
            | _ => .next s

/-- The lowest tag that no outstanding request of a ring holds (R283). -/
def State.freeTag (s : State) (fn : Nat) (stage2 : Bool) : Option Nat :=
  let used := (s.requests.filter (fun r => r.fn == fn && r.stage2 == stage2)).filterMap (·.tag)
  (List.range (used.length + 1)).find? (fun t => t < 4096 && !used.contains t)

/-- The record of a page request (R283). -/
def PageReq.bytes (r : PageReq) (tag : Nat) : List Byte :=
  natLE 8 (fld r.page 47 12 * 4096 + r.write.toNat + r.fetch.toNat * 2 + r.stage2.toNat * 4) ++ natLE 2 tag ++ natLE 2 r.fn
    ++ natLE 1 r.level ++ natLE 3 0

/-- PAGE_REQUEST_WRITE of the request `x` (R283, R401): the record, PRQTAIL, and event 2 with the record's index; a full
ring or a ring with no free tag makes it wait. -/
def execPageRequestWrite (s : State) : Out :=
  .next (match s.requests.find? (fun r => r.id == s.args.x && r.tag.isNone) with
    | none => s
    | some r =>
      let f := s.fn r.fn
      let (base, size, head, tail) := if r.stage2 then (f.prq2base, f.prq2size, f.prq2head, f.prq2tail)
                                      else (f.prqbase, f.prqsize, f.prqhead, f.prqtail)
      match s.freeTag r.fn r.stage2 with
      | none => s
      | some tag =>
        if ringFull head tail size then s
        else
          let s : State := s.writeBytes (memKey 2 (base.toNat + 16 * tail)) (r.bytes tag)
          let next := (tail + 1) % 2 ^ size
          let s : State := s.setFn r.fn (if r.stage2 then { f with prq2tail := next } else { f with prqtail := next })
          let s := { s with requests := s.requests.map (fun (q : PageReq) => if q.id == r.id then { q with tag := some tag } else q) }
          s.event (if r.stage2 then 0 else r.fn) 2 (s.partOfFn r.fn) tail)

/-! ### The command ring (R280, R281) -/

/-- The bytes of a command of a ring that was taken and is still in progress. -/
def State.cmdTaken (s : State) (fn slot : Nat) : Option (List Byte) :=
  (s.sys.commands.find? (fun c => c.1 == fn && c.2.1 == slot)).map (·.2.2)

/-- The ring slot of the command that an event is about: the one `y` names among those taken and in progress, or the next to be
taken. -/
def State.cmdSlot (s : State) (fn : Nat) : Nat :=
  if (s.cmdTaken fn s.args.y).isSome then s.args.y else (s.fn fn).pcqhead

/-- There is a command in that slot. -/
def State.cmdHas (s : State) (fn : Nat) : Bool :=
  let f := s.fn fn
  (s.cmdTaken fn s.args.y).isSome || f.pcqhead != f.pcqtail % 2 ^ f.pcqsize

/-- The bytes of a command in a slot of the ring: as they were taken, or as they stand. -/
def State.cmdBytes (s : State) (fn slot : Nat) : List Byte :=
  (s.cmdTaken fn slot).getD (s.readBytes (memKey 2 ((s.fn fn).pcqbase.toNat + 32 * slot)) 32)

/-- A field of the event's command. -/
def State.cmdGet (s : State) (fn off n : Nat) : Nat := leNat (slice (s.cmdBytes fn (s.cmdSlot fn)) off n)

/-- The event's command is taken, and stays in progress: PCQHEAD moves on (R280). -/
def State.cmdTake (s : State) (fn : Nat) : State :=
  let f := s.fn fn
  if (s.cmdTaken fn s.args.y).isSome then s
  else
    let s : State := { s with sys := { s.sys with commands := s.sys.commands ++ [(fn, f.pcqhead, s.cmdBytes fn f.pcqhead)] } }
    s.setFn fn { f with pcqhead := (f.pcqhead + 1) % 2 ^ f.pcqsize }

/-- A command completes: STATUS is written last, and PCQHEAD has moved past it. -/
def State.cmdDone (s : State) (fn status : Nat) : State :=
  let f := s.fn fn
  let t := s.writeBytes (memKey 2 (f.pcqbase.toNat + 32 * s.cmdSlot fn + 1)) (natLE 1 status)
  if (s.cmdTaken fn s.args.y).isSome then
    { t with sys := { t.sys with commands := t.sys.commands.filter (fun c => !(c.1 == fn && c.2.1 == s.args.y)) } }
  else t.setFn fn { f with pcqhead := (f.pcqhead + 1) % 2 ^ f.pcqsize }

/-- The function a command's VFN names: the submitter itself, or a virtual function of the physical function
(R280, R398). -/
def vfnTarget (fn vfn : Nat) : Option Nat :=
  if vfn = 0xFFFF then some fn else if fn = 0 && 1 ≤ vfn && vfn ≤ 64 then some vfn else none

def State.cmdTarget (s : State) (fn : Nat) : Option Nat := vfnTarget fn (s.cmdGet fn 2 2)

/-- The addresses a command names: the function, whether guest physical, and the range; none of PREPLY. -/
def State.cmdNames (s : State) (fn : Nat) (bs : List Byte) : Option (Nat × Bool × Nat × Nat) :=
  let op := leNat (slice bs 0 1)
  let addr := leNat (slice bs 8 8)
  match vfnTarget fn (leNat (slice bs 2 2)) with
  | none => none
  | some t =>
    if op = 1 then
      let n := leNat (slice bs 4 4)
      let st2 := leNat (slice bs 0x10 8) % 2 = 1
      if n = 0 then some (t, st2, 0, 2 ^ 64) else some (t, st2, addr / 4096 * 4096, addr / 4096 * 4096 + 4096 * n)
    else if 2 ≤ op && op ≤ 6 then
      let size := 2 ^ ((s.pageLeaf t addr).map (·.bits)).getD 12
      some (t, false, addr / size * size, addr / size * size + size)
    else none

/-- An earlier command that is still in progress, of whichever ring, names a page that the event's command names (R280). -/
def State.cmdWaits (s : State) (fn : Nat) : Bool :=
  match s.cmdNames fn (s.cmdBytes fn (s.cmdSlot fn)) with
  | none => false
  | some (t, g, lo, hi) => (s.sys.commands.takeWhile (fun c => !(c.1 == fn && c.2.1 == s.args.y))).any (fun c => match s.cmdNames c.1 c.2.2 with
    | some (t', g', lo', hi') => t == t' && g == g' && lo < hi' && lo' < hi
    | none => false)

/-- A reserved field of the command is not zero (R280). -/
def State.cmdReserved (s : State) (fn : Nat) : Bool := s.cmdGet fn 1 1 != 0 || s.cmdGet fn 0x18 8 != 0

/-- Works on the event's command of function `x`, where its OP is `op`: `run` gives the state and STATUS, or nothing while the
command waits, which leaves it taken and in progress (R280). -/
def command (op : Nat) (run : State → Nat → Option (State × Nat)) (s : State) : Out :=
  let fn := s.args.x
  .next (if !s.cmdHas fn || s.cmdGet fn 0 1 != op then s
    else if s.cmdReserved fn then s.cmdDone fn 1
    else
      match s.cmdTarget fn with
      | none => s.cmdDone fn 6
      | some t =>
        if s.cmdWaits fn then s.cmdTake fn
        else
          match run s t with
          | some (s, status) => s.cmdDone fn status
          | none => s.cmdTake fn)

/-- REFUSED_COMMAND_OP (R280, R281): OP 0, or 8 to 255. -/
def execCmdRefused (s : State) : Out :=
  let fn := s.args.x
  .next (if !s.cmdHas fn || (1 ≤ s.cmdGet fn 0 1 && s.cmdGet fn 0 1 ≤ 7) then s else s.cmdDone fn 1)

/-! ### Invalidation (R296) -/

/-- The 4 KiB pages of the range that a translation of an address covers. -/
def spanPages (va bits : Nat) : List Nat := (List.range (2 ^ (bits - 12))).map (fun i => va / 2 ^ bits * 2 ^ bits + 4096 * i)

/-- A copy's lane has used translations of a range, and is not done. -/
def CopyLane.using (l : CopyLane) (covers : Nat → Bool) : Bool :=
  let meets := fun (va : Nat) => (spanPages va l.span).any covers
  l.phase = .sent && l.place.isSome
    && ((l.srcGlobal && (meets l.src.toNat || meets (l.src.toNat + l.n - 1))) || (l.dstGlobal && meets l.dst.toNat))

/-- An access of a function that used a translation of a range of addresses is still to be performed, be it to another page of a
larger or merged leaf (R296, R299); of parts those that `counts` names, and an arm on its way counts for its whole partition. -/
def State.inFlightOf (s : State) (fn : Nat) (counts : Piece → Bool) (covers : Nat → Bool) : Bool :=
  s.ops.any (fun o => s.fnOfPart o.part == fn && o.pieces.any (fun p => counts p && p.phase = .sent && p.space.isMain && (spanPages p.va.toNat p.span).any covers)
      || s.fnOfPart o.part == fn && o.lanes.any (·.using covers))
    || s.mons.any (fun m => m.phase = .arming && s.fnOfPart (s.team m.team).part == fn)

/-- Any access of a function that used such a translation is still to be performed. -/
def State.inFlight (s : State) (fn : Nat) (covers : Nat → Bool) : Bool := s.inFlightOf fn (fun _ => true) covers

/-- Drops cached translations of a function, and the cached table entries (R277 promises no hit). -/
def State.dropXlates (s : State) (fn : Nat) (p : Nat → Leaf → Bool) : State :=
  { s.dropHits (· == fn) p with walks := [] }

/-- The page of a leaf reached for an address has an address in a range of pages. -/
def Leaf.meets (l : Leaf) (va first count : Nat) : Bool :=
  let base := va / 2 ^ l.bits * 2 ^ l.bits
  base < first + 4096 * count && first < base + 2 ^ l.bits

/-- INVAL (R280, R296). -/
def execCmdInval : State → Out :=
  command 1 (fun s t =>
    let fn := s.args.x
    let first := s.cmdGet fn 8 8 / 4096 * 4096
    let n := s.cmdGet fn 4 4
    if s.cmdGet fn 0x10 8 % 2 = 1 then
      if s.inFlight t (fun _ => true) then none else some (s.dropXlates t (fun _ l => l.entry2.isSome), 0x80)
    else if s.inFlight t (fun va => n = 0 || (first ≤ va && va < first + 4096 * n)) then none
    else some (s.dropXlates t (fun va l => n = 0 || l.meets va first n), 0x80))

/-! ### Page commands (R290, R411) -/

/-- A command on the page that holds ADDR: it waits for accesses to the page in flight, but EVICT of a Partial page not for the
`abin` that it refuses (R299), and invalidates the page's
translations before it completes, whatever its STATUS (R280). -/
def pageCommand (op : Nat) (run : State → Nat → Nat → Leaf → State × Nat) : State → Out :=
  command op (fun s t =>
    let va := s.cmdGet s.args.x 8 8
    match s.pageLeaf t va with
    | none =>
      let page := va / 4096 * 4096
      if s.inFlight t (fun a => page ≤ a && a < page + 4096) then none else some (s.dropXlates t (fun va l => l.meets va page 1), 2)
    | some l =>
      let page := va / 2 ^ l.bits * 2 ^ l.bits
      let evicts := op == 5 && l.gps == 4
      if s.inFlightOf t (fun p => !(evicts && p.isBin)) (fun a => page ≤ a && a < page + 2 ^ l.bits) then none
      else
        let (s, st) := run s t page l
        some (s.dropXlates t (fun va x => x.meets va page (2 ^ l.bits / 4096)), st))

/-- The Atlas entry at an address breaks R411 for a page; so does an address that does not translate (DESIGN CHOICE, log 59). -/
def State.atlasBad (s : State) (fn at' page bits : Nat) : Bool :=
  let g := fun off n => s.vreadLE fn (at' + off) n
  let bar := g 0x28 8
  (s.keyOf fn at').isNone || g 0 8 != page || g 8 1 != (if bits = 12 then 0 else if bits = 16 then 1 else 2)
    || 2 ≤ g 0xB 1 || 2 ^ 35 ≤ bar || (bar % 2 = 1 && fld bar 34 16 % 16 != 0) || g 0x30 8 != 0 || g 0x38 8 != 0
    || !(s.groupOf fn).present

/-- Fills the Atlas entry and moves the page (R411): one step with the state change. -/
def State.adopt (s : State) (fn at' page gps : Nat) : State :=
  let g := s.groupOf fn
  let s := { s with atlas := { fn, page, addr := at' } :: s.atlas.filter (fun a => !(a.fn == fn && a.page == page)) }
  let s := (s.atlasSet fn page 9 1 g.stripe).atlasSet fn page 0xB 1 (s.agFlags fn page % 2)
  let s := (s.atlasSet fn page 0xC 4 g.version).atlasSet fn page 0x10 8 g.members
  ((s.atlasSet fn page 0x18 8 0).atlasSet fn page 0x20 8 0).moveGps fn page gps

/-- SHARD and PARTIAL: a Local page whose leaf R274 lets be a group page; one whose MT is not 0 or whose CLS is below 2 gets
STATUS 0x02 (DESIGN CHOICE, log 59). -/
def State.adoptPage (s : State) (t page : Nat) (l : Leaf) (gps : Nat) : State × Nat :=
  let at' := s.cmdGet s.args.x 0x10 8
  if l.gps != 0 then (s, 3)
  else if l.mt != 0 || l.cls < 2 then (s, 2)
  else
    let s := s.vtouch t at' 64
    if s.atlasBad t at' page l.bits then (s, 5) else (s.adopt t at' page gps, 0x80)

/-- SHARD (R290, R411): requests held for the page are served (R292). -/
def execCmdShard : State → Out :=
  pageCommand 2 (fun s t page l =>
    let (s, st) := s.adoptPage t page l 1
    (if st = 0x80 then s.serveDeferred (fun d => d.fn == t && d.page == page && d.reduce.isNone && s.fnHere t) State.serveRequest
     else s, st))

/-- DROP (R281, R290). -/
def execCmdDrop : State → Out :=
  pageCommand 3 (fun s t page l =>
    let s := s.atlasTouch t page
    if l.gps != 3 then (s, 3)
    else if Nat.land (s.agOwners t page) (s.groupOf t).members != s.agOwners t page then (s, 4)
    else (s.moveGps t page 1, 0x80))

/-- PARTIAL (R290, R411): arrivals held for the page are added, or with `ok` stand there, for their values to be added one by one
(R293). -/
def execCmdPartial : State → Out :=
  pageCommand 4 (fun s t page l =>
    let (s, st) := s.adoptPage t page l 4
    (if st = 0x80 then s.serveDeferred (fun d => d.fn == t && d.page == page && d.reduce.isSome && s.atlasHere t)
        (fun s d => if s.args.ok then s.beginArrival d.fn d.member d.page (d.reduce.getD [])
          else s.reduceArrive d.fn d.member d.page (d.reduce.getD []))
     else s, st))

/-- EVICT (R290, R293): AUX becomes the page's BAR, its bits [63:35] and its token's alignment unchecked (DESIGN CHOICE, log 59). -/
def execCmdEvict : State → Out :=
  pageCommand 5 (fun s t page l =>
    if l.gps != 4 then (s, 3)
    else ((s.atlasSet t page 0x28 8 (s.cmdGet s.args.x 0x10 8)).evictPage t page, 0x80))

/-- Zeroes the stripes of a page that this member does not own (R290). -/
def State.zeroOthers (s : State) (fn page : Nat) : State :=
  let n := 2 ^ s.agStripe fn page
  let self := (s.groupOf fn).self
  (((List.range (s.agBytes fn page / n)).filter (fun i => stripeOwner (s.agOwners fn page) i != self)).foldl
    (fun s i => s.writeStripe fn page i (List.replicate n 0)) s).freshPage fn page

/-- LOCAL (R290); an arrival that the page took as Partial is all added first (R361). -/
def execCmdLocal : State → Out :=
  pageCommand 6 (fun s t page l =>
    if l.gps = 1 || l.gps = 6 then ((s.zeroOthers t page).moveGps t page 0, 0x80)
    else if l.gps = 3 || l.gps = 4 then ((s.finishArrivals t page).moveGps t page 0, 0x80)
    else (s, 3))

/-! ### Replies to page requests (R283, R287) -/

/-- A page request ends: frames that wait on it are woken, and after a failed reply whatever waited on it meets Page-fault
(R287). -/
def State.answer (s : State) (r : PageReq) (failed : Bool) : State :=
  let bad := if failed then [(r.page, r.stage2)] else []
  let at' := (r.page, r.stage2)
  let frame := fun (f : Frame) => if f.wait = .request r.id then { f with woken := true, failed := bad.head? } else f
  let ctx := fun (c : Ctx) =>
    if s.fnOf c != r.fn then c
    else
      let c := if c.stall = some (.request r.page r.stage2) then { c with failed := bad ++ c.failed } else c
      { c with frags := c.frags.map (fun f => f.map (fun (f : Frag) =>
        if f.stall = some (.request r.page r.stage2) then { f with failed := bad ++ f.failed } else f)) }
  let lane := fun (l : CopyLane) => if l.wait = some at' then { l with wait := none, failed := bad ++ l.failed } else l
  let op := fun (o : Op) => match o.kind with
    | .copy tag ls e a => if s.fnOfPart o.part == r.fn then { o with kind := .copy tag (ls.map lane) e a } else o
    | _ => o
  let fill := fun (f : Fill) =>
    if f.wait = some at' && s.fnOfPart (s.team f.team).part == r.fn then { f with wait := none, failed := bad ++ f.failed } else f
  let quad := fun (e : Nat × Quad) => (e.1, { e.2 with fills := e.2.fills.map fill })
  let coll := fun (c : Coll) =>
    if c.wait = some at' && s.fnOfPart (s.team c.team).part == r.fn then { c with wait := none, failed := bad ++ c.failed } else c
  let key := (r.fn, r.page, r.stage2)
  let ring := fun (e : Nat × Ring) =>
    if e.2.asked.contains key then
      (e.1, { e.2 with asked := e.2.asked.filter (· != key), failed := if failed then key :: e.2.failed else e.2.failed })
    else e
  { s with requests := s.requests.filter (·.id != r.id), rings := s.rings.map ring, frames := s.frames.map frame, cur := ctx s.cur,
           others := s.others.map ctx, ops := s.ops.map op, quads := s.quads.map quad, colls := s.colls.map coll }

/-- PREPLY (R280, R283): the tag names an outstanding request of the submitter's stage-1 ring, or of the stage-2 ring of
the virtual function in VFN. -/
def execCmdPreply : State → Out :=
  command 7 (fun s t =>
    let fn := s.args.x
    let arg := s.cmdGet fn 4 4
    let stage2 := s.cmdGet fn 2 2 != 0xFFFF
    if 2 ≤ fld arg 31 16 then some (s, 1)
    else
      match s.requests.find? (fun r => r.fn == t && r.stage2 == stage2 && r.tag = some (fld arg 15 0)) with
      | none => some (s, 1)
      | some r => some (s.answer r (fld arg 16 16 = 1), 0x80))

end Sys2Proof.Machine
end

