-- ==== Sys2Proof/Machine/GroupEvents.lean ====
section
/-! DEFINITION. Messages between the members of a shard group (R264, R265, R292 to R295, R361).  An event names the
function whose tenant it concerns in `x`, the other member in `y`, and a page in `value`. -/

namespace Sys2Proof.Machine

/-- STRIPE_REQUEST from member `y` for the stripes `nats` of the page `value`, naming version `z` (R265, R292). -/
def execStripeRequest (s : State) : Out :=
  let d : Deferred := { fn := s.args.x, member := s.args.y, page := s.args.value.toNat, version := s.args.z, stripes := s.args.nats }
  .next (if s.fnHere d.fn then s.serveRequest d else s.defer d)

/-- STRIPE_REQUEST_RESEND to member `y`, whose busy reply came at time `z` (R265). -/
def execStripeRequestResend (s : State) : Out :=
  let fn := s.args.x
  let page := s.args.value.toNat
  .next (if s.gpsOf fn page = 2 && s.agPend fn page / 2 ^ s.args.y % 2 = 1 && s.args.z + 1000 ≤ s.time then
      s.ask fn page s.args.y
    else s)

/-- The stripes of a reply are written at home; the last reply makes the page Gathered (R264, R297). -/
def State.takeStripes (s : State) (fn member page : Nat) (stripes : List (Nat × List Byte)) : State :=
  let due := s.stripesOf fn page member
  let n := 2 ^ s.agStripe fn page
  let s := (stripes.filter (fun e => due.contains e.1)).foldl (fun s (i, bs) => s.writeStripe fn page i (bs.take n)) s
  if due.all (fun i => stripes.any (fun e => e.1 == i)) then
    let s := s.atlasSet fn page 0x18 8 (maskDrop (s.agPend fn page) member)
    if s.agPend fn page = 0 then s.gathered fn page else s
  else s

/-- STRIPE_REPLY of member `y`, naming version `z` (R264, R290, R292, R299): one under another version, or for a page that
no longer gathers, is discarded; a refusal as stale is asked again; any other refusal orphans the page. -/
def execStripeReply (s : State) : Out :=
  let fn := s.args.x
  let page := s.args.value.toNat
  let g := s.groupOf fn
  .next (if s.gpsOf fn page != 2 || s.agPend fn page / 2 ^ s.args.y % 2 = 0 then s
    else
      match s.args.reply with
      | .notMember => s.ask fn page s.args.y
      | .stripes => if s.args.z = g.version then s.takeStripes fn s.args.y page s.args.stripes else s
      | _ => if s.args.z = g.version then s.orphan fn page else s)

/-- PEER_SLOW: of the gather of the page `value`, or, with `z` nonzero, of the collective `z` (R265, R357). -/
def execPeerSlow (s : State) : Out :=
  let fn := s.args.x
  let page := s.args.value.toNat
  let limit := 1000 * (s.groupOf fn).timeout
  .next (if s.args.z = 0 then
      match s.gathers.find? (fun g => g.fn == fn && g.page == page && !g.slow && g.start + limit ≤ s.time) with
      | none => s
      | some _ =>
        let mark := fun (g : Gather) => if g.fn == fn && g.page == page then { g with slow := true } else g
        { s with gathers := s.gathers.map mark }.event fn 3 (s.partOfFn fn) page
    else
      match s.colls.find? (fun c => c.id == s.args.z && c.started && !c.complete && !c.slow && c.start + limit ≤ s.time
          && s.fnOfPart (s.team c.team).part == fn) with
      | none => s
      | some c =>
        let mark := fun (k : Coll) => if k.id == c.id then { k with slow := true } else k
        { s with colls := s.colls.map mark }.event fn 3 (s.partOfFn fn) (fld c.desc 127 64))

/-! ### Agreement (R294) -/

/-- The version that the group agent works from: the latest committed one, applied or not (R295). -/
def Shard.latest (g : Shard) : Nat := ((g.pending.getLast?).map (·.1)).getD g.version
def Shard.latestMembers (g : Shard) : Nat := ((g.pending.getLast?).map (·.2)).getD g.members

/-- The partition of a function is swapped out, or stopped by heat (R295, R408). -/
def State.fnAway (s : State) (fn : Nat) : Bool := !s.fnHere fn

/-- Ends the membership operations of a partition that a test picks, with a STATUS (R358). -/
def State.endMembers (s : State) (part : Nat) (status : Nat → Nat → Option Nat) : State :=
  let f := fun (o : Op) => match o.kind with
    | .member sub mask _ =>
      if o.part == part && !o.done && o.pieces.all (·.act != .load) then
        (match status sub mask with
         | some st => o.memberDone s.time sub mask st
         | none => o)
      else o
    | _ => o
  { s with ops := s.ops.map f }

/-- What a committed mask answers to a membership operation: `gset` proposed a mask, `gjoin` and `gleave` one member
(R358). -/
def memberStatus (committed sub mask : Nat) : Option Nat :=
  let has := Nat.land committed mask != 0
  some (if sub = 1 then (if committed = mask then 0 else 1) else if sub = 2 then (if has then 0 else 1) else if has then 1 else 0)

/-- A group's forming or a join fails: STATUS 1 (R358). -/
def State.failRound (s : State) (part : Nat) : State :=
  (s.setShard part { s.shard part with round := none }).endMembers part (fun _ _ => some 1)

/-- When a member was last heard. -/
def Shard.heardAt (g : Shard) (m : Nat) : Nat := ((g.heard.find? (fun e => e.1 == m)).map (·.2)).getD 0

/-- Commits a version: applied at once, or at swap-in (R295); the membership operations that waited for it end, and a
member that joins counts as just heard. -/
def State.commit (s : State) (fn version mask : Nat) : State :=
  let part := s.partOfFn fn
  let s := s.endMembers part (memberStatus mask)
  let g := s.shard part
  let g := { g with heard := (maskMembers mask).map (fun m => (m, if g.members / 2 ^ m % 2 = 1 then g.heardAt m else s.time)) }
  let s := s.setShard part { g with round := none }
  if s.fnAway fn then s.setShard part { g with round := none, pending := g.pending ++ [(version, mask)] }
  else s.applyVersion part version mask

/-- Commits the round in progress once every member of its mask has accepted (R294). -/
def State.tryCommit (s : State) (fn : Nat) : State :=
  match (s.groupOf fn).round with
  | some r => if Nat.land r.mask r.accepted = r.mask then s.commit fn r.version r.mask else s
  | none => s

/-- Sends a message of a round to the other members of a mask. -/
def State.sendAll (s : State) (self mask : Nat) (m : Nat → Msg) : State :=
  (maskMembers (maskDrop mask self)).foldl (fun s k => s.send (m k)) s

/-- Proposes a mask for the next version; the proposer accepts it (R294). -/
def State.propose (s : State) (fn mask : Nat) : State :=
  let part := s.partOfFn fn
  let g := s.shard part
  let r : Round := { proposer := g.self, start := s.time, version := g.latest + 1, mask, accepted := 2 ^ g.self }
  ((s.setShard part { g with round := some r }).sendAll g.self (Nat.lor mask g.latestMembers)
    (fun _ => .proposal fn r.version mask)).tryCommit fn

/-- HEARTBEAT (R294, R402): with `ok`, one from member `y` arrives; else this member's own is sent, every 100 µs while a
link is up. -/
def execHeartbeat (s : State) : Out :=
  let fn := s.args.x
  let part := s.partOfFn fn
  let g := s.shard part
  .next (if !g.present then s
    else if s.args.ok then
      s.setShard part { g with heard := (s.args.y, s.time) :: g.heard.filter (fun e => e.1 != s.args.y) }
    else if g.lastBeat + 100000 ≤ s.time && s.sys.links != 0 then
      (s.setShard part { g with lastBeat := s.time }).send (.heartbeat fn)
    else s)

/-- MEMBER_SILENCE_TIMEOUT of member `y` (R294): removed from this member's own proposal if it has not accepted, or
proposed out where `ok` says that no member of lower index sees the silence, be it the proposer of the round that stands. -/
def execMemberSilenceTimeout (s : State) : Out :=
  let fn := s.args.x
  let m := s.args.y
  let part := s.partOfFn fn
  let g := s.shard part
  let limit := 1000 * g.timeout
  let silent := g.present && g.latestMembers / 2 ^ m % 2 = 1 && g.heardAt m + limit ≤ s.time && s.args.ok
  .next (if m = g.self then s
    else
      match g.round with
      | some r =>
        if !g.present && r.version = 1 then
          (if r.mask / 2 ^ m % 2 = 1 && r.accepted / 2 ^ m % 2 = 0 && r.start + limit ≤ s.time then s.failRound part else s)
        else if r.proposer = g.self && r.mask / 2 ^ m % 2 = 1 && r.accepted / 2 ^ m % 2 = 0 && r.start + limit ≤ s.time then
          let r' := { r with mask := maskDrop r.mask m }
          ((s.setShard part { g with round := some r' }).sendAll g.self r'.mask
            (fun _ => .proposal fn r'.version r'.mask)).tryCommit fn
        else if r.proposer = m && silent then s.propose fn (maskDrop g.latestMembers m)
        else s
      | none => if silent then s.propose fn (maskDrop g.latestMembers m) else s)

/-- AGREEMENT_PROPOSAL by member `y` of version `z` with the mask `value` (R294): the first one for the version is accepted; of
two, the one of the lower-indexed proposer stays, while that proposer is heard.  While a group forms, it is another member's
`gset`, and `ok` says that the records match (R358). -/
def execAgreementProposal (s : State) : Out :=
  let fn := s.args.x
  let part := s.partOfFn fn
  let g := s.shard part
  let mask := s.args.value.toNat
  let older := match g.round with
    | some r => r.version = s.args.z && r.proposer < s.args.y && s.time < g.heardAt r.proposer + 1000 * g.timeout
    | none => false
  .next (if !g.present then
      match g.round with
      | none => s
      | some r =>
        if s.args.z != r.version then s
        else if r.version = 1 then
          (if mask = r.mask && s.args.ok then
            (s.setShard part { g with round := some { r with accepted := Nat.lor r.accepted (2 ^ s.args.y) } }).tryCommit fn
          else s.failRound part)
        else if s.args.y < r.proposer then s.failRound part else s
    else if s.args.z != g.latest + 1 || older then s
    else
      let before := match g.round with
        | some r => if r.proposer = s.args.y then r.accepted else 0
        | none => 0
      let me := if mask / 2 ^ g.self % 2 = 1 then 2 ^ g.self else 0
      let r : Round := { proposer := s.args.y, start := s.time, version := s.args.z, mask,
                         accepted := Nat.lor before (Nat.lor me (2 ^ s.args.y)) }
      let s := s.setShard part { g with round := some r }
      let s := if me = 0 then s else s.sendAll g.self (Nat.lor mask g.latestMembers) (fun _ => .accept fn s.args.z s.args.y)
      s.tryCommit fn)

/-- AGREEMENT_ACCEPT by member `y` of version `z` as member `value` proposed it (R294). -/
def execAgreementAccept (s : State) : Out :=
  let fn := s.args.x
  let part := s.partOfFn fn
  let g := s.shard part
  .next (match g.round with
    | some r =>
      if r.version = s.args.z && r.proposer = s.args.value.toNat then
        (s.setShard part { g with round := some { r with accepted := Nat.lor r.accepted (2 ^ s.args.y) } }).tryCommit fn
      else s
    | none => s)

/-! ### Reductions (R293, R361) -/

/-- REDUCE_STRIPE_ARRIVAL of the stripes of member `y` for the page `value`: with `z` = 0 its values are added with nothing between;
with `z` = 1 it stands at the owner, and with `z` = 2 some of the values of one that stands are added, those at the offsets `nats`
(R293). -/
def execReduceStripeArrival (s : State) : Out :=
  let fn := s.args.x
  let page := s.args.value.toNat
  let partial' := s.gpsOf fn page = 4 || s.gpsOf fn page = 5
  .next (if s.args.z = 2 then
      match s.arrivals.find? (fun a => a.fn == fn && a.member == s.args.y && a.page == page) with
      | some a => if s.atlasHere fn && partial' then s.addSome a s.args.nats else s
      | none => s
    else if s.args.z = 1 && s.atlasHere fn && partial' then s.beginArrival fn s.args.y page s.args.stripes
    else if s.atlasHere fn then s.reduceArrive fn s.args.y page s.args.stripes
    else s.defer { fn, member := s.args.y, page, reduce := some s.args.stripes })

/-- REDUCE_ACKNOWLEDGEMENT of member `y` for the page `value` (R293). -/
def execReduceAcknowledgement (s : State) : Out :=
  let fn := s.args.x
  let page := s.args.value.toNat
  .next (if s.gpsOf fn page = 5 then
      (s.atlasSet fn page 0x18 8 (maskDrop (s.agPend fn page) s.args.y)).reduceCheck fn page
    else s)

end Sys2Proof.Machine
end

