-- ==== Sys2Proof/Machine/Frames.lean ====
section
/-! DEFINITION. The frame-tile instructions 0xD0 to 0xD4 and 0xD9 (R203, R208, R209), the team barrier and barrier objects
0xD5 to 0xD8 (R212 to R214). -/

namespace Sys2Proof.Machine

/-- Frame-point (R215). -/
def framePoint (detail : Nat) (p : Word) : Trap := { code := 0x28, detail, tval := p.setWidth 64 }

/-- `susp` (R203).  DESIGN CHOICE (log 51): the LASTWCT that a pair keeps counts from rows that went straight to the spill area
while no tile was bound, and goes with the pair into the tile bound later. -/
def execSusp (x : Short) (s : State) : Out :=
  issue (.susp x) s (fun s =>
    let c := s.cur
    let id := x.imm.getD 0
    let p := id.toNat
    let t := s.team c.team
    match t.kern.named p with
    | none => s.raise (framePoint 0 id)
    | some pt0 =>
      let pt := s.pointNow t pt0
      if c.inh then s.raise (framePoint 3 id)
      else
      let s := s.pointUse t pt0
      if pt.live.any (c.acq ≤ ·) then s.raise (framePoint 1 id)
      else if !c.idle then s.hold (.susp 0 0)
      else
        let e := c.exm
        if e == 0 then s.upd (fun c => c.putNone (Instr.size (.susp x)))
        else
          match s.rowPlaces c.team p (popcount e) with
          | none => s.hold (.susp p (popcount e))
          | some (s, places) =>
            let s := ((lanesOf e).zip places).foldl (fun s (i, pl) => s.writeRow c p pt i pl) s
            let t := s.team c.team
            let q := t.pair p
            let s := s.setTeam (t.setPair { q with twct := max q.twct c.lastwct })
            let next := c.nextHdr
            let more := c.frag.fmask &&& ~~~e != 0
            let s := s.upd (fun c => { c with clause := {}, stall := none }.leave e)
            if s.cur.empty then s.endCtx s.cur.uid
            else if more then s.upd (fun c => { c.closeClause next with yielded := false }) else s)

/-- A group-uniform instruction on a declared point A (R209). -/
def pointOp (i : Instr) (x : Short) (f : Point → Team → State → State) (s : State) : Out :=
  issue i s (fun s =>
    let a := s.cur.uni (x.imm.getD 0) x.w.a
    let t := s.team s.cur.team
    match t.kern.named a.toNat with
    | none => s.raise (framePoint 0 a)
    | some p => f p t s)

/-- The sleeping rows of a pair, in the tile or outside, oldest first. -/
def Team.sleeping (t : Team) (p : Nat) : List Row := byAge ((t.rowsOf p).filter (!·.woke))

/-- `fwake` (R209). -/
def execFwake (x : Short) : State → Out :=
  pointOp (.fwake x) x (fun p t s =>
    let n := (s.cur.uni (x.imm.getD 0) x.w.b).toNat
    (s.wakeRows t.id ((t.sleeping p.id).take n)).upd (fun c => c.putNone (Instr.size (.fwake x))))

/-- `fthr` (R209). -/
def execFthr (x : Short) : State → Out :=
  pointOp (.fthr x) x (fun p t s =>
    let n := (s.cur.uni (x.imm.getD 0) x.w.b).toNat
    if n = 0 || 32 < n then s.raise (framePoint 4 (s.cur.uni (x.imm.getD 0) x.w.a))
    else (s.setTeam (t.setPair { t.pair p.id with thresh := some n })).upd (fun c => c.putNone (Instr.size (.fthr x))))

/-- `fflush` (R209): a load is due now if a row of the pair is woken, in its tile or outside. -/
def execFflush (x : Short) : State → Out :=
  pointOp (.fflush x) x (fun p t s =>
    let s := if (t.rowsOf p.id).any (·.woke) then s.setTeam (t.setPair { t.pair p.id with flushDue := true }) else s
    s.upd (fun c => c.putNone (Instr.size (.fflush x))))

/-- `fstat` (R209). -/
def execFstat (x : Short) : State → Out :=
  pointOp (.fstat x) x (fun p t s =>
    s.upd (fun c => c.putS x.w (Instr.size (.fstat x)) (word (t.sleeping p.id).length)))

/-- The operation of `fxform` on a column, with its flags (R208). -/
def fxformOp (subop : Nat) (rnd : Rnd) (col b : Word) : Word × Word :=
  let f := fun (r : Exact) => let o := fp32.round rnd false 0 r; (word o.code, o.flags)
  let x := (fp32.read col.toNat).exact
  let y := (fp32.read b.toNat).exact
  match subop with
  | 0 => (col + b, 0) | 1 => (col - b, 0) | 2 => (col &&& b, 0) | 3 => (col ||| b, 0) | 4 => (col ^^^ b, 0) | 5 => (b, 0)
  | 6 => f (Exact.add (rnd = .rdn) x y)
  | _ => f (Exact.mul x y)

/-- `fxform` (R208).  DESIGN CHOICE (log 51): it checks and finds its column by the LIVE that the dispatcher read as the grid started;
R177 lists reads of an entry at suspend, resume and flashback alone. -/
def execFxform (x : Long) (s : State) : Out :=
  issue (.fxform x) s (fun s =>
    let c := s.cur
    let a := c.opA x 0
    let t := s.team c.team
    match t.kern.named a.toNat with
    | none => s.raise (framePoint 0 a)
    | some p =>
      match p.live.findIdx? (· == x.w.dst.toNat) with
      | none => s.raise (framePoint 2 a)
      | some j =>
        let b := c.opB x 0
        let rnd := effRnd c.mode false x.m.rnd
        let rows := t.sleeping p.id
        let res := fun (r : Row) => fxformOp x.m.subop.toNat rnd (r.cols.getD j 0) b
        let s := rows.foldl (fun s r => s.setRow t.id { r with cols := r.cols.set j (res r).1 }) s
        s.upd (fun c => (c.stick (joinFlags (rows.map (fun r => (res r).2)))).putNone (Instr.size (.fxform x))))

/-! ### The team barrier (R212, R214) -/

/-- The groups of a team that are resident. -/
def State.groupsOf (s : State) (team : Nat) : List Ctx :=
  s.ctxs.filter (fun c => c.kind = .group && c.team == team && !c.ended)

/-- A group has arrived at a barrier: ST reads 0 and each of its fragments waits there or is parked. -/
def Ctx.arrivedAt (c : Ctx) (n : Nat) : Bool :=
  c.counter 1 == 0 && c.frags.all (fun o => match o with
    | some f => f.bar = some n && !f.barGo
    | none => true)

/-- Barrier-abandoned is due to a group at a barrier instruction (R214). -/
def State.abandonDue (s : State) : Bool :=
  s.cur.kind = .group && (s.team s.cur.team).abandoned && !s.cur.abandonTaken

/-- Takes Barrier-abandoned, once in a group's life. -/
def State.takeAbandoned (s : State) (detail : Nat) : State :=
  (s.upd (fun c => { c with abandonTaken := true })).raise { code := 0x2A, detail }

/-- A fragment's `bar` or `racq` has all it waited for, and has only to go on (R199, R212). -/
def Frag.served (f : Frag) : Bool := f.barGo || (f.racq.map (·.taken)).getD false

/-- The fragments of a group that wait at a barrier may go on. -/
def Ctx.barOpen (n : Nat) (c : Ctx) : Ctx :=
  { c with frags := c.frags.map (·.map (fun f => if f.bar = some n then { f with barGo := true } else f)) }

/-- A barrier at which every resident group of its team has arrived completes: all that wait there may go on (R212). -/
def State.openBar (s : State) (team n : Nat) : State :=
  if (s.groupsOf team).all (·.arrivedAt n) then (s.groupsOf team).foldl (fun s c => s.setCtx (c.barOpen n)) s else s

/-- The barriers that groups wait at complete whose last group has arrived, by an issue, by its stores' retirement or by the end of
one that had not (R212). -/
def State.openBars (s : State) : State :=
  let at' := fun (c : Ctx) => c.frags.filterMap (fun o => o.bind (fun f => if f.barGo then none else f.bar.map (fun n => (c.team, n))))
  ((s.ctxs.filter (fun c => c.kind = .group && !c.ended)).flatMap at').eraseDups.foldl (fun s e => s.openBar e.1 e.2) s

/-- A fragment stands at a barrier, and goes on where that has completed. -/
def State.barWait (s : State) (n size : Nat) : State :=
  let s := (s.upd (fun c => c.setFrag { c.frag with bar := some n })).openBar s.cur.team n
  if s.cur.frag.barGo then s.upd (fun c => (c.setFrag { c.frag with bar := none, barGo := false }).putNone size) else s.hold .bar

/-- `bar` (R212): a fragment that waits already waits at the barrier that it named as it issued. -/
def execBar (x : Short) (s : State) : Out :=
  issue (.bar x) s (fun s =>
    let n := (s.cur.uni (x.imm.getD 0) x.w.a).toNat
    let size := Instr.size (.bar x)
    if s.cur.frag.barGo then s.upd (fun c => (c.setFrag { c.frag with bar := none, barGo := false }).putNone size)
    else if s.cur.frag.bar.isNone && 15 < n then s.raise (illegalOperand 0)
    else if s.abandonDue then (s.upd (fun c => c.setFrag { c.frag with bar := none })).takeAbandoned 0
    else s.barWait (s.cur.frag.bar.getD n) size)

/-! ### Barrier objects (R213) -/

/-- The checks of an object's address: 16-byte alignment and the whole object inside the scratchpad (R140, R141). -/
def State.objectTrap (s : State) (a : Word) : Option Trap :=
  if a.toNat % 16 != 0 then some { code := 6, tval := a.setWidth 64 }
  else if s.scratchSize < a.toNat + 16 then some { code := 7, detail := 1, tval := a.setWidth 64 }
  else none

/-- An instruction on the object at A. -/
def objectOp (i : Instr) (x : Short) (f : Nat → Team → State → State) (s : State) : Out :=
  issue i s (fun s =>
    let a := s.cur.uni (x.imm.getD 0) x.w.a
    match s.objectTrap a with
    | some t => s.raise t
    | none => f a.toNat (s.team s.cur.team) s)

/-- `binit` (R213). -/
def execBinit (x : Short) : State → Out :=
  objectOp (.binit x) x (fun a t s =>
    let n := (s.cur.uni (x.imm.getD 0) x.w.b).toNat
    if n = 0 then s.raise { code := 0x2B, tval := word64 a }
    else (s.setTeam (t.makeObject a n)).upd (fun c => c.putNone (Instr.size (.binit x))))

/-- `arrive` (R213); a control thread waits for nothing (R310, R328). -/
def execArrive (x : Short) : State → Out :=
  objectOp (.arrive x) x (fun a t s =>
    if s.abandonDue then s.takeAbandoned 1
    else if s.cur.kind = .group && s.cur.counter 1 != 0 then s.hold .arrive
    else if t.rd (a + 4) 4 = 0 then s.raise { code := 0x2B, detail := 1, tval := word64 a }
    else (s.setTeam (t.arrive a)).upd (fun c => c.putS x.w (Instr.size (.arrive x)) (word (t.rd (a + 8) 4))))

/-- `bwait` (R213). -/
def execBwait (x : Short) : State → Out :=
  objectOp (.bwait x) x (fun a t s =>
    if s.abandonDue then s.takeAbandoned 2
    else if t.rd (a + 8) 4 = (s.cur.uni (x.imm.getD 0) x.w.b).toNat then s.hold .bwait
    else s.upd (fun c => c.putNone (Instr.size (.bwait x))))

end Sys2Proof.Machine
end

