-- ==== Sys2Proof/Machine/MatrixVal.lean ====
section
/-! DEFINITION. What a matrix pass computes: layouts (R302, R314, R339), the values of A and B (R318, R319), the sums
(R322), and the signature (R329). -/

namespace Sys2Proof.Machine

/-! ### Layouts -/

/-- The bits of an element of a format record. -/
def elemBits (r : Nat) : Nat :=
  match fmtKind r with
  | 0 => 32 | 1 => 16 | 2 => 16 | 6 => 4 | 8 => 4 | _ => 8

def isAq (r : Nat) : Bool := fmtKind r = 7 || fmtKind r = 8
def isBe (r : Nat) : Bool := fmtKind r = 9 || fmtKind r = 10
def isInt (r : Nat) : Bool := fmtKind r = 5 || fmtKind r = 6

/-- The groups of a row of 384 elements: NG (R314, R339); 0 where the format has no scales. -/
def groupsPerRow (r : Nat) : Nat := if isAq r || isBe r then 384 / max 1 (fmtBlock r) else 0

/-- The bytes of 384 elements of one row. -/
def rowBytesOf (r : Nat) : Nat := 48 * elemBits r

/-- LEN, SOFF and ZOFF of a range (R314). -/
def rangeLen (r kind : Nat) : Nat :=
  if kind = 1 then (if fmtKind r = 0 then 32768 else 16384)
  else if isAq r then 64 * rowBytesOf r + 192 * groupsPerRow r
  else if isBe r then 25088
  else 64 * rowBytesOf r

def rangeSoff (r kind : Nat) : Nat := if kind != 1 && (isAq r || isBe r) then 64 * rowBytesOf r else 0
def rangeZoff (r kind : Nat) : Nat := if kind != 1 && isAq r then rangeSoff r kind + 128 * groupsPerRow r else 0

/-- The bytes of a B tile's side array (R339). -/
def sideLen (r : Nat) : Nat := if isAq r then 384 * groupsPerRow r else if isBe r then 1024 else 0

/-- A code from bytes: half a byte for a 4-bit format, two bytes for a 16-bit one; `row` is where the row starts. -/
def codeAt (r : Nat) (f : Nat → Nat) (row k : Nat) : Nat :=
  match elemBits r with
  | 4 => f (row + k / 2) / (if k % 2 = 0 then 1 else 16) % 16
  | 8 => f (row + k)
  | _ => f (row + 2 * k) + 256 * f (row + 2 * k + 1)

/-- The code of A's element (m, k) (R314), and of B's element (k, n) (R302, R317). -/
def codeA (r : Nat) (f : Nat → Nat) (m k : Nat) : Nat := codeAt r f (m * rowBytesOf r) k
def codeB (r : Nat) (f : Nat → Nat) (n k : Nat) : Nat := codeAt r f (if elemBits r = 4 then 192 * n else 384 * n) k

/-! ### Values -/

/-- A two's-complement code of a width. -/
def signed (bits code : Nat) : Int := if 2 ^ (bits - 1) ≤ code then (code : Int) - 2 ^ bits else code

/-- An integer as an exact value. -/
def exactInt (x : Int) : Exact := if x = 0 then .zero false else .real (x < 0) x.natAbs 1

/-- An element's own value (R72): a NaN is quiet here (R78, R322). -/
def elemExact (r code : Nat) : Exact :=
  let quiet := fun (x : Exact) => match x with
    | .nan _ => .nan false
    | y => y
  match fmtKind r with
  | 3 | 9 => quiet (fE4M3.read code).exact
  | 4 | 10 => quiet (fE5M2.read code).exact
  | 5 => exactInt (signed 8 code)
  | 6 => exactInt (signed 4 code)
  | 1 => quiet (fp16.read code).exact
  | 2 => quiet (bf16.read code).exact
  | _ => exactInt code

/-- scale × (q − z), NaN-for-block under an infinite or NaN scale (R76, R78). -/
def aqExact (r code scale zp : Nat) : Exact :=
  match (fp16.read scale).exact with
  | .nan _ => .nan false
  | .inf _ => .nan false
  | x => Exact.mul x (exactInt ((code : Int) - (if fmtKind r = 8 then zp % 16 else zp : Nat)))

/-- f × 2^(c − 127), NaN-for-block under code 0xFF (R77, R78). -/
def beExact (r code c : Nat) : Exact := if c = 255 then .nan false else (elemExact r code).scale ((c : Int) - 127)

/-- A scaled or plain element: `side` reads the side array at an offset, `soff` and `zoff` give the places of scale and
zero point of the element's group. -/
def elemAt (r code : Nat) (side : Nat → Nat) (soff zoff : Nat) : Exact :=
  if isAq r then aqExact r code (side soff + 256 * side (soff + 1)) (side zoff)
  else if isBe r then beExact r code (side soff)
  else elemExact r code

/-- The exponent and integer significand of a 16-bit code (R319). -/
def expSig (f : Fmt) (code : Nat) : Int × Nat :=
  let e := code / 2 ^ f.mbits % 2 ^ f.ebits
  let m := code % 2 ^ f.mbits
  ((max e 1 : Nat) - ((2 ^ (f.ebits - 1) - 1 : Nat) : Int), if e = 0 then m else m + 2 ^ f.mbits)

/-- Rounds n / d to the nearest integer, ties to even. -/
def rneDiv (n d : Nat) : Nat :=
  let q := n / d
  let r := n % d
  if 2 * r > d || (2 * r = d && q % 2 = 1) then q + 1 else q

/-- A block of 16-bit codes, masked terms as 0, aligned (R319). -/
def alignBlock (f : Fmt) (codes : List Nat) : List Exact :=
  let bad := codes.any (fun c => match f.read c with
    | .fin _ _ _ => false
    | _ => true)
  if bad then codes.map (fun _ => .nan false)
  else
    let es := (codes.filter (fun c => (expSig f c).2 != 0)).map (fun c => (expSig f c).1)
    let emax := es.foldl max (es.headD 0)
    let p := f.mbits + 1
    codes.map (fun c =>
      let (e, s) := expSig f c
      let m := if s = 0 then 0 else rneDiv (s * 2 ^ (15 - p)) (2 ^ (emax - e).toNat)
      if m = 0 then .zero false else (Exact.real (2 ^ (f.ebits + f.mbits) ≤ c) m 1).scale (emax - 14))

/-- Row m of A: 384 values (R319).  `f` reads an element byte and `side` a byte of the range. -/
def rowA (r : Nat) (f side : Nat → Nat) (kp m : Nat) : List Exact :=
  let code := fun k => codeA r f m k
  match fmtKind r with
  | 1 => (List.range 8).flatMap (fun j => alignBlock fp16 ((List.range 48).map (fun t => if bitOf kp (48 * j + t) then code (48 * j + t) else 0)))
  | 2 => (List.range 8).flatMap (fun j => alignBlock bf16 ((List.range 48).map (fun t => if bitOf kp (48 * j + t) then code (48 * j + t) else 0)))
  | _ =>
    let ng := groupsPerRow r
    let soff := rangeSoff r 0
    (List.range 384).map (fun k =>
      let g := k / max 1 (fmtBlock r)
      elemAt r (code k) side (if isBe r then soff + 8 * m + g else soff + 2 * (m * ng + g)) (rangeZoff r 0 + m * ng + g))

/-- Column n of B: 384 values (R318). -/
def colB (r : Nat) (tile side : Nat → Nat) (n : Nat) : List Exact :=
  let ng := groupsPerRow r
  (List.range 384).map (fun k =>
    let g := k / max 1 (fmtBlock r)
    elemAt r (codeB r tile n k) side (if isBe r then 8 * n + g else 2 * (ng * n + g)) (256 * ng + ng * n + g))

/-! ### A pass (R322) -/

/-- The admitted products of a block. -/
def leafTerms (kp j : Nat) (a b : List Exact) : List Exact :=
  ((List.range 48).map (48 * j + ·)).filterMap (fun k =>
    if bitOf kp k then some (Exact.mul (a.getD k (.zero false)) (b.getD k (.zero false))) else none)

/-- A NaN among terms, or infinities of both signs: whether any of it sets IV, whatever stands beside it (R81, R322). -/
def leafNaN (ts : List Exact) : Option Bool :=
  let both := ts.contains (.inf false) && ts.contains (.inf true)
  if both || ts.contains (.nan true) then some true else if ts.contains (.nan false) then some false else none

/-- The exact sum of the admitted products of a block; an empty or zero sum is +0. -/
def leafSum (kp j : Nat) (a b : List Exact) : Exact :=
  let ts := leafTerms kp j a b
  match leafNaN ts with
  | some iv => .nan iv
  | none => match ts.foldl (Exact.add false) (.zero false) with
    | .zero _ => .zero false
    | x => x

/-- Rounds to FP32 by RNE: the code and the flags. -/
def round32 (x : Exact) : Nat × Word := let r := fp32.round .rne false 0 x; (r.code, r.flags)

/-- An FP32 addition of codes with the flags gathered. -/
def add32 (x y : Nat × Word) : Nat × Word :=
  let r := round32 (Exact.add false (fp32.read x.1).exact (fp32.read y.1).exact)
  (r.1, x.2 ||| y.2 ||| r.2)

/-- The float path's entry: eight leaves and the fixed tree. -/
def floatEntry (kp : Nat) (a b : List Exact) : Nat × Word :=
  let leaf := fun j => round32 (leafSum kp j a b)
  let q := fun i => add32 (leaf (2 * i)) (leaf (2 * i + 1))
  add32 (add32 (q 0) (q 1)) (add32 (q 2) (q 3))

/-- The integer path's entry before SAT. -/
def intEntry (kp : Nat) (a b : List Int) : Int :=
  (List.range 384).foldl (fun (s : Int) k => if bitOf kp k then s + a.getD k 0 * b.getD k 0 else s) 0

/-- An exact integer as an Int. -/
def Exact.toInt : Exact → Int
  | .real neg n d => if neg then -((n / d : Nat) : Int) else (n / d : Nat)
  | _ => 0

/-- The type a pass of two records leaves (R320, R322). -/
def pathType (a b : Nat) : AccType := if isInt a && isInt b then .i32 else .f32

/-- An entry after a pass: `old` is the accumulator's word. -/
def passEntry (ty : AccType) (acc sat : Bool) (kp : Nat) (a b : List Exact) (old : Word) : Word × Word :=
  match ty with
  | .i32 =>
    let t := intEntry kp (a.map Exact.toInt) (b.map Exact.toInt)
    let t := if acc then t + old.toInt else t
    let hi : Int := 2 ^ 31 - 1
    if sat && (t > hi || t < -hi - 1) then (BitVec.ofInt 32 (if t > hi then hi else -hi - 1), fSA) else (BitVec.ofInt 32 t, 0)
  | _ =>
    let r := floatEntry kp a b
    let r := if acc then add32 r (old.toNat, 0) else r
    (word r.1, r.2)

/-- The pairing of an A and a B record is legal (R320). -/
def pairOk (a b : Nat) : Bool :=
  let scaledA := fmtKind a = 1 || fmtKind a = 2 || isAq a || isBe a
  !(scaledA && (isAq b || isBe b)) || fmtBlock a == fmtBlock b

/-! ### Signatures (R329) -/

/-- One byte of CRC-64/ECMA-182. -/
def crc64Byte (c : Word64) (b : Nat) : Word64 :=
  (List.range 8).foldl (fun (c : Word64) _ =>
    if c.getLsbD 63 then (c <<< 1) ^^^ 0x42F0E1EBA9EA3693 else c <<< 1) (c ^^^ (word64 b <<< 56))

def crc64 (bs : List Byte) : Word64 := bs.foldl (fun c b => crc64Byte c b.toNat) 0

/-- The groups that hold an admitted term. -/
def groupsOfMask (r kp : Nat) : List Nat :=
  if groupsPerRow r = 0 then []
  else (List.range (groupsPerRow r)).filter (fun g => (List.range (fmtBlock r)).any (fun t => bitOf kp (fmtBlock r * g + t)))

/-- The side bytes of a group: scale and zero point, or block code; an AQ4 zero point is its low four bits (R76). -/
def sideBytes (r : Nat) (side : Nat → Nat) (soff zoff : Nat) : List Byte :=
  if isAq r then natLE 1 (side soff) ++ natLE 1 (side (soff + 1)) ++ natLE 1 (if fmtKind r = 8 then side zoff % 16 else side zoff)
  else natLE 1 (side soff)

/-- Part 3 of the signature: A. -/
def sigA (r : Nat) (f side : Nat → Nat) (rp kp : Nat) : List Byte :=
  let ms := bitsOf rp 64
  let n := if elemBits r = 16 then 2 else 1
  let ng := groupsPerRow r
  ms.flatMap (fun m => (bitsOf kp 384).flatMap (fun k => natLE n (codeA r f m k)))
    ++ ms.flatMap (fun m => (groupsOfMask r kp).flatMap (fun g =>
        sideBytes r side (if isBe r then rangeSoff r 0 + 8 * m + g else rangeSoff r 0 + 2 * (m * ng + g)) (rangeZoff r 0 + m * ng + g)))

/-- Part 4: B. -/
def sigB (r : Nat) (tile side : Nat → Nat) (cp kp : Nat) : List Byte :=
  let ns := bitsOf cp 128
  let ng := groupsPerRow r
  ns.flatMap (fun n => (bitsOf kp 384).flatMap (fun k => natLE 1 (codeB r tile n k)))
    ++ ns.flatMap (fun n => (groupsOfMask r kp).flatMap (fun g =>
        sideBytes r side (if isBe r then 8 * n + g else 2 * (ng * n + g)) (256 * ng + ng * n + g)))

end Sys2Proof.Machine
end

