-- ==== Sys2Proof/Machine/Matrix.lean ====
section
/-! DEFINITION. The issue of the matrix instructions 0xE0 to 0xE7 by control threads (R312 to R333). -/

namespace Sys2Proof

def Eng.immW (x : Eng) : Word := x.imm.getD 0

end Sys2Proof

namespace Sys2Proof.Machine

/-! ### Image tables (R185, R190) -/

/-- A field of an image descriptor. -/
def State.imgGet (s : State) (fn : Nat) (img : Nat) (off n : Nat) : Nat := s.vreadLE fn (img + off) n

/-- The format record of an id in an image, if the image has it. -/
def State.fmtRecord (s : State) (fn img id : Nat) : Option Nat :=
  if id < s.imgGet fn img 0x32 2 then some (s.vreadLE fn (s.imgGet fn img 0x18 8 + 4 * id) 4) else none

/-- The hardware reads an image's descriptor, and a record of its format table: it is a second agent of their pages (R225). -/
def State.imgTouch (s : State) (fn img : Nat) : State := s.vtouch fn img 64

def State.fmtTouch (s : State) (fn img id : Nat) : State :=
  let s := s.imgTouch fn img
  if id < s.imgGet fn img 0x32 2 then s.vtouch fn (s.imgGet fn img 0x18 8 + 4 * id) 4 else s

/-- The kernel of the issuing context, and its image. -/
def State.myKernel (s : State) : Kernel := (s.team s.cur.team).kern
def State.myImage (s : State) : Nat := s.myKernel.img.toNat

/-! ### Traps (R333) -/

def matrixFormat (detail id : Nat) : Trap := { code := 0x2C, detail, tval := word64 id }
def matrixHolding (detail n : Nat) : Trap := { code := 0x2D, detail, tval := word64 n }
def matrixOperand (detail x : Nat) : Trap := { code := 0x2E, detail, tval := word64 x }

/-! ### A quad's holdings (R312, R313) -/

def Quad.rsvSet (q : Quad) (h : Nat) (r : Rsv) : Quad := { q with rsv := Cells.set {} q.rsv h r }
def Quad.slotAt (q : Quad) (k : Nat) : MSlot := Cells.get {} q.slots k
def Quad.slotSet (q : Quad) (k : Nat) (x : MSlot) : Quad := { q with slots := Cells.set {} q.slots k x }
def Quad.tileAt (q : Quad) (a : Nat) : AccTile := Cells.get {} q.tiles a
def Quad.tileSet (q : Quad) (a : Nat) (t : AccTile) : Quad := { q with tiles := Cells.set {} q.tiles a t }

/-- A tile of a board is still awaited. -/
def BoardTile.awaits : BoardTile → Bool
  | .awaited _ => true
  | _ => false

/-- A board still awaits the tile of a slot. -/
def Board.awaits (b : Board) (slot : Nat) : Bool :=
  b.slot ≤ slot && slot < b.slot + b.count && (b.tiles.getD (slot - b.slot) .captured).awaits

/-- A board at its stop with every tile captured or failed (R342). -/
def Board.settled (b : Board) : Bool := b.reached && b.tiles.all (fun t => !t.awaits)

/-- A fill or board of the slot has not ended; `before` limits it to those that issued earlier, a board withdrawn among them that
has still to empty the slot (R328). -/
def Quad.filling (q : Quad) (slot : Nat) (before : Option Nat) : Bool :=
  let old := fun (op : Nat) => (before.map (fun n => decide (op < n))).getD true
  q.fills.any (fun f => f.slot == slot && old f.op)
    || q.boards.any (fun b => b.awaits slot && old b.op)
    || (before.isSome && q.gone.any (fun b => b.awaits slot && old b.op))

/-- Every fill of the slot that has issued leaves it empty: none stands and it holds no tile, or the latest is a board that was
withdrawn (R322, R328, R347). -/
def Quad.emptyAhead (q : Quad) (slot : Nat) : Bool :=
  let live := (q.fills.filter (·.slot == slot)).map (·.op) ++ (q.boards.filter (·.awaits slot)).map (·.op)
  let gone := (q.gone.filter (·.awaits slot)).map (·.op)
  (!(q.slotAt slot).full && live.isEmpty) || gone.any (fun g => live.all (· < g))

/-- The 4 KiB units of the operand buffer that ranges hold (R314). -/
def Quad.unitTaken (q : Quad) (u : Nat) : Bool :=
  q.rsv.any (fun e => e.2.team != 0 && e.2.kind != 2 && e.2.base / 4096 ≤ u && u < e.2.base / 4096 + (e.2.len + 4095) / 4096)

/-- The lowest position of `n` contiguous free units. -/
def Quad.freeUnits (q : Quad) (n : Nat) : Option Nat :=
  (List.range (129 - n)).find? (fun u => (List.range n).all (fun k => !q.unitTaken (u + k)))

/-- The words of a reservation record (R313). -/
def Rsv.word (r : Rsv) (w : Nat) : Nat :=
  match w with
  | 0 => 1 + r.kind * 2 + r.pri * 8 + r.fmt * 2 ^ 8 + r.blk * 2 ^ 16
  | 1 => r.base
  | 2 => r.len
  | _ => r.soff + r.zoff * 2 ^ 16

/-- An operation in flight of a team of the quad names something (R316). -/
def State.usedBy (s : State) (quad use : Nat) : Bool :=
  s.ops.any (fun o => quadNo o.die o.core == quad && o.uses.contains use)

/-! ### mres (R315) -/

/-- No other thread of the quad waits in an older `mres`. -/
def State.mresFirst (s : State) (c : Ctx) : Bool :=
  s.ctxs.all (fun d => d.uid == c.uid || d.kind != .thread || quadNo d.loc.die d.loc.core != quadNo c.loc.die c.loc.core
    || d.resSeq == 0 || c.resSeq < d.resSeq || d.ended || d.halted)

/-- Writes the record of a reservation and zeroes its range. -/
def State.reserve (s : State) (h : Nat) (r : Rsv) : State :=
  let q := s.quad s.myQuad
  let q := if r.kind = 2 then q
    else { q with obuf := Cells.clear q.obuf r.base ((r.len + 4095) / 4096 * 4096) }
  s.setQuad s.myQuad (q.rsvSet h r)

/-- `mres` (R313 to R315). -/
def execMres (x : Eng) (s : State) : Out :=
  issue (.mres x) s (fun s =>
    let c := s.cur
    let h := x.w.dst.toNat
    let id := x.fld 7 0
    let kind := x.fld 9 8
    let q := s.quad s.myQuad
    if (q.rsvAt h).team != 0 then s.raise (matrixHolding (if (q.rsvAt h).team = c.team then 3 else 0) h)
    else
      let s := s.fmtTouch (s.fnOf c) s.myImage id
      match (s.fmtRecord (s.fnOf c) s.myImage id).filter fmtLegal with
      | none => s.raise (matrixFormat 0 id)
      | some r =>
        let role := if kind = 1 then fmtKind r < 3 else fmtLegalA r
        let len := rangeLen r kind
        let a := (c.uni x.immW x.w.a).toNat
        if !role then s.raise (matrixFormat 1 id)
        else if kind = 2 && (a % 64 != 0 || s.scratchSize < a + len) then s.raise (matrixOperand 3 a)
        else
          let rsv : Rsv := { team := c.team, kind, pri := x.fld 11 10, fmt := id, fmtRec := r, blk := fmtBlock r, base := a, len,
                             soff := rangeSoff r kind, zoff := rangeZoff r kind, time := s.time }
          if kind = 2 then (s.reserve h rsv).upd (fun c => c.putNone (Instr.size (.mres x)))
          else
            let s := if c.resSeq = 0 then
                { s with uids := s.uids + 1, cur := { s.cur with resSeq := s.uids + 1 } } else s
            match q.freeUnits ((len + 4095) / 4096) with
            | some u =>
              if s.mresFirst s.cur then
                (s.reserve h { rsv with base := 4096 * u }).upd (fun c => { c with resSeq := 0 }.putNone (Instr.size (.mres x)))
              else s.hold .reservation
            | none => s.hold .reservation)

/-! ### mrel (R316) -/

/-- Frees a handle: its units and its operand-cache entries. -/
def Quad.dropHandle (q : Quad) (h : Nat) : Quad :=
  let team := (q.rsvAt h).team
  { q.rsvSet h {} with cache := q.cache.filter (fun e => !(e.team == team && e.handle == h)) }

/-- `mrel` (R316). -/
def execMrel (x : Eng) (s : State) : Out :=
  issue (.mrel x) s (fun s =>
    let n := (s.cur.uni x.immW x.w.a).toNat
    let sub := x.fld 1 0
    let q := s.quad s.myQuad
    let team := if sub = 0 then (q.rsvAt n).team else if sub = 1 then (q.slotAt n).team else (q.tileAt n).team
    let used := s.usedBy s.myQuad (100 * sub + n) || (sub = 1 && q.filling n none)
    if (if sub = 1 then 63 else 15) < n then s.raise (matrixOperand 0 n)
    else if team != s.cur.team then s.raise (matrixHolding 1 n)
    else if used then s.raise (matrixHolding 2 n)
    else
      let q := if sub = 0 then q.dropHandle n else if sub = 1 then q.slotSet n {} else q.tileSet n {}
      (s.setQuad s.myQuad q).upd (fun c => c.putNone (Instr.size (.mrel x))))

/-! ### mldb (R317) -/

/-- The name the next operation will have. -/
def State.nextOp (s : State) : Nat := s.uids + 1

/-- `mldb` (R317). -/
def execMldb (x : Eng) (s : State) : Out :=
  issue (.mldb x) s (fun s =>
    let c := s.cur
    let k := x.w.dst.toNat
    let id := x.fld 7 0
    let q := s.quad s.myQuad
    let s := s.fmtTouch (s.fnOf c) s.myImage id
    match (s.fmtRecord (s.fnOf c) s.myImage id).filter fmtLegal with
    | none => s.raise (matrixFormat 0 id)
    | some r =>
      let a := c.uni64 x.immW x.w.a
      let named := x.w.b != .v 0
      let b := if named then c.uni64 x.immW x.w.b else 0
      let slot := q.slotAt k
      if !fmtLegalB r then s.raise (matrixFormat 1 id)
      else if a.toNat % 4096 != 0 then s.raise (matrixOperand 5 a.toNat)
      else if named != (sideLen r != 0) || b.toNat % 64 != 0 then s.raise (matrixOperand 5 b.toNat)
      else if slot.team != 0 && slot.team != c.team then s.raise (matrixHolding 0 k)
      else if c.full 6 then s.hold .counter
      else
        let f : Fill := { op := s.nextOp, uid := c.uid, team := c.team, slot := k, tile := a, side := b, fmtRec := r }
        let slot := { slot with team := c.team, fmt := id, fmtRec := r }
        let q := { q.slotSet k slot with fills := q.fills ++ [f] }
        ((s.setQuad s.myQuad q).begin 6 true (.fill k) [] false []).upd (fun c => c.putNone (Instr.size (.mldb x))))

/-! ### mpass and mdrain (R322 to R324, R333) -/

/-- The commands of a thread that wait or run. -/
def Quad.queueOf (q : Quad) (uid : Nat) : List Cmd := q.queue.filter (·.uid == uid)

/-- The type a tile will have once every command issued so far has run (R322: every check is made at issue). -/
def Quad.typeAhead (q : Quad) (a : Nat) : AccType :=
  match (q.queue.filter (fun m => m.pass && m.tile == a)).getLast? with
  | some m => m.ty
  | none => (q.tileAt a).ty

/-- A head of its thread's queue is ready: a drain always, a pass once every earlier fill of its slot has ended (R324). -/
def Quad.headReady (q : Quad) (m : Cmd) : Bool :=
  ((q.queueOf m.uid).head?).map (·.op) == some m.op && (!m.pass || !q.filling m.slot (some m.op))

/-- Notes since when each head has been ready (R325). -/
def Quad.refresh (q : Quad) (time : Nat) : Quad :=
  { q with queue := q.queue.map (fun m => if m.readyAt.isNone && q.headReady m then { m with readyAt := some time } else m) }

/-- Puts a command into its thread's queue, binding its tile (R312, R324). -/
def State.enqueue (s : State) (m : Cmd) (uses : List Nat) : State :=
  let q := s.quad s.myQuad
  let q := if (q.tileAt m.tile).team = 0 then q.tileSet m.tile { team := m.team } else q
  let q := { q with queue := q.queue ++ [m] }.refresh s.time
  (s.setQuad s.myQuad q).begin 6 true .engine [] false uses

/-- What every command captures at issue. -/
def State.command (s : State) (i : Instr) : Cmd :=
  let c := s.cur
  { op := s.nextOp, uid := c.uid, team := c.team, rp := c.mrp, cp := c.mcp, kp := c.mkp, issued := s.time,
    word := (encode i).headD 0, desc := (encode i).getD 1 0 }

/-- A thread's command finds no place: MX is at its limit, or its queue holds 16 (R136, R324). -/
def State.noRoom (s : State) : Bool := s.cur.full 6 || 16 ≤ ((s.quad s.myQuad).queueOf s.cur.uid).length

/-- The checks of `mpass` in the order of R333.  TVAL of a broken pairing is A's format id (DESIGN CHOICE, log 59). -/
def State.passTrap (s : State) (x : Eng) (h k a : Nat) : Option Trap :=
  let team := s.cur.team
  let q := s.quad s.myQuad
  let r := q.rsvAt h
  let slot := q.slotAt k
  let tile := q.tileAt a
  if 15 < h then some (matrixOperand 0 h)
  else if 63 < k then some (matrixOperand 0 k)
  else if r.team != team then some (matrixHolding (if r.team = 0 then 1 else 0) h)
  else if r.kind = 1 then some (matrixOperand 4 h)
  else if slot.team != 0 && slot.team != team then some (matrixHolding 0 k)
  else if slot.team = 0 || q.emptyAhead k then some (matrixHolding 4 k)
  else if tile.team != 0 && tile.team != team then some (matrixHolding 0 a)
  else if !fmtLegal slot.fmtRec then some (matrixFormat 0 slot.fmt)
  else if !fmtLegalB slot.fmtRec then some (matrixFormat 1 slot.fmt)
  else if !pairOk r.fmtRec slot.fmtRec then some (matrixFormat 2 r.fmt)
  else
    let ty := pathType r.fmtRec slot.fmtRec
    if x.fld 0 0 = 1 && ty != .i32 then some (matrixFormat 3 r.fmt)
    else if x.fld 2 1 = 1 && q.typeAhead a != .none && q.typeAhead a != ty then some (matrixFormat 5 r.fmt)
    else none

/-- `mpass` (R322). -/
def execMpass (x : Eng) (s : State) : Out :=
  issue (.mpass x) s (fun s =>
    let c := s.cur
    if s.noRoom then s.hold .queue
    else
      let h := (c.uni x.immW x.w.a).toNat
      let k := (c.uni x.immW x.w.b).toNat
      let a := x.w.dst.toNat
      match s.passTrap x h k a with
      | some t => s.raise t
      | none =>
        let q := s.quad s.myQuad
        let m := { s.command (.mpass x) with
          pass := true, raced := (q.rsvAt h).unfenced, acc := x.fld 2 1 = 1, sat := x.fld 0 0 = 1, tile := a, handle := h, slot := k,
          ty := pathType (q.rsvAt h).fmtRec (q.slotAt k).fmtRec }
        (s.enqueue m [h, 100 + k, 200 + a]).upd (fun c => c.putNone (Instr.size (.mpass x))))

/-- The bytes a drained entry takes (R323). -/
def Cmd.width (m : Cmd) : Nat := if m.out = 0 then 4 else 2

/-- The entries a command names, row by row. -/
def Cmd.entries (m : Cmd) : List (Nat × Nat) := (bitsOf m.rp 64).flatMap (fun i => (bitsOf m.cp 128).map (fun j => (i, j)))

/-- The offset of an entry from the drain's address. -/
def Cmd.offsetOf (m : Cmd) (e : Nat × Nat) : Nat := m.pitch * e.1 + m.width * e.2

/-- The lowest address of a drain that is misaligned or outside its space (R323). -/
def Cmd.badAddr (m : Cmd) (limit : Nat) : Option Nat :=
  let at' := fun e => (if m.toob then 0 else m.addr) + m.offsetOf e
  let bad := (m.entries.map at').filter (fun a => (!m.toob && a % m.width != 0) || limit < a + m.width)
  bad.foldl (fun (b : Option Nat) a => match b with
    | none => some a
    | some x => some (min x a)) none

/-- The checks of `mdrain` in the order of R333; the spec names no format id for a drain to scratchpad, so that TVAL is a
free value (log 17). -/
def State.drainTrap (s : State) (m : Cmd) : Option Trap :=
  let team := s.cur.team
  let q := s.quad s.myQuad
  let tile := q.tileAt m.tile
  let r := q.rsvAt m.handle
  if m.toob && 15 < m.handle then some (matrixOperand 0 m.handle)
  else if tile.team != 0 && tile.team != team then some (matrixHolding 0 m.tile)
  else if m.toob && r.team != team then some (matrixHolding (if r.team = 0 then 1 else 0) m.handle)
  else if m.toob && r.kind != 1 then some (matrixOperand 4 m.handle)
  else
    let fit := fmtKind r.fmtRec == (if m.out = 0 then 0 else if m.out = 1 then 2 else 1)
    if (m.out != 0 && q.typeAhead m.tile = .i32) || (m.toob && !fit) then
      some { code := 0x2C, detail := 4, tval := if m.toob then word64 r.fmt else (Config.freeWord s.free).setWidth 64 }
    else (m.badAddr (if m.toob then r.len else s.scratchSize)).map (matrixOperand 2)

/-- `mdrain` (R323). -/
def execMdrain (x : Eng) (s : State) : Out :=
  issue (.mdrain x) s (fun s =>
    let c := s.cur
    if s.noRoom then s.hold .queue
    else
      let a := (c.uni x.immW x.w.a).toNat
      let toob := x.fld 3 3 = 1
      let m := { s.command (.mdrain x) with
        pass := false, zero := x.fld 0 0 = 1, out := x.fld 2 1, toob, tile := x.fld 7 4, handle := if toob then a else 16,
        addr := a, pitch := (c.uni x.immW x.w.b).toNat }
      match s.drainTrap m with
      | some t => { s with free := s.free + 1 }.raise t
      | none =>
        (s.enqueue m ((200 + m.tile) :: (if toob then [a] else [300]))).upd (fun c => c.putNone (Instr.size (.mdrain x))))

/-! ### mpred, msig and mfence (R321, R327, R329) -/

/-- `mpred` (R321). -/
def execMpred (x : Eng) (s : State) : Out :=
  issue (.mpred x) s (fun s =>
    let n := (s.cur.uni x.immW x.w.a).toNat
    let lo := (s.cur.uni x.immW x.w.b).toNat
    let size := if x.fld 1 0 = 0 then 64 else if x.fld 1 0 = 1 then 128 else 384
    if size < lo + n then s.raise (matrixOperand 1 (lo + n))
    else
      let v := (2 ^ n - 1) * 2 ^ lo
      s.upd (fun c =>
        (if x.fld 1 0 = 0 then { c with mrp := v } else if x.fld 1 0 = 1 then { c with mcp := v } else { c with mkp := v }).putNone
          (Instr.size (.mpred x))))

/-- `msig` (R329). -/
def execMsig (x : Eng) (s : State) : Out :=
  issue (.msig x) s (fun s =>
    let c := s.cur
    if x.fld 0 0 = 0 then s.upd (fun c => c.putS64 x.w (Instr.size (.msig x)) c.sig)
    else
      let h := (c.uni x.immW x.w.a).toNat
      let w := (c.uni x.immW x.w.b).toNat
      if 15 < h then s.raise (matrixOperand 0 h)
      else if 3 < w then s.raise (matrixOperand 0 w)
      else
        let r := (s.quad s.myQuad).rsvAt h
        s.upd (fun c => c.putS x.w (Instr.size (.msig x)) (if r.team = c.team && r.team != 0 then word (r.word w) else 0)))

/-- `mfence` (R327): it waits for the thread's drains to scratchpad. -/
def execMfence (x : Eng) (s : State) : Out :=
  issue (.mfence x) s (fun s =>
    let c := s.cur
    if s.ops.any (fun o => o.uid == c.uid && o.uses.contains 300) then s.hold .fence
    else (s.nextGen c.team).upd (fun c => c.putNone (Instr.size (.mfence x))))

end Sys2Proof.Machine
end

