-- ==== Sys2Proof/Machine/MatrixEvents.lean ====
section
/-! DEFINITION. What a quad's array does of itself: fills, grants, passes, drains, and the retirement of an ended team
(R317, R322 to R331).  An event names its quad in `x`, unless it says otherwise. -/

namespace Sys2Proof.Machine

/-! ### Reads of engines -/

/-- What an engine's read of several ranges comes to: the bytes, a wait on a page, a fault that cannot be resolved, or a
poisoned line. -/
inductive Pull where
  | ok (s : State) (bs : List Byte)
  | wait (on : Option (Nat × Bool)) (s : State)
  | fail (va : Nat) (s : State)
  | port (port va : Nat) (s : State)
  | poison (va key src : Nat) (s : State)

/-- A range cut at the 4 KiB pages it touches; none where it has no bytes. -/
def pageChunks (va len : Nat) : List (Nat × Nat) :=
  let first := va / 4096
  if len = 0 then [] else (List.range ((va + len + 4095) / 4096 - first)).map (fun i =>
    let lo := max va (4096 * (first + i))
    (lo, min (va + len) (4096 * (first + i + 1)) - lo))

/-- Reads ranges, each within a page, at their homes as a copy reads them (R225, R236, R237), for an engine that makes accesses as `b`
does; `value2` 4 in the event is a host completion with an error (R391). -/
def State.pull (s : State) (b : Miss) (failed : List (Nat × Bool)) : List (Nat × Nat) → Pull
  | [] => .ok (s.unwalk b.who) []
  | (va, len) :: rest =>
    match s.reach b va len failed with
    | .ok l _ =>
      let key := memKey l.mt l.pa
      if s.poisoned key len then .poison va key 1 (s.unwalk b.who)
      else if s.args.value2 = 4 && memKey 2 0 ≤ key then .poison va key 4 (s.unwalk b.who)
      else
        match s.pull b failed rest with
        | .ok t bs => .ok t (s.readBytes key len ++ bs)
        | r => r
    | .wait on s => .wait on s
    | .fail va s => .fail va s
    | .port port va s => .port port va s
    | .poison va key s => .poison va key 5 s

/-- The part of some ranges, end to end, from a byte on. -/
def subRanges : List (Nat × Nat) → Nat → Nat → List (Nat × Nat)
  | [], _, _ => []
  | (va, len) :: rest, off, n =>
    if len ≤ off then subRanges rest (off - len) n
    else
      let k := min n (len - off)
      if k = 0 then [] else (va + off, k) :: (if k = n then [] else subRanges rest 0 (n - k))

/-- Bytes read now, with those read earlier as they were read, each by its offset. -/
def keepEarlier (got : List (Nat × List Byte)) (now : List Byte) : List Byte :=
  got.foldr (fun e l => patch l e.1 (e.2.take (l.length - e.1))) now

/-- The bytes an event reads before the rest (R237): `nats` are an offset and a length. -/
def State.someBytes (s : State) : Option (Nat × Nat) :=
  match s.args.nats with
  | [off, len] => if len = 0 then none else some (off, len)
  | _ => none

/-! ### The end of a team (R331) -/

/-- A team has ended: its groups and its thread have, and no lane of it waits as a row or a frame (R331). -/
def State.teamEnded (s : State) (team : Nat) : Bool :=
  s.ctxs.all (fun c => c.team != team || c.ended) && (s.team team).rows.isEmpty && s.frames.all (fun f => f.team != team)

/-! ### Fills (R317) -/

/-- Empties a slot's contents. -/
def MSlot.emptied (x : MSlot) : MSlot := { x with full := false, tile := [], side := [] }

/-- A slot's contents: the tile and its side bytes, in a format record. -/
def MSlot.filled (x : MSlot) (r : Nat) (tile side : List Byte) (by' : FillFrom) : MSlot :=
  { x with full := true, tileRec := r, tile := Cells.setMany 0 [] 0 tile, side := Cells.setMany 0 [] 0 side, latest := some by' }

/-- The request of an engine's operation, or of a refill, which has none, met a forbidden port (R332, R376): a refill's thread takes
Partition-port at its next turn. -/
def State.portMet (s : State) (op uid port va : Nat) : State :=
  if op != 0 then s.notePort op port va
  else match s.ctx uid with
    | some c => s.setCtx { c with owedTrap := c.owedTrap.orElse (fun _ => some { code := 0x35, detail := port, tval := word64 va }) }
    | none => s

/-- The engine's work of an operation is complete. -/
def State.opDone (s : State) (id : Nat) : State :=
  { s with ops := s.ops.map (fun (o : Op) => if o.id == id then { o with done := true } else o) }

/-- A thread records a load error; one recorded and not yet taken stays (R317, R344). -/
def State.noteLoadErr (s : State) (uid code detail : Nat) (tval : Word64) : State :=
  match s.ctx uid with
  | some c => if c.ended || c.loadErr.isSome then s else s.setCtx { c with loadErr := some (code * 256 + detail, tval) }
  | none => s

/-- Ends a fill: its slot holds what `f` makes of it, and the passes that waited may be ready (R324). -/
def State.endFill (s : State) (n : Nat) (x : Fill) (f : MSlot → MSlot) : State :=
  let q := s.quad n
  let q := { q.slotSet x.slot (f (q.slotAt x.slot)) with
    fills := q.fills.filter (fun g => !(g.op == x.op && g.slot == x.slot)) }
  (s.setQuad n (q.refresh s.time)).opDone x.op

/-- The ranges a fill reads: the tile, and the side array its format has. -/
def Fill.ranges (f : Fill) : List (Nat × Nat) :=
  pageChunks f.tile.toNat 49152 ++ (if sideLen f.fmtRec = 0 then [] else pageChunks f.side.toNat (sideLen f.fmtRec))

/-- A fill of a slot may take effect: every earlier pass naming it has retired, and every earlier fill of it has ended
(R328). -/
def State.fillFirst (s : State) (n slot op : Nat) : Bool :=
  !(s.ops.any (fun o => quadNo o.die o.core == n && o.uses.contains (100 + slot) && o.id < op)) && !(s.quad n).filling slot (some op)

/-- The privilege an operation of a context has. -/
def State.privOf (s : State) (uid team : Nat) : Bool := ((s.ctx uid).map (·.priv)).getD (s.team team).priv

/-- A fill replaced in its quad. -/
def State.setFill (s : State) (n : Nat) (f : Fill) : State :=
  let q := s.quad n
  s.setQuad n { q with fills := q.fills.map (fun g => if g.op == f.op && g.slot == f.slot then f else g) }

/-- The accesses of a fill: a refill of R332 has no operation, and makes them in its team's name. -/
def State.fillMiss (s : State) (f : Fill) : Miss :=
  let t := s.team f.team
  { die := t.die, core := t.core, fn := s.fnOfPart t.part, want := .load, priv := s.privOf f.uid f.team,
    who := if f.op = 0 then 16 * f.team + 9 else 16 * f.op + 8, toucher := .engine }

/-- MLDB_FILL_COMPLETE of the operation `x` (0 for a refill of R332) in slot `y` of the quad `z` (R317); where `nats` names an
offset and a length, only those bytes are read, so that each byte is read at its own moment (R237). -/
def execMldbFillComplete (s : State) : Out :=
  let n := s.args.z
  .next (match (s.quad n).fills.find? (fun f => f.op == s.args.x && f.slot == s.args.y) with
    | none => s
    | some f =>
      let t := s.team f.team
      if f.wait.isSome || !s.fillFirst n f.slot f.op || !(s.teamRuns t || s.teamEnded f.team) then s
      else
        let empty := fun (s : State) => s.endFill n f MSlot.emptied
        let part := s.someBytes
        let rs := match part with
          | some (off, len) => subRanges f.ranges off len
          | none => f.ranges
        match s.pull (s.fillMiss f) f.failed rs with
        | .ok s bs =>
          match part with
          | some (off, _) => s.setFill n { f with got := f.got ++ [(off, bs)] }
          | none =>
            let bs := keepEarlier f.got bs
            s.endFill n f (fun x => x.filled f.fmtRec (bs.take 49152) (bs.drop 49152) (.memory f.tile f.side))
        | .wait on s => s.setFill n { f with wait := on }
        | .fail va s => (empty s).noteLoadErr f.uid 0x2F 0 (word64 va)
        | .port port va s => (empty s).portMet f.op f.uid port va
        | .poison va key src s => (empty s).kill f.uid src (word64 va) (key % 2 ^ 48))

/-! ### Grants (R324, R325) -/

/-- A team's commands may be granted: it runs, with its refills ended (R332), or it has ended (R331). -/
def State.mayGrant (s : State) (q : Quad) (m : Cmd) : Bool :=
  s.teamEnded m.team || (s.teamRuns (s.team m.team)
    && !(q.fills.any (fun f => f.team == m.team && f.op == 0)) && !(q.boards.any (fun b => b.team == m.team && b.op == 0)))

/-- The priority of a head, and the reservation time it counts by (R325). -/
def Quad.rank (q : Quad) (m : Cmd) : Nat × Nat :=
  if m.pass || m.toob then ((q.rsvAt m.handle).pri, (q.rsvAt m.handle).time) else (3, m.issued)

/-- One head comes before another under R325. -/
def Quad.before (q : Quad) (m k : Cmd) : Bool :=
  let old := fun (c : Cmd) => decide (32 ≤ c.passedOver)
  let at' := fun (c : Cmd) => c.readyAt.getD 0
  if old m != old k then old m
  else if old m && at' m != at' k then at' m < at' k
  else
    let (p, t) := q.rank m
    let (p', t') := q.rank k
    if p != p' then p' < p else if t != t' then t < t' else m.op < k.op

/-- The head that the array grants. -/
def Quad.choose (q : Quad) (ms : List Cmd) : Option Cmd :=
  ms.foldl (fun (b : Option Cmd) m => match b with
    | none => some m
    | some k => if q.before m k then some m else b) none

/-- ARRAY_GRANT of the quad `x` (R325). -/
def execArrayGrant (s : State) : Out :=
  let n := s.args.x
  let q := s.quad n
  .next (if q.running.isSome then s
    else
      let ready := q.queue.filter (fun m => q.headReady m && s.mayGrant q m)
      match q.choose ready with
      | none => s
      | some g =>
        let pass := fun (m : Cmd) =>
          if m.op != g.op && ready.any (fun k => k.op == m.op) then { m with passedOver := m.passedOver + 1 } else m
        s.setQuad n { q with running := some g.op, queue := q.queue.map pass })

/-- The command the array performs. -/
def Quad.current (q : Quad) : Option Cmd := q.running.bind (fun id => q.queue.find? (·.op == id))

/-- The array has performed a command: it leaves its queue (R324). -/
def State.performed (s : State) (n : Nat) (m : Cmd) : State :=
  let q := s.quad n
  let q := { q with running := none, queue := q.queue.filter (·.op != m.op) }
  (s.setQuad n (q.refresh s.time)).opDone m.op

/-! ### Passes (R322, R326, R329, R330) -/

/-- The scratchpad bytes of one 48-term block of a range's rows (R326). -/
def blockBytes (t : Team) (base r j : Nat) : List Byte :=
  let n := 6 * elemBits r
  (List.range 64).flatMap (fun m => t.bytes (base + m * rowBytesOf r + j * n) n)

/-- The operand cache with a block used: the entry that holds it, or one filled from scratchpad over the least recently
used (R326). -/
def useBlock (t : Team) (h : Nat) (r : Rsv) (cache : List OcEntry) (j : Nat) : List OcEntry :=
  let hit := fun (e : OcEntry) => e.team == t.id && e.handle == h && e.block == j && e.gen == t.gen
  match cache.find? hit with
  | some e => e :: cache.filter (fun e => !hit e)
  | none => (({ team := t.id, handle := h, gen := t.gen, block := j, data := blockBytes t r.base r.fmtRec j } : OcEntry) :: cache).take 64

/-- The blocks a pass reads. -/
def blocksOf (kp : Nat) : List Nat := (List.range 8).filter (fun j => kp / 2 ^ (48 * j) % 2 ^ 48 != 0)

/-- A byte of an `sa` range's elements, by its offset in the range, as the cache holds it. -/
def cachedByte (t : Team) (h r : Nat) (cache : List OcEntry) (i : Nat) : Nat :=
  let n := 6 * elemBits r
  let row := i / max 1 (rowBytesOf r)
  let off := i % max 1 (rowBytesOf r)
  match cache.find? (fun e => e.team == t.id && e.handle == h && e.block == off / n && e.gen == t.gen) with
  | some e => (e.data.getD (row * n + off % n) 0).toNat
  | none => 0

/-- A byte of an `sa` range as a pass reads it, where its event chooses among the values that it held at or after the reservation,
which a pass may that a write races; `v` is what it reads otherwise (R326). -/
def Cmd.saByte (m : Cmd) (t : Team) (r : Rsv) (chosen : List (Nat × List Byte)) (i v : Nat) : Nat :=
  match chosen.find? (fun e => e.1 ≤ i && i < e.1 + e.2.length) with
  | some e =>
    let b := e.2.getD (i - e.1) 0
    if m.raced && (r.old.contains (i, b) || Cells.get 0 t.scratch (r.base + i) == b) then b.toNat else v
  | none => v

/-- A byte of an `oa` range as a pass reads it, where its event chooses among the values that it held while the array performed the
pass, before `obst` that raced it (R328); `v` is what it reads otherwise. -/
def Cmd.oaByte (m : Cmd) (r : Rsv) (chosen : List (Nat × List Byte)) (i v : Nat) : Nat :=
  match chosen.find? (fun e => e.1 ≤ i && i < e.1 + e.2.length) with
  | some e =>
    let b := e.2.getD (i - e.1) 0
    if m.old.contains (r.base + i, b) then b.toNat else v
  | none => v

/-- The entries a pass leaves, with their values before it and the flags they raise. -/
def passEntries (m : Cmd) (tile : AccTile) (rowOf colOf : Nat → List Exact) : List (Nat × Word × Word × Word) :=
  m.entries.map (fun (i, j) =>
    let old := if m.acc then Cells.get 0 tile.acc (128 * i + j) else 0
    let (x, fl) := passEntry m.ty m.acc m.sat m.kp (rowOf i) (colOf j) old
    (128 * i + j, old, x, fl))

/-- Steps a quad's Surveyor generator for an item that retires on it, and samples the item where its low K bits are 0 and
the log has room (R393, R394). -/
def State.survey (s : State) (n : Nat) (sampled pass : Bool) (bytes : List Byte) : State :=
  let q := s.quad n
  let gen := Config.surveyorStep q.gen
  let s := s.setQuad n { q with gen }
  if sampled && gen.toNat % 2 ^ s.sys.svK = 0 then
    if s.sys.samples.length < Config.surveyorLog then
      State.count { s with sys := { s.sys with samples := s.sys.samples ++ [{ quad := n, pass, sig := crc64 bytes, bytes }] } } 500 1
    else State.count { s with sys := { s.sys with svdrop := s.sys.svdrop + 1 } } 501 1
  else s

/-- The operand buffer as a pass reads it: at the offsets that the event names, the bytes that an `obst` on its way is to
store (R328). -/
def State.obufRaced (s : State) (n : Nat) (offs : List Nat) : Cells Byte :=
  let ps := (s.ops.filter (fun o => quadNo o.die o.core == n)).flatMap (fun o =>
    o.pieces.filter (fun p => p.act = .store && p.space = .opbuf && p.phase = .sent))
  offs.foldl (fun b i => match ps.find? (fun p => p.key ≤ i && i < p.key + p.len) with
    | some p => Cells.set 0 b i (p.data.getD (i - p.key) 0)
    | none => b) (s.quad n).obuf

/-- Performs a pass that has its slot's tile: entries, type, flags, signature, and the Surveyor. -/
def State.pass (s : State) (n : Nat) (m : Cmd) : State :=
  let q := s.quad n
  let t := s.team m.team
  let r := q.rsvAt m.handle
  let slot := q.slotAt m.slot
  let tile := q.tileAt m.tile
  let cache := if r.kind = 2 then (blocksOf m.kp).foldl (useBlock t m.handle r) q.cache else q.cache
  let obuf := s.obufRaced n s.args.nats
  let sa := m.saByte t r s.args.stripes
  let side := fun (i : Nat) => if r.kind = 2 then sa i (Cells.get (0 : Byte) t.scratch (r.base + i)).toNat
    else m.oaByte r s.args.stripes i (Cells.get 0 obuf (r.base + i)).toNat
  let elem := fun (i : Nat) => if r.kind = 2 then sa i (cachedByte t m.handle r.fmtRec cache i) else side i
  let tb := fun (i : Nat) => (Cells.get 0 slot.tile i).toNat
  let sb := fun (i : Nat) => (Cells.get 0 slot.side i).toNat
  let es : List (Nat × Word × Word × Word) := passEntries m tile (rowA r.fmtRec elem side m.kp) (colB slot.tileRec tb sb)
  let acc : Cells Word := es.foldl (fun (a : Cells Word) (k, _, x, _) => Cells.set 0 a k x) tile.acc
  let bytes := (natLE 4 m.word.toNat ++ natLE 4 m.desc.toNat ++ natLE 4 r.fmtRec ++ natLE 4 slot.tileRec
    ++ natLE 8 m.rp ++ natLE 16 m.cp ++ natLE 48 m.kp
    ++ sigA r.fmtRec elem side m.rp m.kp ++ sigB slot.tileRec tb sb m.cp m.kp
    ++ es.flatMap (fun (_, old, x, _) => natLE 4 old.toNat ++ natLE 4 x.toNat))
  let s : State := s.setQuad n { q.tileSet m.tile { tile with ty := m.ty, acc } with cache }
  let s : State := match s.ctx m.uid with
    | some c => s.setCtx (c.stick (joinFlags (es.map (fun e => e.2.2.2))))
    | none => s
  let s : State := { s with ops := s.ops.map (fun (o : Op) => if o.id == m.op then { o with sig := some (crc64 bytes) } else o) }
  s.survey n (t.kern.audit < 2 && s.sys.svEnp) true bytes

/-- MPASS_COMPLETE of the quad `x` (R322), which may read the bytes at the operand buffer offsets `nats` after the `obst` that
races it, and, at the offsets of its range in `stripes`, the values given there: of an `oa` range those held before such an `obst`
(R328), and of an `sa` range those held since its reservation (R326): a pass whose slot a failed fill
left empty has no effect and is not sampled, and steps its quad's generator as it retires (R322, R393). -/
def execMpassComplete (s : State) : Out :=
  let n := s.args.x
  .next (match (s.quad n).current with
    | none => s
    | some m =>
      if !m.pass then s
      else (if ((s.quad n).slotAt m.slot).full then s.pass n m else s.survey n false true []).performed n m)

/-! ### Drains (R323) -/

/-- What a drain writes of an entry, and the flags of its rounding; an exact zero rounds to +0 (R79, log 39). -/
def Cmd.drained (m : Cmd) (x : Word) : List Byte × Word :=
  if m.out = 0 then (natLE 4 x.toNat, 0)
  else
    let f := if m.out = 1 then bf16 else fp16
    let r := f.round .rne false 0 (quietZero (fp32.read x.toNat).exact)
    (natLE 2 r.code, r.flags)

/-- Bytes put at a place, but for those at the places `done`. -/
def putRest (b : Cells Byte) (done : List Nat) (off : Nat) (bs : List Byte) : Cells Byte :=
  (bs.zipIdx).foldl (fun b e => if done.contains (off + e.2) then b else Cells.set 0 b (off + e.2) e.1) b

/-- Performs a drain: to the `or` range, but for the bytes written already (R328), or as scratchpad stores that take their place at
retirement (R216, R303); an ended team's writes nothing (R331). -/
def State.drain (s : State) (n : Nat) (m : Cmd) : State :=
  let q := s.quad n
  let tile := q.tileAt m.tile
  let at' := fun (e : Nat × Nat) => Cells.get 0 tile.acc (128 * e.1 + e.2)
  let ws : List (Nat × List Byte × Word) := m.entries.map (fun e => (m.offsetOf e, m.drained (if tile.ty = .none then 0 else at' e)))
  let acc : Cells Word := if m.zero then m.entries.foldl (fun (a : Cells Word) e => Cells.set 0 a (128 * e.1 + e.2) 0) tile.acc else tile.acc
  let dead := s.teamEnded m.team
  let base := (q.rsvAt m.handle).base
  let obuf := if m.toob && !dead then ws.foldl (fun b (o, bs, _) => putRest b m.wrote (base + o) bs) q.obuf else q.obuf
  let s := s.setQuad n { q.tileSet m.tile { tile with acc } with obuf }
  let s := match s.ctx m.uid with
    | some c => s.setCtx (c.stick (joinFlags (ws.map (fun w => w.2.2))))
    | none => s
  if m.toob || dead then s
  else
    let ps := ws.zipIdx.map (fun ((o, bs, _), k) =>
      ({ lane := k, act := .store, space := .scratch, key := m.addr + o, len := bs.length, data := bs } : Piece))
    { s with ops := s.ops.map (fun (o : Op) => if o.id == m.op then { o with pieces := ps } else o) }

/-- A drain to a range writes some of its bytes before the rest: those at the operand buffer offsets that the event names
(R328). -/
def State.drainSome (s : State) (n : Nat) (m : Cmd) (offs : List Nat) : State :=
  let q := s.quad n
  let tile := q.tileAt m.tile
  let base := (q.rsvAt m.handle).base
  let bytes := m.entries.flatMap (fun e =>
    ((m.drained (if tile.ty = .none then 0 else Cells.get 0 tile.acc (128 * e.1 + e.2))).1).zipIdx.map (fun (b, i) => (base + m.offsetOf e + i, b)))
  let now := bytes.filter (fun e => offs.contains e.1 && !m.wrote.contains e.1)
  let note := fun (k : Cmd) => if k.op = m.op then { k with wrote := k.wrote ++ now.map (·.1) } else k
  s.setQuad n { q with obuf := now.foldl (fun o e => Cells.set 0 o e.1 e.2) q.obuf, queue := q.queue.map note }

/-- MDRAIN_COMPLETE of the quad `x` (R323); with `ok`, only bytes of it (R328). -/
def execMdrainComplete (s : State) : Out :=
  let n := s.args.x
  .next (match (s.quad n).current with
    | none => s
    | some m =>
      if m.pass then s
      else if s.args.ok then (if m.toob && !s.teamEnded m.team then s.drainSome n m s.args.nats else s)
      else (s.drain n m).performed n m)

/-! ### Retirement of a team (R331) -/

/-- Releases every handle, slot and tile of a team as `mrel` would. -/
def Quad.dropTeam (q : Quad) (team : Nat) : Quad :=
  let q := (q.rsv.filter (fun e => e.2.team == team)).foldl (fun q e => q.dropHandle e.1) q
  { q with slots := q.slots.filter (fun e => e.2.team != team), tiles := q.tiles.filter (fun e => e.2.team != team),
           gone := q.gone.filter (·.team != team) }

/-- Nothing of an ended team is in flight. -/
def State.teamQuiet (s : State) (t : Team) : Bool :=
  let q := s.quad (quadNo t.die t.core)
  s.teamEnded t.id && s.ctxs.all (fun c => c.team != t.id) && s.ops.all (fun o => o.team != t.id)
    && q.fills.all (fun f => f.team != t.id) && q.boards.all (fun b => b.team != t.id)
    && s.colls.all (fun c => c.team != t.id || c.owed = 0)

/-- A cluster's teams have all retired or left: its quads are charged to its owner for the time it was resident (R385). -/
def State.clusterGone (s : State) (part tcb clusid : Nat) : State :=
  if s.teams.any (fun t => t.part == part && t.tcb == tcb && t.clusid == clusid && !t.out) then s
  else
    match s.grids.find? (fun g => g.part == part && g.tcb == tcb) with
    | none => s
    | some g =>
      let gone := g.clusters.filter (·.clusid == clusid)
      let s := gone.foldl (fun s k => s.charge g.owner 0 (g.kern.quads * (s.time - k.start))) s
      let drop := fun (h : Grid) => if h.part == part && h.tcb == tcb then { h with clusters := h.clusters.filter (·.clusid != clusid) } else h
      { s with grids := s.grids.map drop }

/-- A slice's latest moment with a team on it (R382). -/
def State.seeSlice (s : State) (die core : Nat) : State :=
  { s with sys := { s.sys with sliceSeen := Cells.set 0 s.sys.sliceSeen (8 * die + sliceOfCore core) s.time } }

/-- TEAM_RETIRE of the team `x` (R331): its grid keeps the greatest WCT of its stores (R372). -/
def execTeamRetire (s : State) : Out :=
  .next (match s.teams.find? (fun t => t.id == s.args.x) with
    | none => s
    | some t =>
      if t.out || !s.teamQuiet t then s
      else
        let n := quadNo t.die t.core
        let s := (s.setQuad n ((s.quad n).dropTeam t.id)).seeSlice t.die t.core
        let note := fun (g : Grid) => if g.part == t.part && g.tcb == t.tcb then { g with maxWct := max g.maxWct t.maxWct } else g
        State.clusterGone { s.discardMons (fun m => m.team == t.id) with
          teams := s.teams.filter (fun u => u.id != t.id), colls := s.colls.filter (fun c => c.team != t.id),
          grids := s.grids.map note } t.part t.tcb t.clusid)

end Sys2Proof.Machine
end

