-- ==== Sys2Proof/Machine/Meridian.lean ====
section
/-! DEFINITION. The Meridian rings: boarding, itineraries and laps (R334 to R349).  An event names its ring in `x`, or its
stop in `x` and its ring in `y`; ring 0 is eastbound and ring 1 westbound. -/

namespace Sys2Proof.Machine

def State.ring (s : State) (r : Nat) : Ring := Cells.get {} s.rings r
def State.setRing (s : State) (r : Nat) (x : Ring) : State := { s with rings := Cells.set {} s.rings r x }

/-- Meridian-operand (R359). -/
def meridianOperand (detail n : Nat) : Trap := { code := 0x30, detail, tval := word64 n }

/-! ### A partition's ring registers (R335, R336) -/

def Part.mring (p : Part) (r : Nat) : MRing := if r = 0 then p.mrec else p.mrecW
def Part.ringLaps (p : Part) (r : Nat) : Nat := if r = 0 then p.laps else p.lapsW
def Part.ringCredit (p : Part) (r : Nat) : Int := if r = 0 then p.credit else p.creditW
def Part.setCredit (p : Part) (r : Nat) (n : Int) : Part := if r = 0 then { p with credit := n } else { p with creditW := n }

/-- A partition is eligible on a ring (R335): resident and not halted, with an itinerary and a weight. -/
def Part.eligible (p : Part) (r : Nat) : Bool := (p.mring r).itin != 0xFFFF && 1 ≤ p.mwgt && p.state = 1 && p.haltAt.isNone

/-- Its credit is 0 when it becomes eligible (R335). -/
def Part.freshCredit (old new : Part) : Part :=
  [0, 1].foldl (fun p r => if !old.eligible r && p.eligible r then p.setCredit r 0 else p) new

/-- Replaces a partition's registers, with its credits as R335 says. -/
def State.putPart (s : State) (n : Nat) (p : Part) : State := s.setPart n ((s.part n).freshCredit p)

/-- The number of its latest lap begun; 0 if none (R335, R349). -/
def Part.lapNo (p : Part) (r : Nat) : Nat := if p.ringLaps r = 0 then 0 else (p.ringLaps r - 1) % 2 ^ 16

/-! ### Itineraries and layers (R185) -/

/-- A field of an itinerary entry, and of layer `l` of the itinerary. -/
def State.itinGet (s : State) (fn img itin off n : Nat) : Nat := s.vreadLE fn (s.imgGet fn img 0x20 8 + 16 * itin + off) n
def State.layerGet (s : State) (fn img itin l off n : Nat) : Nat :=
  s.vreadLE fn (s.imgGet fn img 0x28 8 + 24 * (s.itinGet fn img itin 4 4 + l) + off) n

/-- The hardware reads an itinerary's entry, and a layer of it with its format record: it is a second agent of their pages
(R225). -/
def State.itinTouch (s : State) (fn img itin : Nat) : State :=
  let s := s.imgTouch fn img
  s.vtouch fn (s.imgGet fn img 0x20 8 + 16 * itin) 16

def State.layerTouch (s : State) (fn img itin l : Nat) : State :=
  let s := s.itinTouch fn img itin
  let s := s.vtouch fn (s.imgGet fn img 0x28 8 + 24 * (s.itinGet fn img itin 4 4 + l)) 24
  s.fmtTouch fn img (s.layerGet fn img itin l 20 1)

/-- The tiles of an itinerary in ring order (R334). -/
def State.ringOrder (s : State) (fn img itin r : Nat) : List (Nat × Nat) :=
  let ls := List.range (s.itinGet fn img itin 8 2)
  (if r = 0 then ls else ls.reverse).flatMap (fun l => (List.range (s.layerGet fn img itin l 16 4)).map (fun t => (l, t)))

/-! ### The instructions -/

/-- The ring of a boarding instruction. -/
def Eng.ring (x : Eng) : Nat := x.fld 13 13

/-- The hardware reads the itinerary that a ring's record names, and a layer it has (R225). -/
def State.boardTouch (s : State) (fn : Nat) (m : MRing) (l : Nat) : State :=
  if m.itin = 0xFFFF then s
  else
    let s := s.itinTouch fn m.img.toNat m.itin
    if l < s.itinGet fn m.img.toNat m.itin 8 2 then s.layerTouch fn m.img.toNat m.itin l else s

/-- The hardware reads an itinerary and every layer of it (R225, R335). -/
def State.lapTouch (s : State) (fn img itin : Nat) : State :=
  let s := s.itinTouch fn img itin
  s.vtouch fn (s.imgGet fn img 0x28 8 + 24 * s.itinGet fn img itin 4 4) (24 * s.itinGet fn img itin 8 2)

/-- The checks of `board` in the order of R342. -/
def State.boardTrap (s : State) (x : Eng) (l t : Nat) : Option Trap :=
  let c := s.cur
  let n := x.fld 6 0
  let slot := x.fld 12 7
  let fn := s.fnOf c
  let m := (s.part (s.partOf c)).mring (Eng.ring x)
  let img := m.img.toNat
  let q := s.quad s.myQuad
  if n = 0 || 64 < n then some (meridianOperand 0 n)
  else if 64 < slot + n then some (meridianOperand 0 (slot + n))
  else if m.itin = 0xFFFF || m.img != s.myKernel.img then some (meridianOperand 1 (Eng.ring x))
  else if s.itinGet fn img m.itin 8 2 ≤ l then some (meridianOperand 2 l)
  else if s.layerGet fn img m.itin l 16 4 < t + n then some (meridianOperand 2 (t + n))
  else
    match (List.range n).find? (fun j => (q.slotAt (slot + j)).team != 0 && (q.slotAt (slot + j)).team != c.team) with
    | some j => some (matrixHolding 0 (slot + j))
    | none =>
      if x.fld 18 14 != 0 && (s.myKernel.named (x.fld 18 14)).isNone then some (framePoint 0 (word (x.fld 18 14))) else none

/-- `board` (R342).  Its slice must be let to the ring head's port, 12 (R376; log 11).  Where the layer's FMT names no record of
the image, the record is 0, which is FP32's (R91; log 52, DESIGN CHOICE). -/
def execBoard (x : Eng) (s : State) : Out :=
  issue (.board x) s (fun s =>
    let c := s.cur
    let l := (c.uni x.immW x.w.a).toNat
    let t := (c.uni x.immW x.w.b).toNat
    let n := x.fld 6 0
    let slot := x.fld 12 7
    let pt := x.fld 18 14
    let s := s.boardTouch (s.fnOf c) ((s.part (s.partOf c)).mring (Eng.ring x)) l
    match s.boardTrap x l t with
    | some trap => s.raise trap
    | none =>
      let q := s.quad s.myQuad
      if !portAllowed (s.connOf c.loc.die (sliceOfCore c.loc.core)) 12 then s.raise { code := 0x35, detail := 12 }
      else if c.full 6 then s.hold .counter
      else if 16 ≤ (q.boards.filter (fun b => b.ring == Eng.ring x)).length then s.hold .board
      else
        let part := s.partOf c
        let m := (s.part part).mring (Eng.ring x)
        let fmt := s.layerGet (s.fnOf c) m.img.toNat m.itin l 20 1
        let r := (s.fmtRecord (s.fnOf c) m.img.toNat fmt).getD 0
        let b : Board := { op := s.nextOp, uid := c.uid, team := c.team, part, ring := Eng.ring x, layer := l, first := t, count := n,
                           slot, pt, fmt, fmtRec := r, tiles := List.replicate n (.awaited false) }
        let q := (List.range n).foldl (fun (q : Quad) j =>
          q.slotSet (slot + j) { q.slotAt (slot + j) with team := c.team, fmt, fmtRec := r }) q
        let s := s.setQuad s.myQuad { q with boards := q.boards ++ [b] }
        let tm := s.team c.team
        let s := if pt = 0 then s else s.setTeam (tm.setPair { tm.pair pt with gateClosed := true })
        (s.begin 6 true (.fill slot) [] false []).upd (fun c => c.putNone (Instr.size (.board x))))

/-- Empties the slots of a board whose tiles are not captured. -/
def Quad.emptySlots (q : Quad) (b : Board) : Quad :=
  (List.range b.count).foldl (fun (q : Quad) j =>
    if b.tiles.getD j .captured = .captured then q else q.slotSet (b.slot + j) (q.slotAt (b.slot + j)).emptied) q

/-- A pass or a fill that issued before a board keeps it from one of its slots (R328). -/
def State.boardBusy (s : State) (n : Nat) (b : Board) : Bool := (List.range b.count).any (fun j => !s.fillFirst n (b.slot + j) b.op)

/-- One board is withdrawn: its operation retires at once, with no error and no change of a gate (R347); where it has not
reached the stop, its slots are emptied after the passes and fills that issued before it (R328). -/
def State.withdraw (s : State) (n : Nat) (b : Board) : State :=
  let q := s.quad n
  let late := !b.reached && s.boardBusy n b
  let q := { if late then q else q.emptySlots b with
    boards := q.boards.filter (fun k => k.op != b.op), gone := if late then q.gone ++ [b] else q.gone }
  let s := s.setQuad n (q.refresh s.time)
  match s.op b.op with
  | some o => s.retire o
  | none => s

/-- `unboard` (R347). -/
def execUnboard (x : Eng) (s : State) : Out :=
  issue (.unboard x) s (fun s =>
    let n := s.myQuad
    let bs := sortBy (fun (a b : Board) => a.op ≤ b.op)
      ((s.quad n).boards.filter (fun b => b.uid == s.cur.uid && b.ring == Eng.ring x && b.op != 0))
    (bs.foldl (fun s b => s.withdraw n b) s).upd (fun c => c.putNone (Instr.size (.unboard x))))

/-- `itin` (R348). -/
def execItin (x : Eng) (s : State) : Out :=
  issue (.itin x) s (fun s =>
    let c := s.cur
    let i := (c.uni x.immW x.w.a).toNat
    let r := (c.uni x.immW x.w.b).toNat
    let s := if i = 0xFFFF then s else s.imgTouch (s.fnOf c) s.myImage
    if i != 0xFFFF && s.imgGet (s.fnOf c) s.myImage 0x34 2 ≤ i then s.raise (meridianOperand 3 i)
    else if 16 < r then s.raise (meridianOperand 4 r)
    else
      let part := s.partOf c
      let p := s.part part
      let old := p.mring (Eng.ring x)
      let m : MRing := { itin := i, img := if i = 0xFFFF then 0 else s.myKernel.img, rate := if r = 0 then old.rate else r }
      let p := if Eng.ring x = 0 then { p with mrec := m } else { p with mrecW := m }
      (s.putPart part p).upd (fun c => c.putNone (Instr.size (.itin x))))

/-- The tile that is passing a stop (R349). -/
def Ring.passingTile (g : Ring) (stop : Nat) : Option WireTile :=
  let k := Cells.get 0 g.passed stop
  if k % 2 = 1 then g.wire.find? (fun w => w.seq == k / 2) else none

/-- The partition whose lap is passing a stop, from its first flit to its last (R349): a tile of it is passing, or one has
passed and the next is another of the same lap. -/
def Ring.passingLap (g : Ring) (stop : Nat) : Option Nat :=
  let k := Cells.get 0 g.passed stop
  match g.wire.find? (fun w => w.seq == k / 2) with
  | some w => if k % 2 = 1 || 0 < w.idx then some w.part else none
  | none => if k / 2 = g.seq && 0 < g.pos && g.pos < g.order.length then g.part else none

/-- `lapq` (R349). -/
def execLapq (x : Eng) (s : State) : Out :=
  issue (.lapq x) s (fun s =>
    let part := s.partOf s.cur
    let g := s.ring (Eng.ring x)
    let here := (g.passingTile s.myQuad).filter (fun w => w.part == part)
    let lap := g.passingLap s.myQuad == some part
    let slow := match g.part with
      | some p => decide (((s.part p).mring (Eng.ring x)).rate < g.r)
      | none => false
    let v := (s.part part).lapNo (Eng.ring x) + ((here.map (·.layer)).getD 0xFFF) * 2 ^ 16 + lap.toNat * 2 ^ 28
      + slow.toNat * 2 ^ 29
    s.upd (fun c => c.putS x.w (Instr.size (.lapq x)) (word v)))

/-! ### Boards (R343, R344) -/

/-- Sets what became of tile `j` of a board. -/
def Board.settle (b : Board) (j : Nat) (t : BoardTile) : Board := { b with tiles := b.tiles.set j t }

/-- Fails the awaited tiles of a board that a test picks. -/
def Board.failTiles (b : Board) (detail : Nat) (p : Nat → Bool) : Board :=
  { b with tiles := b.tiles.zipIdx.map (fun (t, j) => if t.awaits && p (b.first + j) then .failed detail else t) }

/-- The lowest failed tile of a board, with its DETAIL. -/
def Board.firstFailed (b : Board) : Option (Nat × Nat) :=
  (List.range b.count).findSome? (fun j => match b.tiles.getD j .captured with
    | .failed d => some (b.first + j, d)
    | _ => none)

/-- Puts a changed board back; one whose every tile is captured or failed is done, and records its load error (R342,
R344). -/
def State.setBoard (s : State) (n : Nat) (b : Board) : State :=
  let q := s.quad n
  let same := fun (k : Board) => k.op == b.op && k.slot == b.slot
  if b.settled then
    let q := { q with boards := if b.op = 0 then q.boards.filter (fun k => !same k) else q.boards.map (fun k => if same k then b else k) }
    let s := (s.setQuad n (q.refresh s.time)).opDone b.op
    match b.firstFailed with
    | some (t, d) => s.noteLoadErr b.uid 0x31 d (word64 (b.layer * 2 ^ 16 + t))
    | none => s
  else s.setQuad n ({ q with boards := q.boards.map (fun k => if same k then b else k) }.refresh s.time)

/-- BOARD_REACH_STOP of the operation `x` (0 for a refill of R332) in slot `y` at the stop `z` (R342, R343): once every
earlier pass naming its slots has retired and every earlier fill of them has ended (R328); its slots are empty from then on.  A
board that was withdrawn before does that alone.  Where the slice may not use the ring head's port, the board captures nothing
(R376; log 11). -/
def execBoardReachStop (s : State) : Out :=
  let n := s.args.z
  let q := s.quad n
  let here := fun (b : Board) => b.op == s.args.x && b.slot == s.args.y
  .next (match q.boards.find? here with
    | none => match q.gone.find? here with
      | some b =>
        if s.boardBusy n b then s
        else s.setQuad n ({ q.emptySlots b with gone := q.gone.filter (fun k => !here k) }.refresh s.time)
      | none => s
    | some b =>
      if b.reached || s.boardBusy n b || !s.teamRuns (s.team b.team) then s
      else
        let b := { b with reached := true, after := Cells.get 0 (s.ring b.ring).passed n }
        let s := s.setQuad n (q.emptySlots b)
        if portAllowed (s.connOf (n / 32) (n % 32 / 4)) 12 then s.setBoard n b
        else (s.setBoard n { b with tiles := List.replicate b.count .captured }).portMet b.op b.uid 12 0)

/-! ### Laps (R335, R346) -/

/-- Fails the tiles of a partition's boards on a ring that a lap does not carry (R344, R348); a halt has cancelled those of a team
that does not run (R343). -/
def State.failMissing (s : State) (part r : Nat) (order : List (Nat × Nat)) : State :=
  let due := s.quads.flatMap (fun e => (e.2.boards.filter (fun b =>
    b.part == part && b.ring == r && b.reached && s.teamRuns (s.team b.team))).map (fun b => (e.1, b)))
  due.foldl (fun s (n, b) =>
    let b' := b.failTiles 2 (fun t => !order.contains (b.layer, t))
    if b' == b then s else s.setBoard n b') s

/-- The partition of the greatest credit, the lowest on a tie. -/
def chooseLap (es : List (Nat × Int)) : Option (Nat × Int) :=
  es.foldl (fun (b : Option (Nat × Int)) e => match b with
    | none => some e
    | some x => if x.2 < e.2 then some e else some x) none

/-- The ring has still to double its effective denominator at the tile boundary where it stands (R346): a buffer holds, or has held
since it last did, more than 147,456 bytes. -/
def Ring.slowDue (g : Ring) : Bool := (g.brimmed || g.bufs.any (fun e => 147456 < e.2)) && g.slowAt != some g.seq

/-- LAP_BOUNDARY of the ring `x` (R335, R346, R348): once the lap in progress has emitted its last tile; a lap is calm as far as no
buffer has been above 98,304 bytes since it began. -/
def execLapBoundary (s : State) : Out :=
  let r := s.args.x % 2
  let g := s.ring r
  .next (if g.pos < g.order.length || g.slowDue then s
    else
      let es := (List.range 64).filter (fun p => (s.part p).eligible r)
      let sum := es.foldl (fun n p => n + (s.part p).mwgt) 0
      let s : State := es.foldl (fun (s : State) p =>
        s.setPart p ((s.part p).setCredit r ((s.part p).ringCredit r + (s.part p).mwgt))) s
      let s : State := (List.range 64).foldl (fun (s : State) p =>
        if ((s.part p).mring r).itin = 0xFFFF then s.failMissing p r [] else s) s
      match chooseLap (es.map (fun p => (p, (s.part p).ringCredit r))) with
      | none => s.setRing r { g with part := none, order := [], pos := 0 }
      | some (p, c) =>
        let t := (s.part p).setCredit r (c - sum)
        let m := t.mring r
        let lap := t.ringLaps r % 2 ^ 16
        let s := s.lapTouch (s.fnOfPart p) m.img.toNat m.itin
        let order := s.ringOrder (s.fnOfPart p) m.img.toNat m.itin r
        let t := if r = 0 then { t with laps := t.laps + 1 } else { t with lapsW := t.lapsW + 1 }
        let s := (s.setPart p t).setRing r { g with part := some p, lap, lapId := g.lapId + 1, img := m.img.toNat, itin := m.itin, order,
                                                    pos := 0, r := if g.slowed && !g.calm then max g.r m.rate else m.rate,
                                                    slowed := g.slowed && !g.calm, calm := g.bufs.all (·.2 ≤ 98304) }
        s.failMissing p r order)

/-- RING_RATE_SLOW of the ring `x` (R346): a buffer above 147,456 bytes doubles the effective denominator, once at a tile
boundary. -/
def execRingRateSlow (s : State) : Out :=
  let r := s.args.x % 2
  let g := s.ring r
  .next (if g.slowDue then s.setRing r { g with r := min 16 (2 * g.r), slowed := true, calm := false, brimmed := false, slowAt := some g.seq } else s)

/-! ### Tiles (R338 to R341) -/

/-- CRC-32C of bytes (R339). -/
def crc32c (bs : List Byte) : Nat :=
  let step := fun (c : Word) (b : Byte) =>
    (List.range 8).foldl (fun (c : Word) _ => if c.getLsbD 0 then (c >>> 1) ^^^ 0x82F63B78 else c >>> 1) (c ^^^ b.setWidth 32)
  (bs.foldl step 0xFFFFFFFF ^^^ 0xFFFFFFFF).toNat

/-- What a ring head finds of one page (R340): whether it reads, waits, or cannot be had, and then whether that is since the request
of a page and stage failed. -/
inductive HeadPage where
  | reads | sharded | gathering | pending (level : Nat) (stage2 : Bool) (page : Nat) | orphaned | fault (failed : Option (Nat × Bool))
  deriving DecidableEq, Repr

def HeadPage.isFault : HeadPage → Bool
  | .fault _ => true
  | _ => false

/-- The condition of the page at an address for a ring head of a function (R340). -/
def State.headPage (s : State) (g : Ring) (fn va : Nat) : HeadPage :=
  match s.xlateFresh fn va with
  | .leaf l =>
    if l.gps = 4 || l.gps = 5 || l.gps = 6 then .orphaned
    else if l.gps = 1 then .sharded
    else if l.gps = 2 then .gathering
    else .reads
  | .missing lvl st2 prq page =>
    if (st2 || (prq && fld (s.fn fn).tctl.toNat 2 2 = 1)) && !g.failed.contains (fn, page, st2) then .pending lvl st2 page
    else .fault (some (page, st2))
  | _ => .fault none

/-- The ranges of a tile and its side array, page by page. -/
def State.tileChunks (s : State) (fn img itin : Nat) (lt : Nat × Nat) : List (Nat × Nat) × List (Nat × Nat) :=
  let base := s.layerGet fn img itin lt.1 0 8
  let side := s.layerGet fn img itin lt.1 8 8
  let r := (s.fmtRecord fn img (s.layerGet fn img itin lt.1 20 1)).getD 0
  (pageChunks (base + 49152 * lt.2) 49152,
   if sideLen r = 0 then [] else pageChunks (side + sideLen r * lt.2) (sideLen r))

/-- A ring head reads ranges at their homes, a second agent (R225, R340); each range's leaf is marked accessed. -/
def State.headRead (s : State) (fn : Nat) (chunks : List (Nat × Nat)) : State × List Byte × Bool :=
  chunks.foldl (fun (a : State × List Byte × Bool) (va, len) =>
    match a.1.xlateFresh fn va with
    | .leaf l =>
      let s := (a.1.markLeaf l false).engineTouch l
      let key := memKey l.mt l.pa
      (s, a.2.1 ++ s.readBytes key len, a.2.2 || s.poisoned key len)
    | _ => a) (s, [], false)

/-- The pages of a tile ahead are touched as `pref.gath` touches them: their leaves are marked accessed, and gathers start
(R144, R276, R341).  DESIGN CHOICE (log 56): this touch too leaves a page's class. -/
def State.prefetchTile (s : State) (fn : Nat) (chunks : List (Nat × Nat)) : State :=
  chunks.foldl (fun s (va, _) => match s.pageLeaf fn va with
    | some l =>
      let s := s.markLeaf l false
      if l.gps = 1 then s.startGather fn (va / 2 ^ l.bits * 2 ^ l.bits) else s
    | none => s) s

/-- The stop of the ring head that injects a tile, and removes it: of the home die of its first page, or of die 0 where that
page does not translate (R334; log 50). -/
def State.headStop (s : State) (fn va : Nat) : Nat := 32 * (((s.pageLeaf fn va).map (·.home)).getD 0)

/-- Puts a tile on the wire at a head's stop. -/
def State.wireTile (s : State) (r head reason : Nat) (lt : Nat × Nat) (fmt : Nat) (bytes side : List Byte) : State :=
  let g := s.ring r
  let w : WireTile := { seq := g.seq, lapId := g.lapId, idx := g.pos, head, part := g.part.getD 0, lap := g.lap, layer := lt.1, tile := lt.2,
                        fmt, reason, bytes, side }
  s.setRing r { g with wire := g.wire ++ [w], seq := g.seq + 1, pos := g.pos + 1, got := [] }

/-- TILE_EMIT of the ring `x` (R340, R341); where `nats` names an offset and a length in the tile and its side array, those bytes
are read before the rest (R237, R360). -/
def execTileEmit (s : State) : Out :=
  let r := s.args.x % 2
  let g := s.ring r
  .next (match g.order[g.pos]? with
    | none => s
    | some lt =>
      let part := g.part.getD 0
      let fn := s.fnOfPart part
      if fld (s.fn fn).tctl.toNat 0 0 = 0 || g.slowDue then s
      else
        let s := s.layerTouch fn g.img g.itin lt.1
        let fmt := s.layerGet fn g.img g.itin lt.1 20 1
        let (tile, side) := s.tileChunks fn g.img g.itin lt
        let pages := (tile ++ side).map (fun e => (e.1, s.headPage g fn e.1))
        let head := s.headStop fn ((tile.map (·.1)).headD 0)
        let has := fun p => pages.any (fun e => e.2 = p)
        let s : State :=
          if has .orphaned then s.wireTile r head 2 lt fmt [] []
          else if pages.any (·.2.isFault) then
            let gone := fun (f : Nat × Nat × Bool) => f.1 == fn && pages.any (fun e => e.2 == .fault (some f.2))
            (s.setRing r { g with failed := g.failed.filter (fun f => !gone f) }).wireTile r head 3 lt fmt [] []
          else if has .sharded then
            (pages.foldl (fun s e => if e.2 = .sharded then s.prefetchTile fn [(e.1, 1)] else s) s).wireTile r head 1 lt fmt [] []
          else if pages.any (fun e => e.2 != .reads) then
            (pages.foldl (fun (s : State) e => match e.2 with
              | .pending lvl st2 page =>
                let (s, _) := s.request fn st2 page lvl false false
                let g := s.ring r
                s.setRing r { g with asked := (fn, page, st2) :: g.asked.filter (· != (fn, page, st2)) }
              | _ => s) s).wireTile r head 1 lt fmt [] []
          else
            match s.someBytes with
            | some (off, len) =>
              let (s, bs, bad) := s.headRead fn (subRanges (tile ++ side) off len)
              if bad then s.wireTile r head 3 lt fmt [] []
              else
                let g := s.ring r
                s.setRing r { g with got := g.got ++ [(off, bs)] }
            | none =>
              let (s, bs, bad) := s.headRead fn (tile ++ side)
              let bs := keepEarlier g.got bs
              if bad then s.wireTile r head 3 lt fmt [] [] else s.wireTile r head 0 lt fmt (bs.take 49152) (bs.drop 49152)
        if (s.ring r).pos = g.pos then s
        else
        match g.order[(g.pos + (s.part part).mpfa) % max 1 g.order.length]? with
        | some far =>
          let (t, d) := s.tileChunks fn g.img g.itin far
          s.prefetchTile fn (t ++ d)
        | none => s)

/-! ### Sightings (R344) -/

/-- A board of a partition attempts a tile that has just passed its stop (R343): the tile is one of its range, still
awaited, in a lap whose window opened after the board reached the stop. -/
def Board.attempts (b : Board) (r : Nat) (w : WireTile) : Bool :=
  b.reached && b.ring == r && b.part == w.part && b.layer == w.layer && b.first ≤ w.tile && w.tile < b.first + b.count
    && (b.tiles.getD (w.tile - b.first) .captured).awaits && b.after ≤ 2 * (w.seq - (w.tile - b.first))

/-- The header of flit `f` of a tile (R338). -/
def WireTile.header (w : WireTile) (f crc : Nat) : Nat :=
  w.layer % 4096 + w.tile % 4096 * 2 ^ 12 + w.lap * 2 ^ 24 + w.fmt * 2 ^ 40 + f * 2 ^ 48 + w.part * 2 ^ 53 + w.reason * 2 ^ 59
    + (if f = 23 then crc * 2 ^ 64 else 0)

/-- Bytes from an offset on, zeros past the end. -/
def padded (bs : List Byte) (off n : Nat) : List Byte :=
  let l := (bs.drop off).take n
  l ++ List.replicate (n - l.length) 0

/-- The CRC of a tile (R339). -/
def WireTile.crc (w : WireTile) : Nat := crc32c (padded w.bytes 0 49152 ++ padded w.side 0 4608)

/-- Flit `f` of a tile: its data, and the sideband of header and side bytes (R334, R338). -/
def WireTile.flit (w : WireTile) (f : Nat) : List Byte :=
  padded w.bytes (2048 * f) 2048 ++ natLE 12 (w.header f (if f = 23 then w.crc else 0)) ++ padded w.side (192 * f) 192

/-- The flits as a stop receives them: those the event gives, and the others as they were sent. -/
def WireTile.received (w : WireTile) (bad : List (Nat × List Byte)) : List (List Byte) :=
  (List.range 24).map (fun f => ((bad.find? (·.1 == f)).map (·.2)).getD (w.flit f))

/-- The data and the side bytes of received flits, and their headers. -/
def flitData (fs : List (List Byte)) : List Byte := fs.flatMap (fun b => slice b 0 2048)
def flitSide (fs : List (List Byte)) : List Byte := fs.flatMap (fun b => slice b 2060 192)
def flitHeader (b : List Byte) : Nat := leNat (slice b 2048 12)

/-- The CRC is good and every flit's LAYER, TILE and FMT are flit 0's (R344). -/
def flitsGood (fs : List (List Byte)) : Bool :=
  let h := fs.map flitHeader
  crc32c (flitData fs ++ flitSide fs) == fld (h.getD 23 0) 95 64
    && h.all (fun x => fld x 23 0 == fld (h.headD 0) 23 0 && fld x 47 40 == fld (h.headD 0) 47 40)

/-- One board meets a tile, whose flits came `good` or not, as `fs` where they are not those sent; `room` is a place in the
capture buffer; the state, and whether the tile was captured. -/
def State.sight (s : State) (n r : Nat) (b : Board) (w : WireTile) (good room : Bool) (fs : List (List Byte)) : State × Bool :=
  let j := w.tile - b.first
  let miss := (s.setBoard n (b.settle j (.awaited false)), false)
  if w.reason = 1 then miss
  else if w.reason != 0 then (s.setBoard n (b.settle j (.failed 1)), false)
  else if !good then
    let s := s.logRec 3 0 (n + r * 2 ^ 8 + w.layer * 2 ^ 16 + w.tile * 2 ^ 32)
      (w.part * 2 ^ 32 + (if fs.isEmpty then w.crc else fld (flitHeader (fs.getD 23 [])) 95 64))
    (s.setBoard n (b.settle j (if b.tiles.getD j .captured = .awaited true then .failed 0 else .awaited true)), false)
  else if !room then miss
  else if w.fmt != b.fmt then (s.setBoard n (b.settle j (.failed 2)), false)
  else
    let q := s.quad n
    let k := b.slot + j
    let (bytes, side) := if fs.isEmpty then (w.bytes, w.side) else (flitData fs, (flitSide fs).take w.side.length)
    let s := s.setQuad n (q.slotSet k ((q.slotAt k).filled b.fmtRec bytes side (.ring r b.layer w.tile b.pt b.fmt)))
    (s.setBoard n (b.settle j .captured), true)

/-- Takes tiles off a ring that have passed every stop. -/
def Ring.trim (g : Ring) : Ring :=
  let least := (List.range 256).foldl (fun m k => min m (Cells.get 0 g.passed k / 2)) g.seq
  { g with wire := g.wire.filter (fun w => least ≤ w.seq) }

/-- The stop before another along a ring: eastbound rises, westbound falls (R334). -/
def stopBefore (r n : Nat) : Nat := if r = 0 then (n + 255) % 256 else (n + 1) % 256

/-- The first flit of the next tile may come to a stop: the tile is injected there, or has come to the stop before (R334). -/
def Ring.mayCome (g : Ring) (r n : Nat) : Bool :=
  let k := Cells.get 0 g.passed n
  k % 2 = 0 && k / 2 < g.seq && (match g.wire.find? (fun w => w.seq == k / 2) with
    | some w => n == w.head || k < Cells.get 0 g.passed (stopBefore r n)
    | none => true)

/-- TILE_SIGHTING at the stop `x` of the ring `y` (R334, R338, R343, R344, R346): with `z` = 0 the next tile's first flit comes;
else the passing tile's last flit has passed, after it has passed the stop before: `stripes` are the flits that did not come as
they were sent, or, where it names none, `ok` says that all came well; and `value` bytes of the capture buffer have drained
meanwhile. -/
def execTileSighting (s : State) : Out :=
  let n := s.args.x % 256
  let r := s.args.y % 2
  let g := s.ring r
  let k := Cells.get 0 g.passed n
  .next (if s.args.z = 0 then (if g.mayCome r n then s.setRing r { g with passed := Cells.set 0 g.passed n (k + 1) } else s)
    else
      match g.passingTile n with
      | none => s
      | some w =>
        if n != w.head && Cells.get 0 g.passed (stopBefore r n) ≤ k then s
        else
        let fs := if s.args.stripes.isEmpty then [] else w.received s.args.stripes
        let good := if fs.isEmpty then s.args.ok else flitsGood fs
        let buf := Cells.get 0 g.bufs n - s.args.value.toNat
        let room := decide (buf + 49152 ≤ 196608)
        let bs := (s.quad n).boards.filter (fun b => b.attempts r w && s.teamRuns (s.team b.team))
        let (s, got) := bs.foldl (fun (a : State × Bool) b =>
          let (s, c) := a.1.sight n r b w good room fs
          (s, a.2 || c)) (s, false)
        let buf := if got then buf + 49152 else buf
        let g := s.ring r
        s.setRing r ({ g with passed := Cells.set 0 g.passed n (k + 1), bufs := Cells.set 0 g.bufs n buf,
                              calm := g.calm && buf ≤ 98304, brimmed := g.brimmed || 147456 < buf } : Ring).trim)

end Sys2Proof.Machine
end

