-- ==== Sys2Proof/Machine/Collective.lean ====
section
/-! DEFINITION. Collectives and shard-group membership (R350 to R359).  An event names its collective in `x`. -/

namespace Sys2Proof.Machine

/-! ### Descriptor registers (R350, R351) -/

/-- A register is busy: its collective has started and not completed. -/
def State.tBusy (s : State) (team n : Nat) : Bool := s.colls.any (fun c => c.team == team && c.t == n && c.started && !c.complete)

def collOperand (detail x : Nat) : Trap := { code := 0x32, detail, tval := word64 x }

/-- The access of a weak 32-byte load or store (R351). -/
def descWeak32 : Desc :=
  { c := .v 0, e := .v 0, pred := 0, pneg := false, scope := .grp, width := .b256, ord := .weak, subop := 0 }

/-- `coll.tld` and `coll.tst`: the checks of a uniform access, then the busy register at order 10 (R351, R359). -/
def State.tAccess (s : State) (x : Eng) (n : Nat) (load : Bool) : Out :=
  let c := s.cur
  let a := c.uni64 x.immW x.w.a
  let size := Instr.size (.coll x)
  let want := if load then Want.load else Want.store
  let fine := match s.access (s.mine a.toNat 32 want) c.failed with
    | .ok _ => true
    | _ => false
  if a.toNat % 32 = 0 && a.toNat < 2 ^ 57 && fine && s.tBusy c.team n then .next (s.raise (collOperand 0 n))
  else if load then s.uniformIssue descWeak32 size 0 a 32 .load (fun p => { p with act := .load }) (.collLoad n)
  else s.uniformIssue descWeak32 size 1 a 32 .store
    (fun p => { p with act := .store, data := natLE 32 ((s.team c.team).tAt n) }) .store

/-! ### Joining and starting (R352, R353, R355) -/

/-- The element size and its alignment (R353). -/
def collElem (d : Nat) : Nat := match collRed d with | 2 => 8 | 3 => 24 | _ => 4
def collAlign (d : Nat) : Nat := if 2 ≤ collRed d && collRed d ≤ 3 then 8 else 4

/-- KIND and RED go together, with the BIN record of `addbin` (R353). -/
def State.collPair (s : State) (d : Nat) : Bool :=
  let kind := collKind d
  match collRed d with
  | 0 => kind = 2 || kind = 3 || (kind = 5 && collDst d = 0)
  | 3 => (kind = 0 || kind = 1 || kind = 4) && ((s.fmtRecord (s.fnOf s.cur) s.myImage (fld d 199 192)).map fmtLegalBin).getD false
  | r => r ≤ 5 && (kind = 0 || kind = 1 || kind = 4)

/-- The collective of a team's register that has not started, or runs. -/
def State.collOf (s : State) (team n : Nat) : Option Coll := s.colls.find? (fun c => c.team == team && c.t == n && !c.complete)

/-- The checks of `coll.go` at order 10 (R352). -/
def State.goTrap (s : State) (n a : Nat) : Option Trap :=
  let team := s.cur.team
  let d := (s.team team).tAt n
  let g := s.shard (s.partOf s.cur)
  let kind := collKind d
  let noRoot := (kind = 3 || kind = 4) && (64 ≤ collRoot d || g.members / 2 ^ collRoot d % 2 = 0)
  if s.tBusy team n then some (collOperand 0 n)
  else if !s.collPair d || fld d 223 200 != 0 || noRoot then some (collOperand 1 n)
  else if !g.present || fld d 31 16 != g.group then some (collOperand 2 n)
  else if collSrc d % collAlign d != 0 then some (collOperand 3 (collSrc d))
  else if collDst d % collAlign d != 0 then some (collOperand 3 (collDst d))
  else match s.collOf team n with
    | some c => if c.obj != a then some (collOperand 4 a) else none
    | none => none

/-- Starts a collective once every resident group of its team has joined (R352); one of no elements completes at once
(R353). -/
def State.collStart (s : State) (id : Nat) : State :=
  match s.coll id with
  | none => s
  | some c =>
    if c.started || !(s.groupsOf c.team).all (fun g => c.joined.any (fun j => j.1 == g.uid)) then s
    else
      let t := s.team c.team
      let g := s.shard t.part
      let d := fld (t.tAt c.t) 223 0
      let link := if collRed d = 4 || collRed d = 5 then some true else if collKind d = 5 then some false else none
      let c := { c with started := true, start := s.time, seq := g.seq, desc := d, members := g.members, self := g.self, link }
      let s := ((s.setTeam (t.tSet c.t d)).setShard t.part { g with seq := g.seq + 1 }).setColl c
      if collCount d = 0 then s.collFinish c else s

/-- The collectives start whose resident groups have all joined, some of them by the leaving of a group that had not, the last
one's too (R352). -/
def State.startColls (s : State) : State := (s.colls.filter (!·.started)).foldl (fun s c => s.collStart c.id) s

/-- The hardware reads the format record of an `addbin` (R225, R353). -/
def State.goTouch (s : State) (n : Nat) : State :=
  let d := (s.team s.cur.team).tAt n
  if collRed d = 3 then s.fmtTouch (s.fnOf s.cur) s.myImage (fld d 199 192) else s

/-- `coll.go` (R352). -/
def State.collGo (s : State) (x : Eng) (n : Nat) : State :=
  let c := s.cur
  let a := c.uni x.immW x.w.a
  match s.objectTrap a with
  | some t => s.raise t
  | none =>
    if [1, 2, 3, 4, 5].any (fun k => c.counter k != 0) then s.hold .collective
    else
      let s := s.goTouch n
      match s.goTrap n a.toNat with
      | some t => s.raise t
      | none =>
        if c.full 7 then s.hold .counter
        else
          let op := s.nextOp
          let s := (s.begin 7 true .engine [] false []).upd (fun c => c.putNone (Instr.size (.coll x)))
          match s.collOf c.team n with
          | some k => (s.setColl { k with joined := k.joined ++ [(c.uid, op)] }).collStart k.id
          | none =>
            let id := s.uids + 1
            let k : Coll := { id, team := c.team, t := n, obj := a.toNat, joined := [(c.uid, op)] }
            State.collStart { s with uids := id, colls := s.colls ++ [k] } id

/-- `coll` (R351, R352). -/
def execColl (x : Eng) (s : State) : Out :=
  issueOut (.coll x) s (fun s =>
    let n := x.w.dst.toNat
    if x.fld 1 0 = 2 then .next (s.collGo x n) else s.tAccess x n (x.fld 1 0 = 0))

/-! ### Data (R353, R354) -/

/-- The bytes a member reads of its source. -/
def Coll.readLen (c : Coll) : Nat :=
  let n := collCount c.desc * collElem c.desc
  match collKind c.desc with
  | 1 => maskCount c.members * n
  | 3 => if collRoot c.desc = c.self then n else 0
  | 5 => 0
  | _ => n

/-- The bytes a member writes at its destination. -/
def Coll.writeLen (c : Coll) : Nat :=
  let n := collCount c.desc * collElem c.desc
  match collKind c.desc with
  | 2 => maskCount c.members * n
  | 4 => if collRoot c.desc = c.self then n else 0
  | 5 => 0
  | _ => n

/-- Two elements reduced, and whether a bin clamped (R354). -/
def reduceElem (red : Nat) (x y : List Byte) : List Byte × Bool :=
  let a := leNat x
  let b := leNat y
  match red with
  | 1 => (natLE 4 (a + b), false)
  | 2 => (natLE 8 (a + b), false)
  | 3 =>
    let r := (List.range 3).map (fun k => binMerge (k = 0) (leNat (slice x (8 * k) 8)) (leNat (slice y (8 * k) 8)))
    (r.flatMap (fun e => natLE 8 e.1), r.any (·.2))
  | 4 => (natLE 4 (addRne fp32 a b), false)
  | _ => (natLE 4 (if (word a).toInt < (word b).toInt then b else a), false)

/-- Two of the partial results of an element are merged: the second into the first, which keeps its place. -/
def mergeTwo (red : Nat) (a : List (List Byte) × Bool) (ij : Nat × Nat) : List (List Byte) × Bool :=
  match a.1[ij.1]?, a.1[ij.2]? with
  | some x, some y =>
    if ij.1 = ij.2 then a else
      let r := reduceElem red x y
      ((a.1.set ij.1 r.1).eraseIdx ij.2, a.2 || r.2)
  | _, _ => a

/-- The reduction of an element over the members' values, in ascending rank after the merges of `plan` (R354); a NaN sum of FP32 is
canonical, of one member too (R73). -/
def reduceAll (red : Nat) (plan : List (Nat × Nat)) (xs : List (List Byte)) : List Byte × Bool :=
  let a := plan.foldl (mergeTwo red) (xs, false)
  let r := match a.1 with
    | [] => ([], a.2)
    | x :: ys => ys.foldl (fun (b : List Byte × Bool) y => let r := reduceElem red b.1 y; (r.1, b.2 || r.2)) (x, a.2)
  if red = 4 then (natLE 4 (passF32 (leNat r.1)).code, r.2) else r

/-- The reduction of a block of every member, element by element, each with the merges of its plan (R354).  The elements of
`addbin` too lie one after another, 24 bytes each, wherever a page of memory ends (R353; log 52, DESIGN CHOICE). -/
def reduceBlocks (red e count : Nat) (plan : Nat → List (Nat × Nat)) (blocks : List (List Byte)) : List Byte × Bool :=
  let r := (List.range count).map (fun i => reduceAll red (plan i) (blocks.map (fun b => slice b (e * i) e)))
  (r.flatMap (·.1), r.any (·.2))

/-- The bytes of a member's contribution, in the length its KIND gives. -/
def Coll.dataOf (c : Coll) (m : Nat) : List Byte := ((c.data.find? (fun e => e.1 == m)).map (·.2)).getD []

/-- A list of places read as pairs. -/
def pairsOf : List Nat → List (Nat × Nat)
  | i :: j :: l => (i, j) :: pairsOf l
  | _ => []

/-- The merges by which the values of an element of `addbin` are added before what is left is added in ascending rank: any
grouping, in any order, since the switches of a tree merge partial sums and the order shows if a bin clamps (R89, R354, R355; R13
lets the event choose, log 29). -/
def Coll.plan (c : Coll) (i : Nat) : List (Nat × Nat) :=
  if collRed c.desc = 3 then pairsOf ((((c.orders.getD []).find? (·.1 == i)).map (·.2)).getD []) else []

/-- What a collective writes at its destination, and whether a bin clamped (R353, R354). -/
def Coll.result (c : Coll) : List Byte × Bool :=
  let e := collElem c.desc
  let n := collCount c.desc
  let all := (maskMembers c.members).map c.dataOf
  match collKind c.desc with
  | 1 => reduceBlocks (collRed c.desc) e n c.plan (all.map (fun b => slice b (e * n * rankIn c.members c.self) (e * n)))
  | 2 => ((maskMembers c.members).flatMap (fun m => slice (c.dataOf m) 0 (e * n)), false)
  | 3 => (slice (c.dataOf (collRoot c.desc)) 0 (e * n), false)
  | 4 => if collRoot c.desc = c.self then reduceBlocks (collRed c.desc) e n c.plan all else ([], false)
  | _ => reduceBlocks (collRed c.desc) e n c.plan all

def State.collErr (s : State) (id err : Nat) : State :=
  match s.coll id with
  | some c => s.setColl { c with err := worseErr c.err err }
  | none => s

/-- ERR 4 here and, by a message, on every other member (R357, R381). -/
def State.collFail (s : State) (id : Nat) : State := (s.collErr id 4).send (.failed id 4)

/-- What an engine's write of several ranges comes to. -/
inductive Push where
  | ok (s : State) (ls : List (Nat × Leaf))
  | wait (on : Option (Nat × Bool)) (s : State)
  | fail (va : Nat) (s : State)
  | port (port va : Nat) (s : State)
  | poison (va key : Nat) (s : State)

/-- The accesses of a collective, at the privilege level and from the core of its team (R353). -/
def State.collMiss (s : State) (c : Coll) (want : Want) : Miss :=
  let t := s.team c.team
  { die := t.die, core := t.core, fn := s.fnOfPart t.part, want, priv := t.priv, who := 16 * c.id + 10, toucher := .engine }

/-- The leaves of the ranges an engine writes, with their lengths (R150, R236). -/
def State.pushLeaves (s : State) (b : Miss) (failed : List (Nat × Bool)) : List (Nat × Nat) → Push
  | [] => .ok (s.unwalk b.who) []
  | (va, len) :: rest =>
    match s.reach b va len failed with
    | .ok l _ =>
      match s.pushLeaves b failed rest with
      | .ok t ls => .ok t ((len, l) :: ls)
      | r => r
    | .wait on s => .wait on s
    | .fail va s => .fail va s
    | .port port va s => .port port va s
    | .poison va key s => .poison va key s

/-- Writes a collective's bytes at home, its WCT and the wakes they cause kept with it (R231, R236, R255). -/
def State.collWrite (s : State) (id : Nat) (ls : List (Nat × Leaf)) (bs : List Byte) : State :=
  (ls.foldl (fun (a : State × List Byte) (len, l) =>
    let s := a.1
    let key := memKey l.mt l.pa
    let wct := (List.range (len / 128 + 2)).foldl (fun m i => max m (s.wctOf (key + min (len - 1) (128 * i)) 1)) s.time
    let (s, n) := s.homeWrite key (a.2.take len) (some (id, 32))
    (match s.coll id with
     | some c => s.setColl { c with wct := max c.wct wct, acks := c.acks + n }
     | none => s, a.2.drop len)) (s, bs)).1

/-- A range without what lies in another: each a first element and a count. -/
def cutRange (r p : Nat × Nat) : List (Nat × Nat) :=
  [(r.1, min (r.1 + r.2) p.1 - r.1), (max r.1 (p.1 + p.2), r.1 + r.2 - max r.1 (p.1 + p.2))].filter (fun e => e.2 != 0)

/-- What two ranges share. -/
def shareRange (r p : Nat × Nat) : List (Nat × Nat) :=
  [(max r.1 p.1, min (r.1 + r.2) (p.1 + p.2) - max r.1 p.1)].filter (fun e => e.2 != 0)

/-- The ranges of its destination that a collective has still to write. -/
def Coll.unwritten (c : Coll) : List (Nat × Nat) :=
  c.put.foldl (fun rs p => rs.flatMap (fun r => cutRange r p)) ([(0, c.writeLen)].filter (fun e => e.2 != 0))

/-- The merges of an `addbin` are fixed, once for the whole collective (R354). -/
def Coll.fixOrders (c : Coll) (orders : List (Nat × List Byte)) : Coll :=
  { c with orders := some (c.orders.getD (orders.map (fun e => (e.1, e.2.map (·.toNat))))) }

/-- Reduces and places the data once every member's is here and the switches have answered (R354, R355): the bytes that `nats`
names, or all that remain, since they land in any order (R38).  `stripes` name elements of an `addbin`, each with the pairs of
partial sums that are merged one after another, once for the whole collective. -/
def State.collPlace (s : State) (id : Nat) : State :=
  match s.coll id with
  | none => s
  | some c =>
    let have' := (maskMembers c.members).all (fun m => c.data.any (fun e => e.1 == m))
    if !c.started || c.complete || c.placed || c.wait.isSome || c.err != 0 || c.link.isNone || collKind c.desc = 5 || !have' then s
    else
      let c := c.fixOrders s.args.stripes
      let (bs, bo) := c.result
      let now := match s.someBytes with
        | some r => c.unwritten.flatMap (shareRange r)
        | none => c.unwritten
      let ranges := now.flatMap (fun r => subRanges (pageChunks (collDst c.desc) c.writeLen) r.1 r.2)
      match s.pushLeaves (s.collMiss c .store) c.failed ranges with
      | .ok s ls =>
        (s.setColl { c with put := c.put ++ now, placed := s.someBytes.isNone, bo }).collWrite id ls
          (now.flatMap (fun r => slice bs r.1 r.2))
      | .poison va key s => (c.joined.foldl (fun s j => s.kill j.1 5 (word64 va) (key % 2 ^ 48)) s).collFail id
      | .wait on s => s.setColl { c with wait := on }
      | .fail _ s => s.collFail id
      | .port port va s => (c.joined.foldl (fun s j => s.notePort j.2 port va) s).collFail id

/-- A member reads its own source and sends it to the others (R353); where the event names an offset and a length, those bytes
are read before the rest (R237). -/
def State.collRead (s : State) (c : Coll) : State :=
  let rs := pageChunks (collSrc c.desc) c.readLen
  let part := s.someBytes
  let rs := match part with
    | some (off, len) => subRanges rs off len
    | none => rs
  match s.pull (s.collMiss c .load) c.failed rs with
  | .ok s bs =>
    match part with
    | some (off, _) => s.setColl { c with got := c.got ++ [(off, bs)] }
    | none =>
      let bs := keepEarlier c.got bs
      (s.setColl { c with data := c.data ++ [(c.self, bs)] }).send (.contribution c.id bs)
  | .wait on s => s.setColl { c with wait := on }
  | .fail _ s => s.collFail c.id
  | .port port va s => (c.joined.foldl (fun s j => s.notePort j.2 port va) s).collFail c.id
  | .poison va key src s => (c.joined.foldl (fun s j => s.kill j.1 src (word64 va) (key % 2 ^ 48)) s).collFail c.id

/-! ### evict (R353, R356, R357) -/

/-- The pages of an `evict` with what is found at each: a leaf, a fault that may be resolved, or one that may not. -/
def State.evictPages (s : State) (fn : Nat) (failed : List (Nat × Bool)) : Nat → Nat → Nat → List (Nat × Walk × Bool)
  | 0, _, _ => []
  | n + 1, va, size =>
    match s.xlateFresh fn va with
    | .leaf l => (va / 2 ^ l.bits * 2 ^ l.bits, .leaf l, false) :: s.evictPages fn failed n (va + 2 ^ l.bits) (2 ^ l.bits)
    | .missing lvl st2 prq page =>
      let may := (st2 || (prq && fld (s.fn fn).tctl.toNat 2 2 = 1)) && !failed.contains (page, st2)
      (va, .missing lvl st2 prq page, may) :: s.evictPages fn failed n (va + size) size
    | w => (va, w, false) :: s.evictPages fn failed n (va + size) size

/-- Evicts one page of a collective (R356): the object's token becomes its BAR. -/
def State.collEvict1 (s : State) (fn token page : Nat) : State := (s.atlasSet fn page 0x28 8 token).evictPage fn page

/-- A page of an `evict` that is evicted: it translates, and is Partial (R357). -/
def evictable : Walk → Bool
  | .leaf l => l.gps = 4
  | _ => false

/-- The ERR of a page that is not: 3 where it is not Partial, 4 where it does not translate (R357). -/
def evictErr : Walk → Nat
  | .leaf _ => 3
  | _ => 4

/-- The engine of an `evict`: held while a page's fault may be resolved; then every page at once.  A poisoned table entry kills the
groups that joined it (R391), and its page does not translate. -/
def State.collEvict (s : State) (c : Coll) : State :=
  let t := s.team c.team
  let fn := s.fnOfPart t.part
  let ps := s.evictPages fn c.failed (collCount c.desc) (collSrc c.desc) 4096
  match ps.find? (fun e => e.2.2) with
  | some (_, .missing lvl st2 _ page, _) => (s.request fn st2 page lvl true false).1.setColl { c with wait := some (page, st2) }
  | _ =>
    let s := match ps.find? (fun e => e.2.1.bad?.isSome) with
      | some (va, w, _) => c.joined.foldl (fun (s : State) (j : Nat × Nat) => s.kill j.1 5 (word64 va) (w.bad?.getD 0 % 2 ^ 48)) s
      | none => s
    let go := (ps.filter (fun e => evictable e.2.1)).map (·.1)
    let bad := (ps.filter (fun e => !evictable e.2.1)).map (fun e => evictErr e.2.1)
    let s := s.setColl { c with data := c.data ++ [(c.self, [])], pages := go, err := bad.foldl worseErr c.err, owed := c.owed + bad.length }
    let s := if bad.contains 4 then s.send (.failed c.id 4) else s
    go.foldl (fun s page => s.collEvict1 fn (t.token c.obj) page) s

/-! ### Events -/

/-- SWITCH_SLOT_REQUEST of the collective `x` (R355): `ok` where every switch has a free slot. -/
def execSwitchSlotRequest (s : State) : Out :=
  let s := s.collStart s.args.x
  .next (match s.coll s.args.x with
    | some c => if c.started && !c.complete && c.link.isNone then (s.setColl { c with link := some (!s.args.ok) }).collPlace c.id else s
    | none => s)

/-- COLLECTIVE_DATA_ARRIVAL at the collective `x` of member `y` (R353, R354, R357): this member's own data is read; another's
comes in `bytes`, or with `z` = 1 its descriptor disagrees, or with `z` = 2 it met an address fault. -/
def execCollectiveDataArrival (s : State) : Out :=
  let s := s.collStart s.args.x
  .next (match s.coll s.args.x with
    | none => s
    | some c =>
      let m := s.args.y
      if !c.started || c.complete || !(maskMembers c.members).contains m then s
      else if c.data.any (fun e => e.1 == m) then s.collPlace c.id
      else if m = c.self && c.wait.isSome then s
      else if m = c.self then
        (if collKind c.desc = 5 then s.collEvict c else s.collRead c)
      else if s.args.z = 1 then s.collErr c.id 2
      else if s.args.z = 2 then s.collErr c.id 4
      else (s.setColl { c with data := c.data ++ [(m, s.args.bytes)] }).collPlace c.id)

/-- After an error every byte of the destination may hold any value (R357): free values, once no page of it waits for a walk. -/
def State.collSpoil (s : State) (c : Coll) : State :=
  let (s, late) := (pageChunks (collDst c.desc) c.writeLen).foldl (fun (r : State × Bool) (va, len) =>
    let s := r.1
    let m := { s.collMiss c .store with va, len }
    match s.access m c.failed with
    | .ok l =>
      let bs := (List.range len).map (fun k => Config.freeByte (s.free + k))
      (State.collWrite { s with free := s.free + len } c.id [(len, l)] bs, r.2)
    | .busy => (s.joinWalks [m], true)
    | _ => r) (s, false)
  match s.coll c.id with
  | some c => if late then s else (s.unwalk (16 * c.id + 10)).setColl { c with spoilt := true }
  | none => s

/-- COLLECTIVE_COMPLETE of the collective `x` (R356, R357): what it has still to write is written; then, once the wakes that its
writes caused are acknowledged (R255), it completes. -/
def execCollectiveComplete (s : State) : Out :=
  let s := s.collStart s.args.x
  .next (match s.coll s.args.x with
    | none => s
    | some c =>
      if !c.started || c.complete then s
      else if collKind c.desc = 5 then
        (if c.err = 1 || (c.pages.isEmpty && c.data.any (fun e => e.1 == c.self)) then s.collFinish c else s)
      else if c.err != 0 then
        if !c.spoilt then s.collSpoil c else if c.acks = 0 then s.collFinish c else s
      else if !c.placed then s.collPlace c.id
      else if c.acks = 0 then s.collFinish c
      else s)

/-- COLLECTIVE_ARRIVE of the collective `x` (R356): once package time exceeds its WCTs; an `evict`, once it has
completed, arrives for the pages it could not evict (R357). -/
def execCollectiveArrive (s : State) : Out :=
  .next (match s.coll s.args.x with
    | none => s
    | some c =>
      if c.owed = 0 || !c.complete || (collKind c.desc != 5 && s.time ≤ c.wct) then s
      else
        let s := s.arriveOn c.team c.obj
        if c.complete && c.owed = 1 then { s with colls := s.colls.filter (fun k => k.id != c.id) }
        else s.setColl { c with owed := c.owed - 1 })

/-! ### Membership (R358) -/

def groupOperand (detail : Nat) (a : Word64) : Trap := { code := 0x33, detail, tval := a }

/-- What a membership operation starts: its STATUS if it ends at once, or the round it waits for (R294, R358). -/
def State.memberStart (s : State) (part sub b : Nat) (rec' : List Byte) : State × Option Nat × Nat :=
  let fn := s.fnOfPart part
  let g := s.shard part
  let at' := fun off n => leNat (slice rec' off n)
  let mask := at' 8 8
  let named : Shard := { g with group := at' 0 2, stripe := at' 2 1, timeout := at' 16 4 }
  match sub with
  | 0 => (s, some (if g.present then 0 else 2), 0)
  | 1 =>
    if g.present then (s, some 3, mask)
    else if g.round.isSome then (s, some 1, mask)
    else
      let self := at' 3 1
      let s := s.setShard part { named with self, version := 0, members := 0 }
      (s.propose fn mask, none, mask)
  | 2 =>
    if g.present then
      if g.members / 2 ^ b % 2 = 1 then (s, some 2, 2 ^ b)
      else ((if g.round.isNone then s.propose fn (Nat.lor g.latestMembers (2 ^ b)) else s), none, 2 ^ b)
    else if g.round.isSome then (s, some 1, 2 ^ b)
    else if mask / 2 ^ b % 2 = 1 then (s, some 2, 2 ^ b)
    else
      let s := s.setShard part { named with self := b, version := at' 4 4, members := mask }
      (s.propose fn (Nat.lor mask (2 ^ b)), none, 2 ^ b)
  | _ =>
    if !g.present || g.members / 2 ^ b % 2 = 0 then (s, some 2, 2 ^ b)
    else ((if g.round.isNone then s.propose fn (maskDrop g.latestMembers b) else s), none, 2 ^ b)

/-- The operation of `gmemb` as it issues: it sends for the record, of which its sub-operation may name the member B. -/
def State.memberBegin (s : State) (size sub b : Nat) (a : Word64) (l : Leaf) : State :=
  let p : Piece := { va := a, key := memKey l.mt l.pa, len := 32, act := .load, space := if l.mt = 2 then .host else .home, moved := s.time, span := l.bits }
  (s.begin 7 true (.member sub (2 ^ b) 0) [p] false []).upd (fun c => { c.putNone size with failed := [] })

/-- The record of a membership operation has come (R228): what it starts, which may end it at once. -/
def State.memberGo (s : State) (o : Op) : State :=
  match o.kind, o.pieces with
  | .member sub mask _, [p] =>
    let b := mask.log2
    let mask := if sub = 1 then leNat (slice p.got 8 8) else mask
    let s := s.setOp { o with kind := .member sub mask 0, pieces := [{ p with act := .store, phase := .abandoned }] }
    let (s, st, _) := s.memberStart o.part sub b p.got
    (match st, s.op o.id with
     | some st, some o => s.setOp (o.memberDone s.time sub mask st)
     | _, _ => s)
  | _, _ => s

/-- The membership operations whose record has come start. -/
def State.membersGo (s : State) : State :=
  (s.ops.filter (fun o => o.kind matches .member _ _ _ && o.pieces.all (fun p => p.act = .load && p.phase = .replied))).foldl State.memberGo s

/-- `gmemb` (R358). -/
def execGmemb (x : Eng) (s : State) : Out :=
  issueOut (.gmemb x) s (fun s =>
    let c := s.cur
    let sub := x.fld 1 0
    let a := c.uni64 x.immW x.w.a
    let b := if sub < 2 then 0 else (c.uni x.immW x.w.b).toNat
    let size := Instr.size (.gmemb x)
    if sub != 0 && !c.priv then .next (s.raise (groupOperand 0 a))
    else if 63 < b then .next (s.raise (groupOperand 1 a))
    else if a.toNat % 32 != 0 then .next (s.raise (groupOperand 2 a))
    else if 2 ^ 57 ≤ a.toNat then .next (s.raise { code := 7, tval := a })
    else if c.full 7 then .next (s.hold .counter)
    else
      let m := { s.mine a.toNat 32 .store with toucher := Toucher.engine }
      match s.access m c.failed with
      | .ok l => .next (s.memberBegin size sub b a l)
      | x => .next (s.uniformEnd m x))

end Sys2Proof.Machine
end

