-- ==== Sys2Proof/Machine/Integer.lean ====
section
/-! DEFINITION. The integer, logic, compare, move, address and dot-product instructions, 0x00 to 0x3D (R97 to R105). -/

namespace Sys2Proof.Machine

/-- The integer format of a 32-bit TY: n32 is unsigned, every other code signed (R97, R105). -/
def ifmt32 (t : Ty) : IFmt := ⟨32, t != .n32⟩

/-- The exact value of a word under an integer format. -/
def IFmt.val (f : IFmt) (x : Word) : Int := f.read x.toNat

/-- Narrowing of an exact value to a word, with SA where SAT clamps (R94, R97). -/
def narrow32 (f : IFmt) (sat : Bool) (x : Int) : Word × Word :=
  let r := f.narrow sat x
  (word r.code, r.flags)

/-- Integer arithmetic (R97): the exact value `g a b c`, clamped or wrapped. -/
def intOp (i : Instr) (x : Long) (g : Int → Int → Int → Int) : State → Out :=
  let f := ifmt32 x.m.ty
  laneWise i x (fun c j => narrow32 f x.m.sat (g (f.val (c.opA x j)) (f.val (c.opB x j)) (f.val (c.opC x j))))

/-- A bitwise operation on A and B (R98). -/
def bitOp (i : Instr) (x : Long) (g : Word → Word → Word) : State → Out :=
  laneWise0 i x (fun c j => g (c.opA x j) (c.opB x j))

def shlW (a b : Word) : Word := let n := b.toNat % 256; if n < 32 then word (a.toNat * 2 ^ n) else 0
def shrW (a b : Word) : Word := let n := b.toNat % 256; if n < 32 then word (a.toNat / 2 ^ n) else 0
def sarW (a b : Word) : Word :=
  let n := b.toNat % 256
  if n < 32 then a.sshiftRight n else if a.msb then 0xFFFFFFFF else 0
def rotlW (a b : Word) : Word := a.rotateLeft (b.toNat % 32)
def popcW (a : Word) : Word := word (popcount a)
def clzW (a : Word) : Word := word (if a == 0 then 32 else 31 - a.toNat.log2)
def brevW (a : Word) : Word := maskOf (fun i => a.getLsbD (31 - i))

/-- The length of a field at `pos` of at most `len` bits (R99). -/
def fieldLen (pos len : Nat) : Nat := if 32 ≤ pos then 0 else min len (32 - pos)

/-- `bfe` (R99). -/
def bfeW (sx : Bool) (a b c : Word) : Word :=
  let pos := b.toNat % 256
  let n := fieldLen pos (c.toNat % 256)
  let f := a.toNat / 2 ^ pos % 2 ^ n
  if sx && 0 < n && f / 2 ^ (n - 1) % 2 = 1 then word (f + 2 ^ 32 - 2 ^ n) else word f

/-- `bfi` (R99). -/
def bfiW (a b c : Word) : Word :=
  let pos := c.toNat % 256
  let n := fieldLen pos (c.toNat / 256 % 256)
  let m := word ((2 ^ n - 1) * 2 ^ pos)
  (a &&& ~~~m) ||| (word (b.toNat * 2 ^ pos) &&& m)

/-- The relations of R100, by SUBOP. -/
def relation (subop : Nat) (a b : Int) : Bool :=
  match subop with
  | 0 => a == b | 1 => a != b | 2 => a < b | 3 => a ≤ b | 4 => a > b | _ => a ≥ b

/-- `icmp`'s operands as TY reads them (R100). -/
def icmpVal (t : Ty) (w : Word) (d : Word64) : Int :=
  match t with
  | .n32 => w.toNat | .i64 => d.toInt | .n64 => d.toNat | _ => w.toInt

/-- `smov`'s 32-bit operations (R103). -/
def smovW (subop : Nat) (a b : Word) : Word :=
  match subop with
  | 0 => a | 1 => a + b | 2 => a - b | 3 => a * b | 4 => a &&& b | 5 => a ||| b | 6 => a ^^^ b
  | 7 => shlW a b | 8 => shrW a b
  | 9 => if a.toInt ≤ b.toInt then a else b
  | _ => if a.toInt ≤ b.toInt then b else a

/-- `smov` (R103): group-uniform. -/
def smovOp (i : Instr) (x : Long) (s : State) : Out :=
  issue i s (fun s => s.upd (fun c =>
    if x.m.subop = 11 then c.putS64 x.w i.size (c.opA64 x 0 + c.opB64 x 0)
    else if x.m.subop = 12 then c.putS64 x.w i.size (c.opA64 x 0 - c.opB64 x 0)
    else c.putS x.w i.size (smovW x.m.subop.toNat (c.opA x 0) (c.opB x 0))))

/-- `mov` (R102): 64 bits with TY i64. -/
def movOp (i : Instr) (x : Long) (s : State) : Out :=
  issue i s (fun s => s.upd (fun c =>
    if x.m.ty = .i64 then c.putV64 x.w (c.enabledM x.m) i.size (lanes.map (c.opA64 x))
    else c.putV x.w (c.enabledM x.m) i.size (vecOf (c.opA x))))

/-- The extension of a 32-bit operand that TY gives (R104). -/
def extTy (t : Ty) (x : Word) : Word64 := if t = .n32 then x.setWidth 64 else sext64 x

/-- Address arithmetic (R104). -/
def addrOp (i : Instr) (x : Long) (g : Word64 → Word64 → Word64 → Word64) (s : State) : Out :=
  issue i s (fun s => s.upd (fun c => c.putV64 x.w (c.enabledM x.m) i.size
    (lanes.map (fun j => g (c.opA64 x j) (extTy x.m.ty (c.opB x j)) (extTy x.m.ty (c.opC x j))))))

/-- The exact dot product of `k` elements of `bits` bits (R105). -/
def dotInt (bits k : Nat) (sa sb : Bool) (a b : Word) : Int :=
  (List.range k).foldl (fun t e =>
    t + (⟨bits, sa⟩ : IFmt).read (a.toNat / 2 ^ (bits * e)) * (⟨bits, sb⟩ : IFmt).read (b.toNat / 2 ^ (bits * e))) 0

/-- `dp4` and `dp2` (R105): no clamp between terms. -/
def dotOp (i : Instr) (x : Long) (bits k : Nat) (unsigned : Ty) : State → Out :=
  let sb := x.m.ty != unsigned && x.m.subop = 0
  let acc : IFmt := ⟨32, x.m.ty != unsigned⟩
  laneWise i x (fun c j => narrow32 acc x.m.sat
    (acc.val (c.opC x j) + dotInt bits k (x.m.ty != unsigned) sb (c.opA x j) (c.opB x j)))

/-- `iadd`, short form (R97, R58). -/
def execIadd (x : Short) : State → Out := intOp (.iadd x) x.toLong (fun a b _ => a + b)

/-- `iadd`, long form (R97). -/
def execIaddLong (x : Long) : State → Out := intOp (.iaddLong x) x (fun a b _ => a + b)

/-- `isub`, short form (R97, R58). -/
def execIsub (x : Short) : State → Out := intOp (.isub x) x.toLong (fun a b _ => a - b)

/-- `isub`, long form (R97). -/
def execIsubLong (x : Long) : State → Out := intOp (.isubLong x) x (fun a b _ => a - b)

/-- `imul`, short form (R97, R58). -/
def execImul (x : Short) : State → Out := intOp (.imul x) x.toLong (fun a b _ => a * b)

/-- `imul`, long form (R97). -/
def execImulLong (x : Long) : State → Out := intOp (.imulLong x) x (fun a b _ => a * b)

/-- `imulh`, short form (R97, R58). -/
def execImulh (x : Short) : State → Out := intOp (.imulh x) x.toLong (fun a b _ => a * b / 2 ^ 32)

/-- `imulh`, long form (R97). -/
def execImulhLong (x : Long) : State → Out := intOp (.imulhLong x) x (fun a b _ => a * b / 2 ^ 32)

/-- `imad` (R97). -/
def execImad (x : Long) : State → Out := intOp (.imad x) x (fun a b c => a * b + c)

/-- `imin`, short form (R97, R58). -/
def execImin (x : Short) : State → Out := intOp (.imin x) x.toLong (fun a b _ => min a b)

/-- `imin`, long form (R97). -/
def execIminLong (x : Long) : State → Out := intOp (.iminLong x) x (fun a b _ => min a b)

/-- `imax`, short form (R97, R58). -/
def execImax (x : Short) : State → Out := intOp (.imax x) x.toLong (fun a b _ => max a b)

/-- `imax`, long form (R97). -/
def execImaxLong (x : Long) : State → Out := intOp (.imaxLong x) x (fun a b _ => max a b)

/-- `iabs`, short form (R97, R58). -/
def execIabs (x : Short) : State → Out := intOp (.iabs x) x.toLong (fun a _ _ => a.natAbs)

/-- `iabs`, long form (R97). -/
def execIabsLong (x : Long) : State → Out := intOp (.iabsLong x) x (fun a _ _ => a.natAbs)

/-- `ineg`, short form (R97, R58). -/
def execIneg (x : Short) : State → Out := intOp (.ineg x) x.toLong (fun a _ _ => -a)

/-- `ineg`, long form (R97). -/
def execInegLong (x : Long) : State → Out := intOp (.inegLong x) x (fun a _ _ => -a)

/-- `and`, short form (R98, R58). -/
def execAnd (x : Short) : State → Out := bitOp (.and x) x.toLong (· &&& ·)

/-- `and`, long form (R98). -/
def execAndLong (x : Long) : State → Out := bitOp (.andLong x) x (· &&& ·)

/-- `or`, short form (R98, R58). -/
def execOr (x : Short) : State → Out := bitOp (.or x) x.toLong (· ||| ·)

/-- `or`, long form (R98). -/
def execOrLong (x : Long) : State → Out := bitOp (.orLong x) x (· ||| ·)

/-- `xor`, short form (R98, R58). -/
def execXor (x : Short) : State → Out := bitOp (.xor x) x.toLong (· ^^^ ·)

/-- `xor`, long form (R98). -/
def execXorLong (x : Long) : State → Out := bitOp (.xorLong x) x (· ^^^ ·)

/-- `not`, short form (R98, R58). -/
def execNot (x : Short) : State → Out := bitOp (.not x) x.toLong (fun a _ => ~~~a)

/-- `not`, long form (R98). -/
def execNotLong (x : Long) : State → Out := bitOp (.notLong x) x (fun a _ => ~~~a)

/-- `shl`, short form (R98, R58). -/
def execShl (x : Short) : State → Out := bitOp (.shl x) x.toLong shlW

/-- `shl`, long form (R98). -/
def execShlLong (x : Long) : State → Out := bitOp (.shlLong x) x shlW

/-- `shr`, short form (R98, R58). -/
def execShr (x : Short) : State → Out := bitOp (.shr x) x.toLong shrW

/-- `shr`, long form (R98). -/
def execShrLong (x : Long) : State → Out := bitOp (.shrLong x) x shrW

/-- `sar`, short form (R98, R58). -/
def execSar (x : Short) : State → Out := bitOp (.sar x) x.toLong sarW

/-- `sar`, long form (R98). -/
def execSarLong (x : Long) : State → Out := bitOp (.sarLong x) x sarW

/-- `rotl`, short form (R98, R58). -/
def execRotl (x : Short) : State → Out := bitOp (.rotl x) x.toLong rotlW

/-- `rotl`, long form (R98). -/
def execRotlLong (x : Long) : State → Out := bitOp (.rotlLong x) x rotlW

/-- `bfe` (R99). -/
def execBfe (x : Long) : State → Out := laneWise0 (.bfe x) x (fun c j => bfeW (x.m.subop = 1) (c.opA x j) (c.opB x j) (c.opC x j))

/-- `bfi` (R99). -/
def execBfi (x : Long) : State → Out := laneWise0 (.bfi x) x (fun c j => bfiW (c.opA x j) (c.opB x j) (c.opC x j))

/-- `popc`, short form (R98, R58). -/
def execPopc (x : Short) : State → Out := bitOp (.popc x) x.toLong (fun a _ => popcW a)

/-- `popc`, long form (R98). -/
def execPopcLong (x : Long) : State → Out := bitOp (.popcLong x) x (fun a _ => popcW a)

/-- `clz`, short form (R98, R58). -/
def execClz (x : Short) : State → Out := bitOp (.clz x) x.toLong (fun a _ => clzW a)

/-- `clz`, long form (R98). -/
def execClzLong (x : Long) : State → Out := bitOp (.clzLong x) x (fun a _ => clzW a)

/-- `brev`, short form (R98, R58). -/
def execBrev (x : Short) : State → Out := bitOp (.brev x) x.toLong (fun a _ => brevW a)

/-- `brev`, long form (R98). -/
def execBrevLong (x : Long) : State → Out := bitOp (.brevLong x) x (fun a _ => brevW a)

/-- `icmp` (R100). -/
def execIcmp (x : Long) : State → Out := laneWiseP (.icmp x) x (fun c j =>
    (relation x.m.subop.toNat (icmpVal x.m.ty (c.opA x j) (c.opA64 x j)) (icmpVal x.m.ty (c.opB x j) (c.opB64 x j)), 0))

/-- `sel` (R101). -/
def execSel (x : Long) : State → Out := laneWise0 (.sel x) x (fun c j =>
    if (c.preg (x.m.subop.toNat % 8)).getLsbD j != (8 ≤ x.m.subop.toNat) then c.opA x j else c.opB x j)

/-- `mov`, short form (R102, R58). -/
def execMov (x : Short) : State → Out := movOp (.mov x) x.toLong

/-- `mov`, long form (R102). -/
def execMovLong (x : Long) : State → Out := movOp (.movLong x) x

/-- `smov`, short form (R103, R58). -/
def execSmov (x : Short) : State → Out := smovOp (.smov x) x.toLong

/-- `smov`, long form (R103). -/
def execSmovLong (x : Long) : State → Out := smovOp (.smovLong x) x

/-- `ladd`, short form (R104, R58). -/
def execLadd (x : Short) : State → Out := addrOp (.ladd x) x.toLong (fun a b _ => a + b)

/-- `ladd`, long form (R104). -/
def execLaddLong (x : Long) : State → Out := addrOp (.laddLong x) x (fun a b _ => a + b)

/-- `lsub`, short form (R104, R58). -/
def execLsub (x : Short) : State → Out := addrOp (.lsub x) x.toLong (fun a b _ => a - b)

/-- `lsub`, long form (R104). -/
def execLsubLong (x : Long) : State → Out := addrOp (.lsubLong x) x (fun a b _ => a - b)

/-- `lmad` (R104). -/
def execLmad (x : Long) : State → Out := addrOp (.lmad x) x (fun a b c => a + b * c)

/-- `dp4` (R105). -/
def execDp4 (x : Long) : State → Out := dotOp (.dp4 x) x 8 4 .n8

/-- `dp2` (R105). -/
def execDp2 (x : Long) : State → Out := dotOp (.dp2 x) x 16 2 .n16

end Sys2Proof.Machine
end

