-- ==== Sys2Proof/Machine/CrossLane.lean ====
section
/-! DEFINITION. The cross-lane instructions, 0x81 to 0x8F (R117 to R126). -/

namespace Sys2Proof.Machine

/-- A floating sum rounded to FP32, and its flags (R106). -/
def addF32 (rnd : Rnd) (a b : Nat) : Rounded :=
  fp32.round rnd false 0 ((fp32.read a).exact.add (rnd = .rdn) (fp32.read b).exact)

/-- `vote` (R118). -/
def voteBit (subop : Nat) (m : Word) (a : Nat → Word) : Bool :=
  let l := lanesOf m
  match subop with
  | 0 => l.all (fun i => a i != 0)
  | 1 => l.any (fun i => a i != 0)
  | _ => l.all (fun i => a i == a (l.headD 0))

def voteOp (i : Instr) (x : Long) (s : State) : Out :=
  issue i s (fun s => s.upd (fun c =>
    let m := c.enabledM x.m
    c.putP x.w m i.size (if voteBit x.m.subop.toNat m (c.opA x) then allLanes else 0)))

/-- `ballot` (R119). -/
def ballotOp (i : Instr) (x : Long) (s : State) : Out :=
  issue i s (fun s => s.upd (fun c =>
    let m := c.enabledM x.m
    c.putS x.w i.size (maskOf (fun j => m.getLsbD j && c.opA x j != 0))))

/-- The source lane of `shfl` (R121). -/
def shflLane (subop i : Nat) (b : Word) : Nat :=
  match subop with
  | 0 => b.toNat % 32
  | 1 => if b.toNat ≤ i then i - b.toNat else i
  | 2 => if i + b.toNat < 32 then i + b.toNat else i
  | _ => i ^^^ (b.toNat % 32)

/-- One level of the tree of R122: neighbouring nodes joined, an absent one passing the other. -/
def joinTree (rnd : Rnd) : List (Option Rounded) → List (Option Rounded)
  | a :: b :: l =>
    (match a, b with
      | some p, some q =>
        let r := addF32 rnd p.code q.code
        some { r with flags := r.flags ||| p.flags ||| q.flags }
      | some p, none => some (let r := passF32 p.code; { r with flags := r.flags ||| p.flags })
      | none, some q => some (let r := passF32 q.code; { r with flags := r.flags ||| q.flags })
      | none, none => none) :: joinTree rnd l
  | l => l

/-- The fixed tree over 32 leaves (R122). -/
def treeSum (rnd : Rnd) (m : Word) (a : Nat → Word) : Rounded :=
  let leaves := lanes.map (fun i => if m.getLsbD i then some (⟨(a i).toNat, 0, 0⟩ : Rounded) else none)
  let j := joinTree rnd
  ((j (j (j (j (j leaves))))).headD none).getD ⟨0, 0, 0⟩

/-- `radd` (R122). -/
def raddOp (i : Instr) (x : Long) (s : State) : Out :=
  issue i s (fun s => s.upd (fun c =>
    let m := c.enabledM x.m
    if x.m.ty = .f32 then
      let r := treeSum (effRnd c.mode false x.m.rnd) m (c.opA x)
      (c.stick r.flags).putS x.w i.size (word r.code)
    else
      let f := ifmt32 x.m.ty
      let (r, fl) := narrow32 f x.m.sat ((lanesOf m).foldl (fun t j => t + f.val (c.opA x j)) 0)
      (c.stick fl).putS x.w i.size r))

/-- An extreme of the contributing lanes (R123). -/
def extreme (t : Ty) (max : Bool) (l : List Word) : Word × Word :=
  match l with
  | [] => (0, 0)
  | a :: l =>
    if t = .f32 then
      let r := l.foldl (fun (r : Rounded) b =>
        let q := fp32.minMax max false r.code b.toNat; { q with flags := q.flags ||| r.flags }) (passF32 a.toNat)
      (word r.code, r.flags)
    else
      let f := ifmt32 t
      (l.foldl (fun r b => if (f.val b < f.val r) = (max = false) then b else r) a, 0)

/-- `rext` (R123). -/
def rextOp (i : Instr) (x : Long) (s : State) : Out :=
  issue i s (fun s => s.upd (fun c =>
    let m := c.enabledM x.m
    let l := (lanesOf m).map (c.opA x)
    let (r, fl) : Word × Word := match x.m.subop.toNat with
      | 0 => extreme x.m.ty false l
      | 1 => extreme x.m.ty true l
      | 2 => (match l with | [] => 0 | a :: l => l.foldl (· &&& ·) a, 0)
      | 3 => (l.foldl (· ||| ·) 0, 0)
      | 4 => (l.foldl (· ^^^ ·) 0, 0)
      | 5 => (l.headD 0, 0)
      | _ => (c.opA x ((c.opB x 0).toNat % 32), 0)
    (c.stick fl).putS x.w i.size r))

/-- A running prefix in ascending enabled lanes: `step` from what came before and the lane's A gives what the lane
receives, what goes on, and flags (R124). -/
def prefixes {α : Type} (step : Option α → Word → Word × α × Word) :
    List (Nat × Word) → Option α → List (Nat × Word) × Word
  | [], _ => ([], 0)
  | (i, a) :: l, acc =>
    let (r, acc', fl) := step acc a
    let (rest, fl') := prefixes step l (some acc')
    ((i, r) :: rest, fl ||| fl')

/-- Integer prefix sums, each exact and clamped or wrapped by itself (R124). -/
def scanInt (f : IFmt) (sat excl : Bool) (acc : Option Int) (a : Word) : Word × Int × Word :=
  let t := acc.getD 0
  let u := t + f.val a
  let (r, fl) := narrow32 f sat (if excl then t else u)
  (r, u, fl)

/-- FP32 prefix sums lane by lane; the first prefix passes its value (R124).  A signalling NaN in any enabled lane sets IV (R73);
under `excadd` the A of the highest enabled lane enters no prefix and sets no other flag (DESIGN CHOICE, log 44). -/
def scanF32 (rnd : Rnd) (excl : Bool) (acc : Option (Option Rounded)) (a : Word) : Word × Option Rounded × Word :=
  let prev := acc.getD none
  let next : Rounded := match prev with
    | none => passF32 a.toNat
    | some p => addF32 rnd p.code a.toNat
  if excl then
    let iv := (passF32 a.toNat).flags
    match prev with
    | none => (0, some ⟨a.toNat, 0, 0⟩, iv)
    | some p => let q := passF32 p.code; (word q.code, some (addF32 rnd q.code a.toNat), q.flags ||| p.flags ||| iv)
  else (word next.code, some next, next.flags)

def scanPick (g : Word → Word → Word) (acc : Option Word) (a : Word) : Word × Word × Word :=
  let r := match acc with
    | none => a
    | some p => g p a
  (r, r, 0)

/-- `scan` (R124). -/
def scanOp (i : Instr) (x : Long) (s : State) : Out :=
  issue i s (fun s => s.upd (fun c =>
    let m := c.enabledM x.m
    let l := (lanesOf m).map (fun j => (j, c.opA x j))
    let f := ifmt32 x.m.ty
    let rnd := effRnd c.mode false x.m.rnd
    let (r, fl) := match x.m.subop.toNat, x.m.ty with
      | 0, .f32 => prefixes (scanF32 rnd false) l none
      | 1, .f32 => prefixes (scanF32 rnd true) l none
      | 0, _ => prefixes (scanInt f x.m.sat false) l none
      | 1, _ => prefixes (scanInt f x.m.sat true) l none
      | 2, _ => prefixes (scanPick (fun p a => if f.val a > f.val p then a else p)) l none
      | 3, _ => prefixes (scanPick (fun p a => if f.val a < f.val p then a else p)) l none
      | 4, _ => prefixes (scanPick (· ||| ·)) l none
      | _, _ => prefixes (scanPick (· &&& ·)) l none
    (c.stick fl).putV x.w m i.size (vecOf (fun j => ((r.find? (·.1 == j)).map (·.2)).getD 0))))

/-! ### Neighbour reads (R125, R126) -/

/-- The groups present in the cluster of a context, in chain order: by team index, then by group index (R125).  DESIGN CHOICE
(log 51): a group that has ended and still drains is present no more. -/
def State.chain (s : State) (c : Ctx) : List Ctx :=
  let t := s.team c.team
  let mine := s.ctxs.filter (fun d =>
    let u := s.team d.team
    d.kind = .group && !d.ended && u.part == t.part && u.tcb == t.tcb && u.clusid == t.clusid)
  sortBy (fun a b => a.teamid < b.teamid || (a.teamid == b.teamid && a.grpid ≤ b.grpid)) mine

/-- The lane is a member of its group (R19). -/
def Ctx.member (c : Ctx) (i : Nat) : Bool :=
  c.frags.any (fun o => (o.map (fun f => f.fmask.getLsbD i)).getD false)
    || c.joins.any (fun o => (o.map (fun r => r.jarr.getLsbD i)).getD false)

/-- The value of a register at the neighbouring position, if there is one (R125). -/
def State.neighbour (s : State) (c : Ctx) (right : Bool) (r i : Nat) : Option Word :=
  if (right && i < 31) || (!right && 0 < i) then
    let j := if right then i + 1 else i - 1
    if c.member j then some (c.vreg r j) else none
  else
    let l := s.chain c
    match l.findIdx? (·.uid == c.uid) with
    | none => none
    | some k =>
      let d := if right then l[k + 1]? else if k = 0 then none else l[k - 1]?
      match d with
      | none => none
      | some d => let j := if right then 0 else 31
        if d.member j then some (d.vreg r j) else none

/-- `nbr` (R125).  DESIGN CHOICE (log 51): a lane of another group is read in the step of the issue, one of the moments that R126
allows. -/
def nbrOp (i : Instr) (x : Long) (s : State) : Out :=
  issue i s (fun s => s.upd (fun c =>
    let r := match x.w.a with | .v n => n.toNat | _ => 0
    c.putV x.w (c.enabledM x.m) i.size (vecOf (fun j => (s.neighbour c (x.m.subop = 1) r j).getD (c.opB x j)))))

/-- `vote` (R118). -/
def execVote (x : Long) : State → Out := voteOp (.vote x) x

/-- `ballot`, short form (R119, R58). -/
def execBallot (x : Short) : State → Out := ballotOp (.ballot x) x.toLong

/-- `ballot`, long form (R119). -/
def execBallotLong (x : Long) : State → Out := ballotOp (.ballotLong x) x

/-- `bcast`, short form (R120, R58). -/
def execBcast (x : Short) : State → Out := laneWise0 (.bcast x) x.toLong (fun c _ => c.opA x.toLong ((c.opB x.toLong 0).toNat % 32))

/-- `bcast`, long form (R120). -/
def execBcastLong (x : Long) : State → Out := laneWise0 (.bcastLong x) x (fun c _ => c.opA x ((c.opB x 0).toNat % 32))

/-- `shfl`, short form (R121, R58). -/
def execShfl (x : Short) : State → Out := laneWise0 (.shfl x) x.toLong (fun c j => c.opA x.toLong (shflLane x.toLong.m.subop.toNat j (c.opB x.toLong j)))

/-- `shfl`, long form (R121). -/
def execShflLong (x : Long) : State → Out := laneWise0 (.shflLong x) x (fun c j => c.opA x (shflLane x.m.subop.toNat j (c.opB x j)))

/-- `radd`, short form (R122, R58). -/
def execRadd (x : Short) : State → Out := raddOp (.radd x) x.toLong

/-- `radd`, long form (R122). -/
def execRaddLong (x : Long) : State → Out := raddOp (.raddLong x) x

/-- `rext` (R123). -/
def execRext (x : Long) : State → Out := rextOp (.rext x) x

/-- `scan` (R124). -/
def execScan (x : Long) : State → Out := scanOp (.scan x) x

/-- `nbr` (R125). -/
def execNbr (x : Long) : State → Out := nbrOp (.nbr x) x

end Sys2Proof.Machine
end

