-- ==== Sys2Proof/Machine/Launch.lean ====
section
/-! DEFINITION. Task control blocks, launch queues, placement and grid ends (R366 to R375, R380). -/

namespace Sys2Proof.Machine

/-! ### Kernel records (R182 to R184, R190) -/

/-- A kernel record as the dispatcher reads it. -/
def State.kernelAt (s : State) (fn krec : Nat) : Kernel :=
  let g := fun off n => s.vreadLE fn (krec + off) n
  let img := g 0x30 8
  let spt := s.imgGet fn img 0x08 8
  let rct := s.imgGet fn img 0x10 8
  { krec := word64 krec, img := word64 img, thread := g 6 2 / 2 % 2 = 1, entry := word64 (g 8 8),
    trapvec := if g 6 2 % 2 = 1 then word64 (g 0x10 8) else 0, groups := g 0x20 1, quads := g 0x21 1, teams := g 0x22 1,
    regblk := g 0x23 1, scratch := g 0x24 4, flashcost := g 0x28 4, audit := g 0x2F 1,
    points := (List.range (g 0x2E 1)).map (fun i => s.pointAt fn rct (spt + 48 * (g 0x2C 2 + i))) }

/-- GROUPS, QUADS, TEAMS and REGBLK of a kernel record lie within R182: a team then has at most 32 groups, and a cluster is a
line of at most 3 quads and 12 cores (R4, R5). -/
def Kernel.whole (k : Kernel) : Bool :=
  1 ≤ k.groups && k.groups ≤ 32 && 1 ≤ k.quads && k.quads ≤ 3 && 1 ≤ k.teams && k.teams ≤ 4 * k.quads && k.regblk ≤ 6

/-- KREC is a kernel record of a loaded image (R190, R369): it lies in the kernel table of its own image, and is such as the
loader accepts (R182, R189; log 47). -/
def State.kernelOk (s : State) (fn krec : Nat) : Bool :=
  let img := s.vreadLE fn (krec + 0x30) 8
  let krt := s.imgGet fn img 0 8
  (s.keyOf fn krec).isSome && (s.keyOf fn img).isSome && krt ≤ krec && (krec - krt) % 64 = 0 && (krec - krt) / 64 < s.imgGet fn img 0x30 2
    && (s.kernelAt fn krec).whole

/-- The dispatcher is a second agent of the pages that it reads a kernel's record and tables from (R225). -/
def State.touchKernel (s : State) (fn krec : Nat) : State :=
  let s := s.vtouch fn krec 64
  let img := s.vreadLE fn (krec + 0x30) 8
  let s := s.vtouch fn img 64
  let k := s.kernelAt fn krec
  k.points.foldl (fun s p => if p.at' = 0 then s else s.pointTouch fn p.rct p.at') s

/-! ### Areas and checks (R367, R369) -/

/-- The spill and checkpoint areas of a grid, as offsets in the vault window and lengths (R367); one with no byte is none. -/
def areasOf (k : Kernel) (grid spill spq ckpt : Nat) : List (Nat × Nat) :=
  [(spill, 136 * spq * (grid * k.teams)), (ckpt, 136 * 32 * k.groups * (grid * k.teams))].filter (fun a => a.2 != 0)

/-- The areas of a grid lie in the vault window. -/
def areasFit (k : Kernel) (grid spill spq ckpt vwsize : Nat) : Bool :=
  (areasOf k grid spill spq ckpt).all (fun a => a.1 + a.2 ≤ vwsize)

/-- What R369 finds wrong with a TCB submitted; 0 for nothing. -/
def State.tcbBad (s : State) (part tcb : Nat) : Nat :=
  let g := fun off n => s.tcbGet part tcb off n
  let fn := s.fnOfPart part
  let q := s.queue (g 0xC 1)
  let grid := g 8 4
  let reserved := g 0xF 1 != 0 || g 0x16 2 != 0 || g 0x56 2 != 0 || g 0x68 8 != 0 || g 0x70 8 != 0 || g 0x78 8 != 0
  let rest := ((List.range 64).filter (g 0xD 1 ≤ ·)).any (fun i => g (0x80 + 4 * i) 4 != 0)
  if !s.kernelOk fn (g 0 8) then 1
  else if 63 < g 0xC 1 || !q.en || q.part != part then 2
  else if grid = 0 || 2 ^ 24 < grid || 64 < g 0xD 1 || 16 < g 0x14 2 || reserved || rest
      || !areasFit (s.kernelAt fn (g 0 8)) grid (g 0x38 8) (g 0x40 4) (g 0x48 8) (s.part part).vwsize then 3
  else 0

/-! ### Queues (R368, R370, R371) -/

/-- A queue that its partition's dispatcher may choose: it holds a TCB with a cluster to place (R371). -/
def Queue.candidate (q : Queue) : Bool := q.en && 1 ≤ q.weight && !q.fifo.isEmpty

/-- Replaces a queue; its credit is 0 when it becomes a candidate (R371). -/
def State.putQueue (s : State) (n : Nat) (q : Queue) : State :=
  s.setQueue n (if q.candidate && !(s.queue n).candidate then { q with credit := 0 } else q)

/-- The hardware reads `n` TCBs of a partition, from one on: it is a second agent of their pages (R225). -/
def State.tcbTouch (s : State) (part tcb n : Nat) : State :=
  if n = 0 then s else s.vtouch (s.fnOfPart part) (s.tcbAddr part tcb) (384 * n)

/-- QDEPTH: the TCBs of a queue in state 2 (R370). -/
def State.qdepth (s : State) (n : Nat) : Nat :=
  let q := s.queue n
  (q.fifo.filter (fun t => s.tcbGet q.part t 0xE 1 = 2)).length

/-- A TCB becomes ready at the tail of its QUEUE (R368). -/
def State.makeReady (s : State) (part tcb : Nat) : State :=
  let n := s.tcbGet part tcb 0xC 1
  let s := s.tcbSet part tcb 0xE 1 2
  s.putQueue n { s.queue n with fifo := (s.queue n).fifo ++ [tcb] }

/-- A supervisor TCB is submitted (R368). -/
def State.submit (s : State) (part tcb : Nat) : State :=
  let bad := s.tcbBad part tcb
  if bad != 0 then (s.tcbSet part tcb 0x44 4 bad).tcbSet part tcb 0xE 1 5
  else if s.tcbGet part tcb 0x10 4 = 0 then (s.tcbSet part tcb 0x44 4 0).makeReady part tcb
  else (s.tcbSet part tcb 0x44 4 0).tcbSet part tcb 0xE 1 1

/-- QSUB of the queue `x` with `value` written (R370). -/
def execQsub (s : State) : Out :=
  let n := s.args.x % 64
  let i := s.args.value.toNat % 2 ^ 13
  let q := s.queue n
  let err := if (s.part q.part).hcnt ≤ i then 1 else if s.tcbGet q.part i 0xE 1 != 0 then 2 else 0
  let s := s.setQueue n { q with index := i, qerr := err }
  let fn := s.fnOfPart q.part
  let s := s.tcbTouch q.part i 1
  .next (if err = 0 then State.submit (s.touchKernel fn (s.tcbGet q.part i 0 8)) q.part i else s)

/-- The dispatcher of a partition chooses a queue: the rule of R335 over the weights (R371). -/
def State.chooseQueue (s : State) (part : Nat) : State :=
  let es := (List.range 64).filter (fun n => (s.queue n).part == part && (s.queue n).candidate)
  let sum := es.foldl (fun k n => k + (s.queue n).weight) 0
  let s : State := es.foldl (fun (s : State) n => s.setQueue n { s.queue n with credit := (s.queue n).credit + (s.queue n).weight }) s
  match chooseLap (es.map (fun n => (n, (s.queue n).credit))) with
  | none => s
  | some (n, c) => (s.setQueue n { s.queue n with credit := c - sum }).setPart part { s.part part with chosen := some n }

/-! ### Placement (R372) -/

/-- A slice that a partition may place on: its own and not lent away, or lent to it for a kernel cheap to flash back and not
recalled (R372, R382, R383). -/
def State.sliceOpen (s : State) (part : Nat) (k : Kernel) (die slice : Nat) : Bool :=
  match s.sys.loans.find? (fun l => l.die == die && l.slice == slice) with
  | some l => l.borrower == part && l.recallAt.isNone && k.flashcost ≤ 234000
  | none => (s.part part).slices / 2 ^ (8 * die + slice) % 2 = 1

/-- The threads that hold slots of a quad; one that has ended holds none (R308, R372). -/
def State.threadsOn (s : State) (quad : Nat) : List Ctx :=
  s.ctxs.filter (fun c => c.kind = .thread && !c.ended && quadNo c.loc.die c.loc.core == quad && !(s.team c.team).out)

/-- A core has what a team of a kernel needs (R195, R196, R372): the slots and units of an ended group count as free. -/
def State.coreFits (s : State) (k : Kernel) (die core : Nat) : Bool :=
  let used := (s.teamsOn die core).foldl (fun n t => n + t.kern.scratch) 0
  ((s.onCore die core).filter (!·.ended)).length + k.groups ≤ 48 && k.groups * unitsOf k.acq ≤ s.freeUnits die core && used + k.scratch ≤ 524288

/-- The cores of a cluster's line, one for each team: the first of its quads' cores (R372). -/
def lineCores (k : Kernel) (slice r : Nat) : List Nat := (List.range k.teams).map (fun t => 4 * (4 * slice + r) + t)

/-- What a team brings back with it fits on a core and its quad (R332, R380): its handles, units, slots and tiles are free
there, and there are frame tiles for its pairs. -/
def State.stashFits (s : State) (t : Team) (die core : Nat) : Bool :=
  let q := s.quad (quadNo die core)
  let tiles := (List.range 32).filter (fun n => !((s.teamsOn die core).flatMap (fun u => u.pairs.filterMap (·.tile))).contains n)
  t.stash.rsv.all (fun (h, r) => (q.rsvAt h).team = 0 &&
      (r.kind = 2 || (List.range ((r.len + 4095) / 4096)).all (fun u => !q.unitTaken (r.base / 4096 + u))))
    && t.stash.slots.all (fun (k, _) => (q.slotAt k).team = 0) && t.stash.tiles.all (fun (a, _) => (q.tileAt a).team = 0)
    && (t.pairs.filter (·.tile.isSome)).length ≤ tiles.length

/-- A cluster fits on the line at (die, slice, r), whole in that slice (R5, R372); `back` are its teams where it is placed again. -/
def State.lineFits (s : State) (part : Nat) (k : Kernel) (back : List Team) (die slice r : Nat) : Bool :=
  let cores := lineCores k slice r
  let quads := (List.range k.quads).map (fun i => 32 * die + 4 * slice + r + i)
  let threads := fun (n : Nat) => if k.thread then (cores.filter (fun c => quadNo die c == n)).length else 0
  k.whole && s.sliceOpen part k die slice && quads.all (fun n => !(s.quad n).retired && (s.threadsOn n).length + threads n ≤ 4)
    && cores.all (fun c => s.coreFits k die c)
    && back.all (fun t => s.stashFits t die (cores.getD t.teamid 0))

/-- The lowest place at which a cluster fits. -/
def State.findLine (s : State) (part : Nat) (k : Kernel) (back : List Team) : Option (Nat × Nat × Nat) :=
  let places := (List.range 8).flatMap (fun d => (List.range 8).flatMap (fun sl => (List.range (5 - min 4 (max 1 k.quads))).map (fun r => (d, sl, r))))
  places.find? (fun p => s.lineFits part k back p.1 p.2.1 p.2.2)

/-- The lowest team number free on a core (R289). -/
def State.freeTeamSlot (s : State) (die core : Nat) : Nat :=
  ((List.range 64).find? (fun n => (s.teamsOn die core).all (·.slot != n))).getD 0

/-- The lowest free thread slot of a quad (R308). -/
def State.freeThread (s : State) (quad : Nat) : Nat :=
  ((List.range 4).find? (fun n => (s.threadsOn quad).all (·.loc.slot != n))).getD 0

/-- A team's control thread at its launch (R300, R309). -/
def State.addThread (s : State) (t : Team) : State :=
  let loc : Loc := { die := t.die, core := t.core, slot := s.freeThread (quadNo t.die t.core) }
  let f : Frag := { pc := t.kern.entry, fmask := allLanes, amask := allLanes }
  s.addCtx { uid := s.uids + 1, kind := .thread, team := t.id, grpid := 32, teamid := t.teamid, clusid := t.clusid, ngrp := t.kern.groups, loc,
             acq := 0, s := argRegs t.args 32, frags := some f :: List.replicate 7 none, joins := List.replicate 8 none,
             priv := t.priv, svec := (s.part t.part).psvec, born := s.uids + 1 }

/-- A group of a team at its launch (R27, R195): 32 lanes at ENTRY. -/
def State.addGroup (s : State) (t : Team) (g : Nat) : State :=
  match s.launchLoc t.die t.core with
  | none => s
  | some loc =>
    let c := s.freshGroup t g t.kern.acq loc { pc := t.kern.entry, fmask := allLanes, amask := allLanes }
    s.addCtx { c with ckpts := lanes.map (fun i => 32 * g + i) }

/-- Launches a team on a core (R202, R210, R350, R367): its checkpoint slots record point 0, in their headers in vault memory
too.  DESIGN CHOICE (log 51): those headers read USED 1, the launch group and lane and the slot's number, and the columns 0. -/
def State.launchTeam (s : State) (g : Grid) (clusid teamid die core : Nat) (args : List Word) (priv : Bool) (spill spq ckpt : Nat) : State :=
  let k := g.kern
  let n := clusid * k.teams + teamid
  let slot := fun (i : Nat) => ({ point := 0, grp := i / 32, lane := i % 32 } : Ckpt)
  let t : Team := { id := s.uids + 1, part := g.part, tcb := g.tcb, clusid, teamid, die, core, slot := s.freeTeamSlot die core, kern := k, args,
                    priv, ckpts := (List.range (32 * k.groups)).map slot, spq, spillBase := spill + 136 * spq * n,
                    ckptBase := ckpt + 136 * 32 * k.groups * n }
  let s : State := { s with uids := s.uids + 1, teams := s.teams ++ [t] }
  let head := fun (i : Nat) => rowBytes ({ point := 0, grp := i / 32, lane := i % 32, ckpt := i } : Row).header []
  let s := (List.range (32 * k.groups)).foldl (fun s i => s.vaultWrite g.part (t.ckptBase + 136 * i) (head i)) s
  let s := (List.range k.groups).foldl (fun s i => s.addGroup t i) s
  if k.thread then s.addThread t else s

/-- The grid of a TCB. -/
def State.gridOf (s : State) (part tcb : Nat) : Option Grid := s.grids.find? (fun g => g.part == part && g.tcb == tcb)

def State.setGrid (s : State) (g : Grid) : State :=
  { s with grids := s.grids.map (fun h => if h.part == g.part && h.tcb == g.tcb then g else h) }

/-- Starts the grid of a TCB as its first cluster is placed: state 3, and the owner's LAUNCHES (R368, R385).  DESIGN CHOICE
(log 51): the kernel record is read at the submit check and here, and every cluster of the grid is placed by what was read here;
the suspend points alone are read again (R177). -/
def State.startGrid (s : State) (part tcb queue : Nat) : State × Grid :=
  let q := s.queue queue
  let get := fun off n => s.tcbGet part tcb off n
  let kern := s.kernelAt (s.fnOfPart part) (get 0 8)
  let g : Grid := { part, tcb, queue, owner := q.owner, total := get 8 4, kern,
                    areas := areasOf kern (get 8 4) (get 0x38 8) (get 0x40 4) (get 0x48 8) }
  let s := s.touchKernel (s.fnOfPart part) (get 0 8)
  let s : State := { s with grids := s.grids ++ [g] }
  (((s.tcbSet part tcb 0xE 1 3).charge q.owner 4 1), g)

/-- Places the next cluster of a TCB where it fits; the choice of the queue holds until then (R371, R372). -/
def State.placeNew (s : State) (part queue tcb : Nat) : State :=
  let q := s.queue queue
  let kern := ((s.gridOf part tcb).map (·.kern)).getD (s.kernelAt (s.fnOfPart part) (s.tcbGet part tcb 0 8))
  match s.findLine part kern [] with
  | none => s
  | some (die, slice, r) =>
    let s := s.tcbTouch part tcb 1
    let (s, g) := match s.gridOf part tcb with
      | some g => (s, g)
      | none => s.startGrid part tcb queue
    let args := (List.range (s.tcbGet part tcb 0xD 1)).map (fun i => word (s.tcbGet part tcb (0x80 + 4 * i) 4))
    let spill := s.tcbGet part tcb 0x38 8
    let spq := s.tcbGet part tcb 0x40 4
    let ckpt := s.tcbGet part tcb 0x48 8
    let s := ((lineCores kern slice r).zipIdx).foldl (fun s (core, t) => s.launchTeam g g.next t die core args q.sup spill spq ckpt) s
    let g' := { g with next := g.next + 1,
                       clusters := g.clusters ++ [{ clusid := g.next, die, slice, quad := 4 * slice + r, start := s.time }] }
    let s := (s.setGrid g').setPart part { s.part part with chosen := none }
    if g'.total ≤ g'.next then s.putQueue queue { s.queue queue with fifo := (s.queue queue).fifo.filter (· != tcb) } else s

/-! ### Contexts that come back (R332, R379, R380) -/

/-- The refills of a team's slots: the latest fill that filled each is repeated (R332). -/
def Stash.refills (x : Stash) (uid team part : Nat) : List Fill × List Board :=
  let due := x.slots.filter (·.2.full)
  (due.filterMap (fun (k, m) => match m.latest with
     | some (.memory tile side) => some { uid, team, slot := k, tile, side, fmtRec := m.tileRec }
     | _ => none),
   due.filterMap (fun (k, m) => match m.latest with
     | some (.ring ring layer tile _ fmt) =>
       some { uid, team, part, ring, layer, first := tile, count := 1, slot := k, fmt, fmtRec := m.tileRec, tiles := [.awaited false] }
     | _ => none))

/-- A board as it is issued again: one whose every tile is captured or failed has only to retire (R332, R343). -/
def Board.again (b : Board) : Board :=
  if b.settled then b else { b with reached := false, tiles := List.replicate b.count (.awaited false) }

/-- A fill as it is issued again (R332). -/
def Fill.again (f : Fill) : Fill := { f with wait := none, got := [] }

/-- A team's context comes back to a core: its holdings, its frame tiles and its thread (R380). -/
def State.unstash (s : State) (t : Team) (die core : Nat) : State :=
  let x := t.stash
  let n := quadNo die core
  let uid := ((s.ctxs.find? (fun c => c.kind = .thread && c.team == t.id)).map (·.uid)).getD 0
  let (fs, bs) := x.refills uid t.id t.part
  let q := s.quad n
  let q := x.rsv.foldl (fun (q : Quad) e => q.rsvSet e.1 e.2) q
  let q := x.tiles.foldl (fun (q : Quad) e => q.tileSet e.1 e.2) q
  let q := x.slots.foldl (fun (q : Quad) e => q.slotSet e.1 e.2.emptied) q
  let put := fun (b : Cells Byte) (e : Nat × Byte) => Cells.set 0 b ((q.rsvAt (e.1 / 2 ^ 19)).base + e.1 % 2 ^ 19) e.2
  let clear := fun (b : Cells Byte) (e : Nat × Rsv) => if e.2.kind = 2 then b else Cells.clear b e.2.base e.2.len
  let q : Quad := { q with obuf := x.bytes.foldl put (x.rsv.foldl clear q.obuf), queue := q.queue ++ x.queue, fills := q.fills ++ fs ++ x.fills.map Fill.again,
                           boards := q.boards ++ bs ++ x.boards.map Board.again, gone := q.gone ++ x.gone }
  let tile := fun (s : State) (p : Pair) => if p.tile.isSome then s.setTeam ((s.team t.id).setPair { p with tile := s.freeTile die core }) else s
  let hide := t.pairs.map (fun p => { p with tile := none })
  let s := (s.setQuad n q).setTeam { t with out := false, stash := {}, die, core, slot := s.freeTeamSlot die core, pairs := hide }
  let s := t.pairs.foldl tile s
  let move := fun (c : Ctx) =>
    if c.team == t.id && c.kind = .thread then
      { c with halted := false, loc := { die, core, slot := s.freeThread n } } else c
  let s : State := { s with
    cur := move s.cur, others := s.others.map move,
    ops := s.ops.map (fun (o : Op) => if o.team == t.id then { o with die, core } else o) }
  s.setQuad n ((s.quad n).refresh s.time)

/-- The shadow storage of a partition is free again (R379, R380). -/
def State.freeShadow (s : State) (part : Nat) : State :=
  let p := s.part part
  State.setPart { s with sys := { s.sys with shadow := Nat.xor s.sys.shadow (Nat.land s.sys.shadow p.shadow) } } part { p with shadow := 0 }

/-- Places a flashed-back cluster again (R380); with the last of a partition's clusters its shadow storage is free (R383). -/
def State.placeBack (s : State) (g : Grid) (clusid : Nat) : State :=
  let ts := s.teams.filter (fun t => t.part == g.part && t.tcb == g.tcb && t.clusid == clusid && t.out)
  match s.findLine g.part g.kern ts with
  | none => s
  | some (die, slice, r) =>
    let s := ts.foldl (fun s t => s.unstash t die ((lineCores g.kern slice r).getD t.teamid 0)) s
    let s := if s.teams.any (fun t => t.part == g.part && t.out) then s else s.freeShadow g.part
    s.setGrid { g with again := g.again.filter (· != clusid),
                       clusters := g.clusters ++ [{ clusid, die, slice, quad := 4 * slice + r, start := s.time }] }

/-- CLUSTER_PLACE of the partition `x` (R371, R372, R380): flashed-back clusters come before any new one. -/
def execClusterPlace (s : State) : Out :=
  let part := s.args.x
  .next (if !s.partRuns part then s
    else
      match s.grids.find? (fun g => g.part == part && !g.again.isEmpty) with
      | some g => s.placeBack g (g.again.foldl min (g.again.headD 0))
      | none =>
        let s := if (s.part part).chosen.isNone then s.chooseQueue part else s
        match (s.part part).chosen with
        | none => s
        | some n => match (s.queue n).fifo with
          | tcb :: _ => s.placeNew part n tcb
          | [] => s.setPart part { s.part part with chosen := none })

/-! ### The end of a grid (R368, R372) -/

/-- The children of a TCB, from its list's head. -/
def State.childrenOf (s : State) (part : Nat) : Nat → Nat → List Nat
  | 0, _ => []
  | n + 1, i => if i = 0xFFFF then [] else i :: s.childrenOf part n (s.tcbGet part i 0x52 2)

/-- One predecessor of a TCB has ended (R368). -/
def State.decrement (s : State) (part tcb : Nat) : State :=
  let n := (s.tcbGet part tcb 0x10 4 + 2 ^ 32 - 1) % 2 ^ 32
  let s := s.tcbSet part tcb 0x10 4 n
  if n = 0 && s.tcbGet part tcb 0xE 1 = 1 then s.makeReady part tcb else s

/-- GRID_END of TCB `y` of the partition `x` (R368, R372, R401). -/
def execGridEnd (s : State) : Out :=
  let part := s.args.x
  let tcb := s.args.y
  .next (match s.gridOf part tcb with
    | none => s
    | some g =>
      let live := s.teams.any (fun t => t.part == part && t.tcb == tcb)
      if g.next < g.total || !g.again.isEmpty || live || s.time ≤ g.maxWct then s
      else
        let succ := (List.range (min 16 (s.tcbGet part tcb 0x14 2))).map (fun i => s.tcbGet part tcb (0x18 + 2 * i) 2)
        let kids := s.childrenOf part 4096 (s.tcbGet part tcb 0x54 2)
        let s := s.tcbSet part tcb 0xE 1 4
        let s := (succ ++ kids).foldl (fun s i => s.decrement part i) s
        let s := if (s.part part).hcnt ≤ tcb then s.tcbSet part tcb 0xE 1 0 else s
        State.partEvent { s with grids := s.grids.filter (fun h => !(h.part == part && h.tcb == tcb)) } part 1 tcb)

/-! ### launch (R374, R375) -/

/-- A range cut at the 128-byte lines it touches; none where it has no bytes. -/
def lineChunks (va len : Nat) : List (Nat × Nat) :=
  let first := va / 128
  if len = 0 then [] else (List.range ((va + len + 127) / 128 - first)).map (fun i =>
    let lo := max va (128 * (first + i))
    (lo, min (va + len) (128 * (first + i + 1)) - lo))

/-- What `launch` reads: bytes, or how its attempt to issue ends. -/
inductive Fetched where
  | ok (bs : List Byte)
  | out (s : State)

/-- The loads that a `launch` of the issuing fragment has sent. -/
def State.launchOps (s : State) : List Op := s.ops.filter (fun o => o.uid == s.cur.uid && o.kind = .reads s.cur.fsel)

/-- The part of them for a range. -/
def State.launchPart (s : State) (r : Nat × Nat) : Option (Op × Piece) :=
  s.launchOps.findSome? (fun o => (o.pieces.find? (fun p => p.va.toNat = r.1 && p.len = r.2)).map (fun p => (o, p)))

/-- Sends for ranges as weak loads of the group (R230), which waits for them; an access that does not translate ends the attempt as
that of `ld` does. -/
def State.launchSend (s : State) (rs : List (Nat × Nat)) : State :=
  let xs := rs.map (fun r => (r, s.access (s.mine r.1 r.2 .load) s.cur.failed))
  match xs.find? (fun e => match e.2 with | .ok _ => false | _ => true) with
  | some (r, x) => s.uniformEnd (s.mine r.1 r.2 .load) x
  | none =>
    let (s, ps) := (xs.zipIdx).foldl (fun (a : State × List Piece) (e, i) => match e.2 with
      | .ok l =>
        let (s, p) := a.1.sendPiece descWeak32 { a.1.part1 i (word64 e.1.1) e.1.2 l with act := .load }
        (s, a.2 ++ [p])
      | _ => a) (s, [])
    (s.begin 0 false (.reads s.cur.fsel) ps false []).hold .reading

/-- Reads ranges, each within a line, as weak loads of the group (R230, R374), which waits until they have come. -/
def State.launchRead (s : State) (rs : List (Nat × Nat)) : Fetched :=
  match rs.find? (fun r => 2 ^ 57 ≤ r.1) with
  | some r => .out (s.raise { code := 7, tval := word64 r.1 })
  | none =>
    let got := rs.filterMap s.launchPart
    if got.length != rs.length then .out (s.launchSend rs)
    else if got.any (fun e => e.2.phase != .replied) then .out (s.hold .reading)
    else
      match got.findSome? (fun e => e.1.bad) with
      | some (src, p) => .out (s.killLogged s.cur.uid src p.va (p.key % 2 ^ 48))
      | none => .ok (got.flatMap (fun e => slice e.2.got 0 e.2.len))

/-- The child TCB that `launch` writes and links (R374). -/
def State.linkChild (s : State) (part parent t : Nat) (krec grid queue nargs : Nat) (args : List Byte) (spill spq ckpt : Nat) : State :=
  let first := s.tcbGet part parent 0x54 2
  let set := fun (s : State) (e : Nat × Nat × Nat) => s.tcbSet part t e.1 e.2.1 e.2.2
  let s := [(0, 8, krec), (8, 4, grid), (0xC, 1, queue), (0xD, 1, nargs), (0xF, 1, 0), (0x10, 4, 1), (0x14, 2, 0), (0x16, 2, 0),
            (0x18, 32, 0), (0x38, 8, spill), (0x40, 4, spq), (0x44, 4, 0), (0x48, 8, ckpt), (0x50, 2, parent), (0x52, 2, first),
            (0x54, 2, 0xFFFF), (0x56, 2, 0), (0x58, 4, 0), (0x60, 8, 0), (0x68, 24, 0)].foldl set s
  let bytes := (args ++ List.replicate 256 0).take 256
  let s := (bytes.zipIdx).foldl (fun s (b, i) => s.tcbSet part t (0x80 + i) 1 b.toNat) s
  (s.tcbSet part t 0xE 1 1).tcbSet part parent 0x54 2 t

/-- `launch` (R374, R375). -/
def execLaunch (x : Eng) (s : State) : Out :=
  issueOut (.launch x) s (fun s =>
    let a := (s.cur.uni64 x.immW x.w.a)
    let b := (s.cur.uni x.immW x.w.b).toNat
    let bad := fun (s : State) (detail : Nat) => s.raise { code := 0x34, detail, tval := a }
    match s.launchRead (lineChunks a.toNat 64) with
      | .out t => .next t
      | .ok pk =>
        let g := fun off n => leNat (slice pk off n)
        let nargs := g 2 1
        let at' := g 8 8
        match s.launchRead (if nargs ≤ 64 && at' % 4 = 0 then lineChunks at' (4 * nargs) else []) with
        | .out t => .next t
        | .ok args =>
          let part := s.partOf s.cur
          let fn := s.fnOf s.cur
          let img := s.myImage
          let s := s.imgTouch fn img
          let q := s.queue b
          let p := s.part part
          let krec := s.imgGet fn img 0 8 + 64 * g 0 2
          let reserved := g 3 1 != 0 || g 0x1C 4 != 0 || g 0x28 8 != 0 || g 0x30 8 != 0 || g 0x38 8 != 0
          let limits := g 0 2 < s.imgGet fn img 0x30 2 && nargs ≤ 64 && 1 ≤ g 4 4 && g 4 4 ≤ 2 ^ 24 && at' % 4 = 0 && !reserved
          if a.toNat % 64 != 0 then .next (bad s 0)
          else if 63 < b || !q.en || q.part != part || (q.sup && !s.cur.priv) then .next (bad s 3)
          else if !limits then .next (bad s 1)
          else if !(s.kernelAt fn krec).whole || !areasFit (s.kernelAt fn krec) (g 4 4) (g 0x10 8) (g 0x18 4) (g 0x20 8) p.vwsize then
            .next (bad (s.touchKernel fn krec) 1)
          else
            let s := s.touchKernel fn krec
            match (List.range (p.count - p.hcnt)).find? (fun i => s.tcbGet part (p.hcnt + i) 0xE 1 = 0) with
            | none => .next (bad (s.tcbTouch part p.hcnt (p.count - p.hcnt)) 2)
            | some i =>
              let s := s.tcbTouch part p.hcnt (i + 1)
              let s := s.linkChild part (s.team s.cur.team).tcb (p.hcnt + i) krec (g 4 4) b nargs args (g 0x10 8) (g 0x18 4) (g 0x20 8)
              .next (s.upd (fun c => { c.putNone (Instr.size (.launch x)) with failed := [] })))

end Sys2Proof.Machine
end

