-- ==== Sys2Proof/Machine/Partitions.lean ====
section
/-! DEFINITION. Halts, swaps, lending and the carve-out (R377 to R383, R386).  An event names its partition in `x`, unless
it says otherwise. -/

namespace Sys2Proof.Machine

/-! ### Halting (R332, R378) -/

/-- The teams that an event halts: a partition's, or a borrower's clusters with a team on a slice (R378, R383). -/
def State.partTeams (s : State) (part : Nat) : List Team := s.teams.filter (fun t => t.part == part && !t.out)

def State.loanTeams (s : State) (l : Loan) : List Team :=
  let here := (s.partTeams l.borrower).filter (fun t => t.die == l.die && sliceOfCore t.core == l.slice)
  (s.partTeams l.borrower).filter (fun t => here.any (fun h => h.tcb == t.tcb && h.clusid == t.clusid))

/-- Every group of the teams flashes back (R211, R378); an earlier error counts no more after that load (R391). -/
def State.haltTeams (s : State) (ts : List Team) : State :=
  let due := s.ctxs.filter (fun c => c.kind = .group && !c.ended && ts.any (fun t => t.id == c.team))
  due.foldl (fun s c => (s.setCtx { c with regError := false }).flashback c.uid) s

/-- A halt of a partition begins at this moment (R378). -/
def State.beginHalt (s : State) (part : Nat) (thermal : Bool) : State :=
  let p := s.part part
  let s := s.setPart part { p with state := 2, haltAt := some s.time, haltedAt := none, thermal, watched := false, drained := [] }
  s.haltTeams (s.partTeams part)

/-- An operation stays with a team's context: a command not granted, a fill or a board in progress, which the halt cancels; and one
of the quad that is done and waits for such an older one of its counter to retire (R332, R343). -/
def State.stays (s : State) (o : Op) : Bool :=
  let q := s.quad (quadNo o.die o.core)
  let held := fun (o : Op) => (q.queue.any (fun m => m.op == o.id) && q.running != some o.id) || q.fills.any (fun f => f.op == o.id) || q.boards.any (fun b => b.op == o.id && !b.settled)
  held o || (o.done && s.ops.any (fun p => p.counted && p.uid == o.uid && p.ctr == o.ctr && p.id < o.id && held p))

/-- The slices that a halt of a partition stops: its own but for those lent out, by it or by a partition of its rota, and those lent
to it (R378, R382). -/
def State.haltSlices (s : State) (part : Nat) : List Nat :=
  let lent := fun (p : Loan → Bool) (k : Nat) => s.sys.loans.any (fun l => p l && 8 * l.die + l.slice == k)
  (List.range 64).filter (fun k => ((s.part part).slices / 2 ^ k % 2 = 1 && !lent (fun _ => true) k)
    || lent (fun l => l.borrower == part) k)

/-- When a halt was complete: every slice has halted (R378), as noted when time went on. -/
def State.haltTime (s : State) (part : Nat) : Option Nat :=
  let p := s.part part
  if (s.haltSlices part).all (fun k => p.drained.any (·.1 == k)) then some (p.drained.foldl (fun m e => max m e.2) (p.haltAt.getD 0)) else none

/-- Overrun is charged to a partition, whose PDEBT has 32 bits, and its owner (R366, R381; log 46). -/
def State.overrun (s : State) (part us : Nat) : State :=
  let p := s.part part
  if us = 0 then s else (s.setPart part { p with debt := (p.debt + us) % 2 ^ 32 }).charge p.powner 3 us

/-- A team's context leaves its core and quad; a refill that a second halt cancels is still due (R332, R379). -/
def State.stashTeam (s : State) (t : Team) : State :=
  let n := quadNo t.die t.core
  let q := s.quad n
  let rsv := q.rsv.filter (fun e => e.2.team == t.id)
  let bytes := rsv.foldl (fun (b : Cells Byte) e =>
    if e.2.kind = 2 then b
    else ((List.range e.2.len).zip (Cells.getMany 0 q.obuf e.2.base e.2.len)).foldl (fun (b : Cells Byte) x => Cells.set 0 b (2 ^ 19 * e.1 + x.1) x.2) b) []
  let refill := fun (k : Nat) => q.fills.any (fun f => f.team == t.id && f.op == 0 && f.slot == k)
    || q.boards.any (fun b => b.team == t.id && b.op == 0 && b.awaits k)
  let x : Stash := { rsv, bytes, tiles := q.tiles.filter (fun e => e.2.team == t.id), slots := (q.slots.filter (fun e => e.2.team == t.id)).map (fun e => if refill e.1 then (e.1, { e.2 with full := true }) else e),
                     queue := q.queue.filter (·.team == t.id), fills := q.fills.filter (fun f => f.team == t.id && f.op != 0),
                     boards := q.boards.filter (fun b => b.team == t.id && b.op != 0),
                     gone := q.gone.filter (·.team == t.id) }
  let q := { q.dropTeam t.id with queue := q.queue.filter (·.team != t.id), fills := q.fills.filter (·.team != t.id),
                                  boards := q.boards.filter (·.team != t.id) }
  let stop := fun (c : Ctx) => if c.team == t.id then { c with halted := true } else c
  let s := ((s.setQuad n q).setTeam { t with out := true, stash := x }).seeSlice t.die t.core
  let s : State := { s with cur := stop s.cur, others := s.others.map stop }
  let again := fun (g : Grid) => if g.part == t.part && g.tcb == t.tcb && !g.again.contains t.clusid then { g with again := g.again ++ [t.clusid] } else g
  State.clusterGone { s with grids := s.grids.map again } t.part t.tcb t.clusid

/-- The first-level lines of some cores leave: dirty ones are written back
(R379). -/
def State.flushCores (s : State) (p : Nat → Bool) : State :=
  let gone := s.lines.filter (fun l => p l.core)
  let s := gone.foldl (fun s l => s.writeBack l) s
  { s with lines := s.lines.filter (fun l => !p l.core) }

/-! ### The rota (R377, R379, R380) -/

/-- The partitions of a rota: those with the same slices. -/
def State.rota (s : State) (part : Nat) : List Nat :=
  (List.range 64).filter (fun p => (s.part p).slices == (s.part part).slices && (s.part p).slices != 0)

/-- QUANTUM_EXPIRY (R377, R381). -/
def execQuantumExpiry (s : State) : Out :=
  let part := s.args.x
  let p := s.part part
  .next (if p.state = 1 && s.sys.heat = .run && p.quant != 0 && 1 < (s.rota part).length
      && p.quantStart + 1000 * (p.quant - p.quantCut) ≤ s.time then
    s.beginHalt part false else s)

/-- PARTITION_HALTED (R378, R381, R408): once every slice has halted; those that halted after h + 234 µs count. -/
def execPartitionHalted (s : State) : Out :=
  let part := s.args.x
  let p := s.part part
  .next (match p.state, p.haltAt, p.haltedAt, s.haltTime part with
    | 2, some h, none, some t =>
      let s := s.setPart part { p with haltedAt := some t }
      let late := (p.drained.filter (fun e => h + 234000 < e.2)).length
      if p.thermal then s else s.overrun part ((t - h - 234000) / 1000 * late)
    | _, _, _, _ => s)

/-- A vault unit may be reserved for shadow storage: it is in force, in no window and not reserved (R379, R386). -/
def State.unitFree (s : State) (u : Nat) : Bool :=
  u < 32 && u % 4 < (s.die (u / 4)).cur && s.sys.shadow / 2 ^ u % 2 = 0 && (List.range 64).all (fun p => (s.part p).vault / 2 ^ u % 2 = 0)

/-- The free units among those that the firmware names, as a mask. -/
def State.freeAmong (s : State) (us : List Nat) : Nat := us.foldl (fun m u => if s.unitFree u then Nat.lor m (2 ^ u) else m) 0

/-- Reserves vault units for a partition's shadow storage (R379). -/
def State.reserveShadow (s : State) (part units : Nat) : State :=
  let s : State := { s with sys := { s.sys with shadow := Nat.lor s.sys.shadow units } }
  s.setPart part { s.part part with shadow := Nat.lor (s.part part).shadow units }

/-- SWAP_OUT (R379): the firmware reserves the free vault units among `nats`, one at least, and the context goes there; its second
event ends the swap-out.  Nothing is swapped out in a thermal stop (R408). -/
def execSwapOut (s : State) : Out :=
  let part := s.args.x
  let p := s.part part
  .next (if s.sys.heat != .run then s
    else if p.state = 3 then s.setPart part { p with state := 4, haltAt := none }
    else if p.state != 2 || p.haltedAt.isNone || p.thermal || s.freeAmong s.args.nats = 0 then s
    else
      let units := s.freeAmong s.args.nats
      let ts := s.partTeams part
      let core := fun (k : Nat) => (s.haltSlices part).contains (8 * (k / 128) + sliceOfCore (k % 128)) || ts.any (fun t => coreNo t.die t.core == k)
      let s := ts.foldl (fun s t => s.stashTeam ((s.team t.id))) (s.flushCores core)
      let ours := fun (fn : Nat) => (s.fn fn).part == some part
      let s : State := { s.dropHits ours (fun _ _ => true) with walks := [] }
      let s := s.reserveShadow part units
      s.setPart part { s.part part with state := 3 })

/-- Steps 2 and 3 of a swap-in (R380): committed versions, and the deferred queue. -/
def State.catchUp (s : State) (part : Nat) : State :=
  let g := s.shard part
  let s := s.setShard part { g with pending := [] }
  let s := g.pending.foldl (fun s v => s.applyVersion part v.1 v.2) s
  s.serveDeferred (fun d => s.partOfFn d.fn == part) (fun s d => match d.reduce with
    | some st => s.reduceArrive d.fn d.member d.page st
    | none => s.serveRequest d)

/-- A partition's dispatch starts, with a quantum less some debt (R377, R381). -/
def State.runQuantum (s : State) (part cut : Nat) : State :=
  let p := s.part part
  s.putPart part { p with state := 1, quantStart := s.time, quantCut := cut, debt := p.debt - cut, haltAt := none, thermal := false, entering := false }

/-- A partition's quantum starts, less its debt (R377, R381). -/
def State.startQuantum (s : State) (part : Nat) : State :=
  s.runQuantum part (min (s.part part).debt ((s.part part).quant / 2))

/-- The partition that a rota brings in next: in round-robin order after the one that left last (R377). -/
def State.nextInRota (s : State) (part : Nat) : Option Nat :=
  let r := s.rota part
  let at' := fun p => ((s.part p).haltedAt.getD 0)
  let last := r.foldl (fun b p => if at' b < at' p then p else b) (r.headD 0)
  ((r.filter (last < ·)) ++ (r.filter (· ≤ last))).find? (fun p => (s.part p).state = 4)

/-- A frame row restored with an uncorrectable error is killed with the context (R391). -/
def State.killRow (s : State) (team age : Nat) : State :=
  match (s.team team).rows.find? (·.age == age) with
  | none => s
  | some r =>
    let s := (s.killLane team).discardMons (fun m => m.team == team && m.row = some age)
    let t := s.team team
    (s.setTeam { t with rows := t.rows.filter (fun q => q.age != age) }).releaseTile team r.point

/-- What a context restored from shadow storage with an uncorrectable error kills (R391): with `nats` = [0, team, age] a row,
with [1, issue, lane] a frame, and else the control thread `y`. -/
def State.restoreError (s : State) (part : Nat) : State :=
  match s.args.nats with
  | [0, team, age] => if (s.team team).part = part then s.killRow team age else s
  | [1, issue, lane] =>
    match s.frames.find? (fun f => f.issue == issue && f.lane == lane && (s.team f.team).part == part) with
    | none => s
    | some f =>
      let s := s.reportEnd (s.team f.team) 0x12 (word (0x36 + 1 * 2 ^ 16 + (s.team f.team).priv.toNat * 2 ^ 24)) 0
      let s := (s.found 1 0).partEvent part 6 0
      let s := s.abandon f.team
      { s with frames := s.frames.filter (fun g => !(g.issue == issue && g.lane == lane && g.team == f.team)) }
  | _ =>
    match s.ctx s.args.y with
    | some c => if c.uid != 0 && s.partOf c = part && c.halted then s.kill c.uid 1 0 0 else s
    | none => s

/-- In a team that stays where it is, held slots are refilled, and fills and boards start again (R332, R380, R408). -/
def State.refillTeam (s : State) (t : Team) : State :=
  let n := quadNo t.die t.core
  let q := s.quad n
  let mine := fun (k : Nat) => k == t.id
  let again := fun (k : Nat) => q.fills.any (fun f => mine f.team && f.op == 0 && f.slot == k) || q.boards.any (fun b => mine b.team && b.op == 0 && b.awaits k)
  let due := fun (e : Nat × MSlot) => if again e.1 then (e.1, { e.2 with full := true }) else e
  let x : Stash := { slots := (q.slots.filter (fun e => mine e.2.team)).map due, boards := q.boards.filter (fun b => mine b.team && b.op != 0) }
  let uid := ((s.ctxs.find? (fun c => c.kind = .thread && c.team == t.id)).map (·.uid)).getD 0
  let (fs, bs) := x.refills uid t.id t.part
  let q := x.slots.foldl (fun (q : Quad) e => q.slotSet e.1 e.2.emptied) q
  let q : Quad := { q with fills := (q.fills.filter (fun f => !(mine f.team && f.op == 0))).map (fun f => if mine f.team then f.again else f) ++ fs,
                           boards := q.boards.filter (fun b => !mine b.team) ++ bs ++ x.boards.map Board.again }
  s.setQuad n (q.refresh s.time)

/-- The partition that the thermal stop held resumes where it stands, from step 2 of R380, and starts a full quantum (R408). -/
def State.resumeHeld (s : State) (part : Nat) : State :=
  let s := s.catchUp part
  ((s.partTeams part).foldl (fun s t => s.refillTeam t) s).runQuantum part 0

/-- SWAP_IN (R377, R380, R391, R408): the partition that its rota brings in reads 5; at the second event its dispatch resumes.  One
that the thermal stop held reads 5 from the restart, and resumes at its first, its context restored if the stop came before that. -/
def execSwapIn (s : State) : Out :=
  let part := s.args.x
  .next (if s.sys.heat != .run then s
    else if (s.part part).state = 5 && (s.part part).thermal then
      (if (s.part part).entering then ((s.freeShadow part).resumeHeld part).restoreError part else s.resumeHeld part)
    else if (s.part part).state = 5 then (((s.freeShadow part).catchUp part).startQuantum part).restoreError part
    else if (s.part part).state != 4 || s.nextInRota part != some part
      || (s.rota part).any (fun p => (s.part p).state != 4 && (s.part p).state != 0) then s
    else s.setPart part { s.part part with state := 5 })

/-! ### The watchdog (R381) -/

/-- The watchdog kills teams: their groups and threads end, STATUS becomes 0x11, the other teams of their clusters are
abandoned, and their collectives end with ERR 4 on every member. -/
def State.killTeams (s : State) (ts : List Team) : State :=
  ts.foldl (fun s t =>
    let s := s.reportEnd t 0x11 0 0
    let s := (s.ctxs.filter (fun c => c.team == t.id && !c.ended)).foldl (fun s c => s.endCtx c.uid) s
    let peer := fun (u : Team) => u.part == t.part && u.tcb == t.tcb && u.clusid == t.clusid && u.id != t.id
    let s : State := { s with
      teams := s.teams.map (fun u => if u.id == t.id then { u with rows := [] } else if peer u then { u with abandoned := true } else u),
      frames := s.frames.filter (fun f => f.team != t.id) }
    let s := (s.colls.filter (fun c => c.team == t.id && c.started && !c.complete)).foldl (fun s c => s.collFail c.id) s
    s.charge ((s.gridOf t.part t.tcb).map (·.owner) |>.getD 0) 5 1) s

/-- WATCHDOG_EXPIRY (R381, R383): of the halting partition `x`; or, with `z` = 1, of the recall of the slice `y` = 8 × die +
slice, whose teams a thermal stop holds with no deadline (R408). -/
def execWatchdogExpiry (s : State) : Out :=
  let part := s.args.x
  let p := s.part part
  .next (if s.args.z = 1 then
      match s.sys.loans.find? (fun l => 8 * l.die + l.slice == s.args.y) with
      | some l => match l.recallAt with
        | some c => if c + 1000000 ≤ s.time && s.sys.heat = .run then s.killTeams ((s.loanTeams l).filter (fun t => !s.teamEnded t.id)) else s
        | none => s
      | none => s
    else
      match p.state, p.haltAt, p.haltedAt with
      | 2, some h, none =>
        if p.thermal || p.watched || s.time < h + 1000000 then s
        else (s.killTeams ((s.partTeams part).filter (fun t => !s.teamEnded t.id))).setPart part { p with watched := true }
      | _, _, _ => s)

/-! ### Lending (R382, R383) -/

/-- SLICE_LEND of the slice `x` = 8 × die + slice to the partition `y` (R382). -/
def execSliceLend (s : State) : Out :=
  let k := s.args.x % 64
  let to' := s.args.y
  let die := k / 8
  let slice := k % 8
  let owners := (List.range 64).filter (fun p => (s.part p).slices / 2 ^ k % 2 = 1)
  let busy := s.teams.any (fun t => !t.out && t.die == die && sliceOfCore t.core == slice)
  .next (match owners.find? (fun p => (s.part p).state = 1) with
    | some lender =>
      let left := max (Cells.get 0 s.sys.sliceSeen k) (s.part lender).quantStart
      if busy || owners.contains to' || s.sys.loans.any (fun l => l.die == die && l.slice == slice)
        || (s.part to').slices / 2 ^ (8 * die) % 256 = 0 || s.time < left + 10000 then s
      else { s with sys := { s.sys with loans := s.sys.loans ++ [{ die, slice, lender, borrower := to', start := s.time }] } }
    | none => s)

/-- Recalls a lent slice: its borrower's clusters flash back (R383); whether there was one to recall. -/
def State.recall (s : State) (k : Nat) : State × Bool :=
  match s.sys.loans.find? (fun l => 8 * l.die + l.slice == k && l.recallAt.isNone) with
  | none => (s, false)
  | some l =>
    let mark := fun (m : Loan) => if m.die == l.die && m.slice == l.slice then { m with recallAt := some s.time } else m
    (State.haltTeams { s with sys := { s.sys with loans := s.sys.loans.map mark } } (s.loanTeams l), true)

/-- The lender's chosen queue head fits only with the slice that it has lent (R383). -/
def State.fitsOnlyWith (s : State) (l : Loan) : Bool :=
  match (s.part l.lender).chosen with
  | none => false
  | some n => match (s.queue n).fifo with
    | [] => false
    | tcb :: _ =>
      let kern := ((s.gridOf l.lender tcb).map (·.kern)).getD (s.kernelAt (s.fnOfPart l.lender) (s.tcbGet l.lender tcb 0 8))
      let ts := s.loanTeams l
      let gone := fun (c : Ctx) => if ts.any (·.id == c.team) then { c with ended := true } else c
      let without : State := { s with
        cur := gone s.cur, others := s.others.map gone, teams := s.teams.filter (fun t => !ts.any (·.id == t.id)),
        sys := { s.sys with loans := s.sys.loans.filter (fun m => !(m.die == l.die && m.slice == l.slice)) } }
      (s.findLine l.lender kern []).isNone && (without.findLine l.lender kern []).isSome

/-- SLICE_RECALL of the slice `x` = 8 × die + slice by the firmware (R383); the supervisor's demand is FWMBOX_RECALL. -/
def execSliceRecall (s : State) : Out :=
  let k := s.args.x % 64
  .next (if s.sys.loans.any (fun l => 8 * l.die + l.slice == k && s.fitsOnlyWith l) then (s.recall k).1 else s)

/-- RECALL_RETURN of the slice `x` = 8 × die + slice (R383, R385): once it has drained; the clusters that stand there move to shadow
storage, for which the firmware reserves the free vault units among `nats`; in a thermal stop they stay (R408). -/
def execRecallReturn (s : State) : Out :=
  let k := s.args.x % 64
  .next (match s.sys.loans.find? (fun l => 8 * l.die + l.slice == k) with
    | some l => match l.recallAt, l.drainedAt with
      | some c, some d =>
        let ts := s.loanTeams l
        if !ts.isEmpty && (s.sys.heat != .run || s.freeAmong s.args.nats = 0) then s
        else
        let s := if ts.isEmpty then s else s.reserveShadow l.borrower (s.freeAmong s.args.nats)
        let core := fun (n : Nat) => n / 128 = l.die && sliceOfCore (n % 128) = l.slice || ts.any (fun t => coreNo t.die t.core == n)
        let s := ts.foldl (fun s t => s.stashTeam (s.team t.id)) (s.flushCores core)
        let s : State := { s with sys := { s.sys with loans := s.sys.loans.filter (fun m => !(m.die == l.die && m.slice == l.slice)) } }
        let ns := s.time - l.start
        ((s.overrun l.borrower ((d - c - 234000) / 1000)).charge (s.part l.lender).powner 1 ns).charge (s.part l.borrower).powner 2 ns
      | _, _ => s
    | none => s)

/-! ### The carve-out (R384, R386) -/

/-- A write of CCARVE's TARGET on a die; the outcome is CSTAT.  TARGET reads what was written, though a refused write asks for
nothing; units that go become cache at once (R10, R386). -/
def State.carve (s : State) (die target : Nat) : State :=
  let d := { s.die die with target }
  let used := (List.range 64).foldl (fun m p => Nat.lor m (s.part p).vault) s.sys.shadow
  let lost := (List.range 4).any (fun i => target ≤ i && i < d.cur && used / 2 ^ (4 * die + i) % 2 = 1)
  if d.goal != d.cur then s.setDie die { d with cstat := 4 }
  else if 4 < target then s.setDie die { d with cstat := 3 }
  else if lost then s.setDie die { d with cstat := 2 }
  else if target ≤ d.cur then s.setDie die { d with goal := target, cur := target, cstat := 0 }
  else s.setDie die { d with goal := target, cstat := 1 }

/-- CCARVE_WRITE of `value` on the die `x` (R386). -/
def execCcarveWrite (s : State) : Out := .next (s.carve (s.args.x % 8) (s.args.value.toNat % 16))

/-- CARVE_COMPLETE on the die `x` (R386): each new unit reads 0. -/
def execCarveComplete (s : State) : Out :=
  let die := s.args.x % 8
  let d := s.die die
  .next (if d.goal = d.cur then s
    else
      let fresh := (List.range 4).filter (fun i => d.cur ≤ i && i < d.goal)
      let zero' := fun (m : Cells Byte) (i : Nat) => Cells.clear m (memKey 1 ((4 * die + i) * 2 ^ 25)) (2 ^ 25)
      State.setDie { s with mem := fresh.foldl zero' s.mem } die { d with cur := d.goal, cstat := 0 })

end Sys2Proof.Machine
end

