-- ==== Sys2Proof/Machine/Reliability.lean ====
section
/-! DEFINITION. Errors, the Surveyor, links, firmware, power and heat (R388 to R409). -/

namespace Sys2Proof

/-- The header and body of an image, which its digest covers (R403; log 53). -/
def FirmwareImage.bytes (i : FirmwareImage) : List Byte := Machine.natLE 4 i.slot ++ Machine.natLE 4 i.version ++ i.body

end Sys2Proof

namespace Sys2Proof.Machine

/-! ### Corrected errors (R388, R390) -/

/-- The key of a DRAM row (R388). -/
def rowKey (stack pc bank row : Nat) : Nat := stack % 8 + pc % 64 * 2 ^ 3 + bank % 64 * 2 ^ 9 + row % 2 ^ 32 * 2 ^ 15

/-- The filter bits of a row: three hashes of its key. -/
def filterBits (key : Nat) : List Nat := (List.range 3).map (fun j => crc32c (natLE 1 j ++ natLE 8 key) % 2 ^ 16)

/-- CORRECTED_DRAM_ERROR in stack `x`, pseudo-channel `y`, bank `z` and row `value`, with the syndrome `value2` (R388). -/
def execCorrectedDramError (s : State) : Out :=
  let stack := s.args.x % 8
  let key := rowKey stack s.args.y s.args.z s.args.value.toNat
  let bank := rowKey stack s.args.y s.args.z 0
  let bits := (filterBits key).map (fun b => 2 ^ 16 * stack + b)
  let old := Cells.get 0 s.sys.bankrep bank
  let new := min (old + 1) 65535
  let seen := bits.all (fun b => Cells.get false s.sys.filter b)
  let s := if seen then s
    else State.logRec { s with sys := { s.sys with filter := bits.foldl (fun f b => Cells.set false f b true) s.sys.filter } } 1 0 key s.args.value2.toNat
  let s := State.count { s with sys := { s.sys with bankrep := Cells.set 0 s.sys.bankrep bank new } } (100 + stack) 1
  .next (if new = s.sys.bankthr && old != new then s.event 0 5 0 bank else s)

/-- ERROR_FILTER_CLEAR (R388). -/
def execErrorFilterClear (s : State) : Out := .next { s with sys := { s.sys with filter := [] } }

/-- SRAM_CORRECTED_ERROR of the array kind `y` on the die `x` (R390). -/
def execSramCorrectedError (s : State) : Out := .next (s.count (200 + 16 * (s.args.x % 8) + s.args.y % 16) 1)

/-! ### Uncorrectable errors (R391, R392) -/

/-- UNCORRECTABLE_ERROR at `site` (R391).  A Local page is served from no Atlas entry (R289), and none of R290's changes takes one
to Orphaned: an error in its former entry changes nothing (log 36, DEDUCED). -/
def execUncorrectableError (s : State) : Out :=
  .next (match s.args.site with
    | .regs uid => match s.ctx uid with
      | some c =>
        if c.ended || c.uid = 0 then s
        else if c.regError || c.kind = .thread then s.kill uid 0 0 0
        else State.flashback ((s.setCtx { c with regError := true }).count 400 1) uid
      | none => s
    | .memory line => if s.poison.contains line then s else { s with poison := s.poison ++ [line] }
    | .scratch uid off => s.kill uid 2 (word64 off) (off % 2 ^ 48)
    | .frameRow team age =>
      let t := s.team team
      s.setTeam { t with rows := t.rows.map (fun r => if r.age == age then { r with bad := true } else r) }
    | .array uid off => s.kill uid 6 (word64 off) (off % 2 ^ 48)
    | .translation uid addr => s.kill uid 5 (word64 addr) (addr % 2 ^ 48)
    | .atlas fn page => if s.gpsOf fn page = 0 then s else s.orphan fn page)

/-! ### The Surveyor (R395, R396) -/

/-- The suspect of three signatures: the quad that differs from the other two, or the sampled one (R395). -/
def suspectOf (a b c : Nat × Word64) : Nat :=
  if a.2 == c.2 then b.1 else a.1

/-- A quad is retired, and counted once (R396, R397). -/
def State.retireQuad (s : State) (n : Nat) : State :=
  let q := s.quad n
  if q.retired then s else (s.setQuad n { q with retired := true }).count 503 1

/-- A quad is the suspect once more; the second time it is retired (R396). -/
def State.suspect (s : State) (n : Nat) : State :=
  let k := (s.quad n).suspects + 1
  let s := s.setQuad n { s.quad n with suspects := k }
  if 2 ≤ k then s.retireQuad n else s

/-- A quad may replay a sample of another: of another slice of its die, or where every such quad is retired of the next die
(R395). -/
def State.mayReplay (s : State) (of x : Nat) : Bool :=
  let others := (List.range 32).filter (fun k => (32 * (of / 32) + k) / 4 != of / 4)
  if others.any (fun k => !(s.quad (32 * (of / 32) + k)).retired) then x / 32 == of / 32 && x / 4 != of / 4
  else x / 32 == (of / 32 + 1) % 8

/-- SURVEYOR_REPLAY of the oldest sample (R395): the quad `x` replays it with the signature `value`, and where that differs
the quad `y` with `value2`. -/
def execSurveyorReplay (s : State) : Out :=
  let x := s.args.x
  let y := s.args.y
  .next (match s.sys.samples with
    | [] => s
    | p :: rest =>
      if !s.mayReplay p.quad x || x == y || y == p.quad || 256 ≤ y then s
      else
        let s : State := { s with sys := { s.sys with samples := rest } }
        if s.args.value == p.sig then s
        else
          let bad := suspectOf (p.quad, p.sig) (x, s.args.value) (y, s.args.value2)
          (((s.logRec 4 0 (p.quad + 256 * x) (p.sig ^^^ s.args.value).toNat).count 502 1).event 0 7 0 bad).suspect bad)

/-! ### Group links (R402) -/

/-- LINK_DOWN and LINK_UP of the link `x`. -/
def execLinkDown (s : State) : Out :=
  let k := s.args.x % 16
  .next { s with sys := { s.sys with links := if s.sys.links / 2 ^ k % 2 = 1 then s.sys.links - 2 ^ k else s.sys.links } }

def execLinkUp (s : State) : Out := .next { s with sys := { s.sys with links := Nat.lor s.sys.links (2 ^ (s.args.x % 16)) } }

/-! ### Firmware (R403, R404, R409) -/

/-- An image is accepted whose signature verifies and whose version is not below the rollback count of its kind, which it raises: a
root image, of slot 0, by the mask ROM, and any other by the root image that runs (R403; log 53). -/
def State.acceptImage (s : State) (i : FirmwareImage) : State :=
  let count := Cells.get 0 s.sys.rollback i.slot
  if (i.slot = 0 || s.sys.images.any (·.slot == 0)) && Config.signatureValid (Config.sm3 i.bytes) i.sig && count ≤ i.version then
    { s with sys := { s.sys with images := s.sys.images.filter (fun k => k.slot != i.slot) ++ [i],
                                 rollback := Cells.set 0 s.sys.rollback i.slot i.version } }
  else s

/-- The configuration image that runs, which is of slot 2 (R403; log 53). -/
def System.config (y : System) : Option FirmwareImage := y.images.find? (·.slot == 2)

/-- What the signed configuration says is applied: its quads are retired, its banks remapped, and its carve-out is written to the
CCARVE of each die that it names (R386, R396, R405; log 53). -/
def State.configure (s : State) (i : FirmwareImage) : State :=
  let s := ((Config.retireList i.body).filter (· < 256)).foldl State.retireQuad s
  let s : State := { s with sys := { s.sys with remaps := s.sys.remaps ++ Config.remapList i.body } }
  (List.range 8).foldl (fun s d => match (Config.carveOut i.body)[d]? with
    | some units => s.carve d (units % 16)
    | none => s) s

/-- First boot generates the attestation key (R404); a later one keeps it. -/
def State.makeKey (s : State) : State :=
  if s.sys.attKey.isSome then s
  else
    let d := Config.attestPrivate s.free
    { s with free := s.free + 1, sys := { s.sys with attKey := some (d, Config.attestPublic d) } }

/-- POWER_ON with the images that the flash holds, the root's before the others (R388, R389, R396, R403 to R405). -/
def execPowerOn (s : State) : Out :=
  .next (if s.sys.powered then s
    else
      let s : State := { s with sys := { s.sys with powered := true, booted := false, filter := [], log := [], logSeq := 0 } }
      let (roots, rest) := s.args.images.partition (·.slot == 0)
      let s := ((roots ++ rest).foldl State.acceptImage s).makeKey
      match s.sys.config with
      | some i => s.configure i
      | none => s)

/-- BRING_UP_COMPLETE (R409). -/
def execBringUpComplete (s : State) : Out :=
  .next (if s.sys.powered then { s with sys := { s.sys with booted := true } } else s)

/-- ATTESTATION_REQUEST (R404): the root signs the digests of the running images with the attestation key; before first boot
there is none. -/
def execAttestationRequest (s : State) : Out :=
  .next (match s.sys.attKey with
    | some (d, _) => { s with sys := { s.sys with attest := Config.sign d (s.sys.images.flatMap (fun i => Config.sm3 i.bytes)) } }
    | none => s)

/-! ### Power and heat (R407, R408) -/

/-- A die's clock after a period: 1.0 GHz while it is hot, else what it is given, between 1.0 and 2.0 GHz and at most one
step above the last. -/
def Die.clocked (d : Die) (want : Nat) : Nat := if d.hot then 16 else max 16 (min 32 (min want (d.clock + 1)))

/-- The package drew `watts` from one period's end to the next: an excursion above the budget begins, goes on or ends
(R2, R407); none where that may not be, above 4,000 W, beyond 1 ms, or within nine times the length of the one before. -/
def System.drew (y : System) (now watts : Nat) : Option System :=
  if watts ≤ y.pbudget then
    some (match y.excursion with
      | some start => { y with excursion := none, calmUntil := y.arbiter + 9 * (y.arbiter - start) }
      | none => y)
  else
    let start := y.excursion.getD y.arbiter
    if 4000 < watts || start + 1000000 < now || (y.excursion.isNone && start < y.calmUntil) then none
    else some { y with excursion := some start }

/-- A die's temperature where no thermal event is due at it (R408). -/
def Die.warmed (d : Die) (t : Nat) : Die :=
  if (if d.hot then 100 ≤ t && t < 115 else t < 105) then { d with temp := t } else d

/-- POWER_ARBITER_PERIOD (R397, R407): `nats` are the shares of the eight dies, the clocks they take to keep within them, in
steps of 62.5 MHz, and their temperatures; `value` is the package's power in watts, `value2` the joules and `y` the seconds
counted since the last period.  An excursion raises event 8 with the watts as it begins (R401; log 37). -/
def execPowerArbiterPeriod (s : State) : Out :=
  let share := fun (d : Nat) => s.args.nats.getD d 0
  .next (if s.time < s.sys.arbiter + 10000 || s.sys.pbudget < ((List.range 8).map share).foldl (· + ·) 0 then s
    else
      match s.sys.drew s.time s.args.value.toNat with
      | none => s
      | some sys =>
        let began := s.sys.excursion.isNone && sys.excursion.isSome
        let s : State := { s with sys := { sys with arbiter := s.time } }
        let s := (List.range 8).foldl (fun s d =>
          let x := (s.die d).warmed (s.args.nats.getD (16 + d) (s.die d).temp)
          s.setDie d { x with share := share d, clock := x.clocked (s.args.nats.getD (8 + d) x.clock) }) s
        let s := if began then (s.count 505 1).event 0 8 0 s.args.value.toNat else s
        let s := (s.count 504 s.args.value2.toNat).count 0 s.args.y
        (List.range 8).foldl (fun s d => s.count (600 + min 15 (((s.die d).temp - 30) / 5)) s.args.y) s)

/-- A die reaches 105 °C: its clock goes to 1.0 GHz, and event 8 is raised (R408). -/
def State.throttle (s : State) (n temp : Nat) : State :=
  (s.setDie n { s.die n with temp, clock := 16, hot := true }).event 0 8 0 temp

/-- THERMAL_THROTTLE of the die `x` at `y` °C (R408). -/
def execThermalThrottle (s : State) : Out :=
  .next (if s.args.y < 105 || (s.die (s.args.x % 8)).hot then s else s.throttle (s.args.x % 8) s.args.y)

/-- THERMAL_UNTHROTTLE of the die `x` at `y` °C (R408). -/
def execThermalUnthrottle (s : State) : Out :=
  let d := s.die (s.args.x % 8)
  .next (if 100 ≤ s.args.y || !d.hot then s else s.setDie (s.args.x % 8) { d with temp := s.args.y, hot := false })

/-- THERMAL_STOP by the die `x` at `y` °C (R408): every partition is halted with no deadline.  A die that has not been throttled
passes 105 °C on its way. -/
def execThermalStop (s : State) : Out :=
  .next (if s.args.y < 115 || s.sys.heat != .run then s
    else
      let s := if (s.die (s.args.x % 8)).hot then s else s.throttle (s.args.x % 8) 105
      let s := s.setDie (s.args.x % 8) { s.die (s.args.x % 8) with temp := s.args.y }
      let s := ((List.range 64).filter (fun p => (s.part p).state = 1 || (s.part p).state = 5)).foldl (fun s p =>
        (s.beginHalt p true).setPart p { (s.beginHalt p true).part p with entering := (s.part p).entering || ((s.part p).state = 5 && !(s.part p).thermal) }) s
      let s := ((List.range 64).filter (fun p => (s.part p).state = 2)).foldl (fun s p => s.setPart p { s.part p with thermal := true }) s
      State.event { s with sys := { s.sys with heat := .halting } } 0 8 0 s.args.y)

/-- THERMAL_CLOCK_STOP (R408): once every halt is complete. -/
def execThermalClockStop (s : State) : Out :=
  .next (if s.sys.heat != .halting || (List.range 64).any (fun p => (s.part p).state = 2 && (s.part p).haltedAt.isNone) then s
    else
      let s := ((List.range 64).filter (fun p => (s.part p).state = 2)).foldl (fun s p => s.setPart p { s.part p with state := 6 }) s
      { s with sys := { s.sys with heat := .stopped } })

/-- THERMAL_RESTART with the temperatures `nats` of the dies (R408): PSTATE of each partition that was held reads 5 until SWAP_IN
resumes its dispatch. -/
def execThermalRestart (s : State) : Out :=
  let temp := fun (d : Nat) => s.args.nats.getD d 95
  .next (if s.sys.heat != .stopped || (List.range 8).any (fun d => 95 ≤ temp d) then s
    else
      let s := (List.range 8).foldl (fun s d => s.setDie d { s.die d with temp := temp d, clock := 16, hot := false }) s
      let s : State := { s with sys := { s.sys with heat := .run } }
      let s := ((List.range 64).filter (fun p => (s.part p).state = 6)).foldl (fun s p => s.setPart p { s.part p with state := 5 }) s
      s.event 0 8 0 ((List.range 8).foldl (fun m d => max m (temp d)) 0))

end Sys2Proof.Machine
end

