-- ==== Sys2Proof/Machine/Supervisor.lean ====
section
/-! DEFINITION. The supervisor's mailbox and register writes (R279, R336, R366, R370, R376, R393, R398 to R401, R406, R407). -/

namespace Sys2Proof.Machine

/-! ### FWMBOX (R406) -/

/-- The firmware answers the request in the mailbox: STATUS in word 14, the request taken, and event 9. -/
def State.mailDone (s : State) (status : Nat) : State :=
  let box := Cells.set 0 (Cells.set 0 s.sys.fwmbox 14 (word status)) 15 0
  State.event { s with sys := { s.sys with fwmbox := box } } 0 9 0 status

/-- The OP of the request in the mailbox, if one is in progress. -/
def State.mailOp (s : State) : Option Nat :=
  if s.sys.booted && Cells.get 0 s.sys.fwmbox 15 == 1 then some (Cells.get 0 s.sys.fwmbox 0).toNat else none

/-- Serves the request in progress where its OP is `op`; the event's fields say what the firmware reads in words 1 to 13
(log 10).  A request whose OP is none of R406's five is refused (log 46). -/
def mailbox (op : Nat) (run : State → State × Bool) (s : State) : Out :=
  .next (match s.mailOp with
    | none => s
    | some k =>
      if k = op then
        let (s, ok) := run s
        s.mailDone (if ok then 0 else 1)
      else if k = 0 || 5 < k then s.mailDone 1
      else s)

/-- Slices that overlap must be the same set, in a rota of at most four partitions (R377). -/
def State.slicesFit (s : State) (part slices : Nat) : Bool :=
  let others := (List.range 64).filter (fun p => p != part && Nat.land (s.part p).slices slices != 0)
  others.all (fun p => (s.part p).slices = slices) && others.length ≤ 3

/-- Sets a halted or off partition (R366, R406): one formed on free slices is resident, one that joins a rota is swapped out,
one formed during the thermal stop waits for its rota (R408), and one without slices is off.  PVAULT may name a unit that is not
in force, on which the spec is silent: it is taken as it is, and its bytes are vault memory like any other (log 47). -/
def State.formPart (s : State) (part slices quant owner vault : Nat) (vwbase : Word64) : State :=
  let p := { s.part part with slices, quant, powner := owner % 64, vault := vault % 2 ^ 32, vwbase }
  if slices = 0 then s.setPart part { p with state := 0 }
  else if p.state != 0 then s.setPart part p
  else
    let held := (List.range 64).any (fun k => k != part && (s.part k).slices = slices && (s.part k).state != 0 && (s.part k).state != 4)
    if held || s.sys.heat != .run then s.setPart part { p with state := 4 } else (s.setPart part p).startQuantum part

/-- FWMBOX_SET_PARTITION of the partition `x`: PSLICE `value`, PQUANT `y`, POWNER `z`, PVAULT `value2`, and its window's base
in `nats`; PVAULT may not name a unit of shadow storage, which lies outside every window (R379). -/
def execFwmboxSetPartition : State → Out :=
  mailbox 1 (fun s =>
    let part := s.args.x
    let p := s.part part
    let may := p.state = 0 || p.state = 4 || ((p.state = 2 || p.state = 6) && p.haltedAt.isSome)
    if 64 ≤ part || !may || Nat.land s.args.value2.toNat s.sys.shadow != 0 || !s.slicesFit part s.args.value.toNat then (s, false)
    else (s.formPart part s.args.value.toNat (s.args.y % 2 ^ 32) s.args.z s.args.value2.toNat (word64 (s.args.nats.headD 0)), true))

/-- FWMBOX_BIND_FUNCTION of the function `x` to the partition `y`. -/
def execFwmboxBindFunction : State → Out :=
  mailbox 2 (fun s =>
    if 64 < s.args.x || 64 ≤ s.args.y then (s, false)
    else (s.setFn s.args.x { s.fn s.args.x with part := some s.args.y }, true))

/-- FWMBOX_RECALL of the slice `x` = 8 × die + slice (R383). -/
def execFwmboxRecall : State → Out := mailbox 3 (fun s => s.recall (s.args.x % 64))

/-- FWMBOX_CARVE: CCARVE of the die `x` to `y` units (R386). -/
def execFwmboxCarve : State → Out :=
  mailbox 4 (fun s =>
    let s := s.carve (s.args.x % 8) (s.args.y % 16)
    (s, (s.die (s.args.x % 8)).cstat ≤ 1))

/-- FWMBOX_REMAP of the bank `y` of the stack `x`: its pages lie elsewhere from now on, at the same addresses. -/
def execFwmboxRemap : State → Out :=
  mailbox 5 (fun s => ({ s with sys := { s.sys with remaps := s.sys.remaps ++ [(s.args.x % 8, s.args.y)] } }, true))

/-! ### Register writes -/

/-- The firmware as a writer; the functions are 0 to 64. -/
def firmware : Nat := 65

/-- A field that a register replaces only where the value is in its range, as MRATE, SVCTL and PBUDGET state (R336, R393, R407). -/
def inRange (lo hi v old : Nat) : Nat := if lo ≤ v && v ≤ hi then v else old

/-- A write to a function's translation block (R279); `pf` is a write by the physical function, which alone writes H
fields.  A size outside 4 to 12 and a ring base that is not 4 KiB aligned are set as they are written (R10; log 46). -/
def Fn.writeXlate (f : Fn) (pf : Bool) (off : Nat) (v : Nat) : Fn :=
  match off with
  | 0x00 =>
    let s2 := if pf then fld v 1 1 else fld f.tctl.toNat 1 1
    { f with tctl := word (fld v 0 0 + s2 * 2 + fld v 2 2 * 4) }
  | 0x08 => { f with t1root := word64 (fld v 47 12 * 4096) }
  | 0x10 => if pf then { f with t2root := word64 (fld v 47 12 * 4096) } else f
  | 0x18 => { f with pcqbase := word64 v }
  | 0x20 => { f with pcqsize := v % 2 ^ 32 }
  | 0x24 => { f with pcqtail := v % 2 ^ 32 }
  | 0x30 => { f with prqbase := word64 v }
  | 0x38 => { f with prqsize := v % 2 ^ 32 }
  | 0x3C => { f with prqhead := v % 2 ^ 32 }
  | _ => f

/-- A write to the stage-2 request ring that the physical function holds for a function (R279). -/
def Fn.writeStage2 (f : Fn) (off v : Nat) : Fn :=
  match off with
  | 0x30 => { f with prq2base := word64 v }
  | 0x38 => { f with prq2size := v % 2 ^ 32 }
  | 0x3C => { f with prq2head := v % 2 ^ 32 }
  | _ => f

/-- A write to an event block (R401). -/
def Fn.writeEvent (f : Fn) (off v : Nat) : Fn :=
  match off with
  | 0x00 => { f with evqbase := word64 v }
  | 0x08 => { f with evqsize := v % 2 ^ 32 }
  | 0x0C => { f with evqhead := v % 2 ^ 32 }
  | _ => f

/-- A TCB of a partition's pool is in state 2 or 3 (R366). -/
def State.poolBusy (s : State) (part : Nat) : Bool :=
  (List.range (s.part part).count).any (fun i => s.tcbGet part i 0xE 1 = 2 || s.tcbGet part i 0xE 1 = 3)

/-- A write to a partition's block (R336, R366); `vf` limits it to TCBBASE, TCBCNT and PSVEC (R399).  A TCBBASE that is not
128-byte aligned is set as it is written (R10; log 46). -/
def State.writePart (s : State) (n : Nat) (vf : Bool) (off v : Nat) : State :=
  let p := s.part n
  match off with
  | 0x10 => if s.poolBusy n then s else s.setPart n { p with tcbbase := word64 v }
  | 0x18 =>
    let count := min 4096 (fld v 12 0)
    if s.poolBusy n then s else s.setPart n { p with count, hcnt := min count (fld v 28 16) }
  | 0x30 => s.setPart n { p with psvec := word64 v }
  | 0x80 =>
    if vf then s
    else s.putPart n { p with mrec := { p.mrec with itin := fld v 15 0 }, mrecW := { p.mrecW with itin := fld v 31 16 } }
  | 0x84 =>
    if vf then s
    else s.setPart n { p with mrec := { p.mrec with rate := inRange 1 16 (fld v 4 0) p.mrec.rate },
                              mrecW := { p.mrecW with rate := inRange 1 16 (fld v 12 8) p.mrecW.rate } }
  | 0x88 => if vf then s else s.putPart n { p with mwgt := fld v 7 0 }
  | 0x8C => if vf then s else s.setPart n { p with mpfa := fld v 15 0 }
  | 0x98 => if vf then s else s.setPart n { p with mrec := { p.mrec with img := word64 v } }
  | 0xA0 => if vf then s else s.setPart n { p with mrecW := { p.mrecW with img := word64 v } }
  | _ => s

/-- A write to FWMBOX word `k` (R406): a request submitted while one is in progress is answered busy. -/
def State.writeBox (s : State) (k v : Nat) : State :=
  if k = 15 && v = 1 && Cells.get 0 s.sys.fwmbox 15 == 1 then
    State.event { s with sys := { s.sys with fwmbox := Cells.set 0 s.sys.fwmbox 14 2 } } 0 9 0 2
  else { s with sys := { s.sys with fwmbox := Cells.set 0 s.sys.fwmbox k (word v) } }

/-- A write to the package block (R393, R399, R400, R406, R407). -/
def State.writePackage (s : State) (off v : Nat) : State :=
  match off with
  | 0x00 => { s with sys := { s.sys with hostatt := v % 4 } }
  | 0x10 => { s with sys := { s.sys with pbudget := inRange 400 3200 (fld v 11 0) s.sys.pbudget } }
  | 0x20 => { s with sys := { s.sys with svK := inRange 0 20 (fld v 4 0) s.sys.svK, svEnp := fld v 5 5 = 1, svEnw := fld v 6 6 = 1 } }
  | 0x30 => { s with sys := { s.sys with bankthr := fld v 15 0 } }
  | _ =>
    if 0x100 ≤ off && off < 0x140 && off % 4 = 0 then s.writeBox ((off - 0x100) / 4) v
    else if 0x2000 ≤ off && off ≤ 0x2000 + 4 * 64 && off % 4 = 0 then
      let n := (off - 0x2000) / 4
      s.setFn n { s.fn n with cwaymask := word (v % 2 ^ 16) }
    else s

/-- A write to QCTL (R370): while TCBs wait in the queue only WEIGHT and EN change. -/
def State.writeQctl (s : State) (n v : Nat) : State :=
  let q := s.queue n
  let q := { q with weight := fld v 19 12, en := fld v 21 21 = 1 }
  s.putQueue n (if s.qdepth n = 0 then { q with part := fld v 5 0, owner := fld v 11 6, sup := fld v 20 20 = 1 } else q)

/-- The partitions of a slice are off or swapped out (R376). -/
def State.sliceIdle (s : State) (k : Nat) : Bool :=
  (List.range 64).all (fun p => (s.part p).slices / 2 ^ k % 2 = 0 || (s.part p).state = 0 || (s.part p).state = 4)

/-! ### Register reads (R10) -/

/-- A field at its place in a register. -/
def atBit (lo x : Nat) : Nat := x * 2 ^ lo

/-- A read of a function's translation block (R279). -/
def Fn.readXlate (f : Fn) (off : Nat) : Nat :=
  match off with
  | 0x00 => f.tctl.toNat
  | 0x08 => f.t1root.toNat
  | 0x10 => f.t2root.toNat
  | 0x18 => f.pcqbase.toNat
  | 0x20 => f.pcqsize
  | 0x24 => f.pcqtail
  | 0x28 => f.pcqhead
  | 0x30 => f.prqbase.toNat
  | 0x38 => f.prqsize
  | 0x3C => f.prqhead
  | 0x40 => f.prqtail
  | _ => 0

/-- A read of a function's stage-2 request ring (R279). -/
def Fn.readStage2 (f : Fn) (off : Nat) : Nat :=
  match off with
  | 0x30 => f.prq2base.toNat
  | 0x38 => f.prq2size
  | 0x3C => f.prq2head
  | 0x40 => f.prq2tail
  | _ => 0

/-- A read of an event block (R401). -/
def Fn.readEvent (f : Fn) (off : Nat) : Nat :=
  match off with
  | 0x00 => f.evqbase.toNat
  | 0x08 => f.evqsize
  | 0x0C => f.evqhead
  | 0x10 => f.evqtail
  | 0x14 => f.evqlost
  | _ => 0

/-- A read of a partition's block (R336, R366). -/
def Part.read (p : Part) (off : Nat) : Nat :=
  match off with
  | 0x00 => p.slices
  | 0x08 => p.state
  | 0x0C => p.quant
  | 0x10 => p.tcbbase.toNat
  | 0x18 => p.count + atBit 16 p.hcnt
  | 0x1C => p.debt
  | 0x20 => p.vault
  | 0x28 => p.powner
  | 0x30 => p.psvec.toNat
  | 0x80 => p.mrec.itin + atBit 16 p.mrecW.itin
  | 0x84 => p.mrec.rate + atBit 8 p.mrecW.rate
  | 0x88 => p.mwgt
  | 0x8C => p.mpfa
  | 0x90 => p.lapNo 0 + atBit 16 (p.lapNo 1)
  | 0x98 => p.mrec.img.toNat
  | 0xA0 => p.mrecW.img.toNat
  | _ => 0

/-- A read of a launch queue's registers (R370). -/
def State.readQueue (s : State) (n off : Nat) : Nat :=
  let q := s.queue n
  match off with
  | 0x0 => q.part + atBit 6 q.owner + atBit 12 q.weight + atBit 20 q.sup.toNat + atBit 21 q.en.toNat
  | 0x4 => q.index + atBit 16 q.qerr
  | 0x8 => s.qdepth n
  | _ => 0

/-- A read of the package block (R393, R399, R400, R406, R407). -/
def State.readPackage (s : State) (off : Nat) : Nat :=
  match off with
  | 0x00 => s.sys.hostatt
  | 0x10 => s.sys.pbudget
  | 0x20 => s.sys.svK + atBit 5 s.sys.svEnp.toNat + atBit 6 s.sys.svEnw.toNat
  | 0x30 => s.sys.bankthr
  | 0x38 => s.sys.svdrop
  | _ =>
    if 0x100 ≤ off && off < 0x140 && off % 4 = 0 then (Cells.get 0 s.sys.fwmbox ((off - 0x100) / 4)).toNat
    else if 0x2000 ≤ off && off ≤ 0x2000 + 4 * 64 && off % 4 = 0 then (s.fn ((off - 0x2000) / 4)).cwaymask.toNat
    else 0

/-- A record of the error log as a number, its byte 0 the lowest (R389). -/
def LogRec.bits (l : LogRec) : Nat := l.kind + atBit 8 l.src + atBit 32 l.seq + atBit 64 l.time + atBit 128 l.loc + atBit 192 l.data

/-- CCARVE of a die (R386). -/
def Die.carveReg (d : Die) : Nat := d.target + atBit 4 d.cur + atBit 8 d.cstat

/-- A lifetime counter by its place in the window: the first 1,024 by their numbers, then BANKREP by its bank's key (R388, R397;
log 46). -/
def System.lifeAt (y : System) (i : Nat) : Nat := if i < 1024 then Cells.get 0 y.life i else Cells.get 0 y.bankrep (i - 1024)

/-- A read of the read-only windows (R385, R397, R399): a usage counter, a lifetime counter, eight bytes of a record of the error
log by its place in the ring. -/
def State.readWindow (s : State) (off : Nat) : Nat :=
  if off < 0x10000 then Cells.get 0 s.sys.usage (off / 8)
  else if off < 0x80000 then s.sys.lifeAt ((off - 0x10000) / 8)
  else
    let rec' := s.sys.log.find? (fun l => l.seq % 16384 == (off - 0x80000) / 32)
    (rec'.map LogRec.bits).getD 0 / 2 ^ (64 * (off / 8 % 4)) % 2 ^ 64

/-- The current value of a register, its reserved bits 0 (R10).  No row of the opcode table is a read: a function reads through
`State.readBar`, the firmware through this, and a read changes nothing. -/
def State.readReg (s : State) (r : DeviceReg) : Nat :=
  match r.block with
  | 0 => s.readPackage r.offset
  | 1 => (s.part r.index).read r.offset
  | 2 => (s.fn r.index).readXlate r.offset
  | 3 => (s.fn r.index).readEvent r.offset
  | 4 => s.readQueue r.index r.offset
  | 5 => Cells.get 0x3FFF s.connmat r.index
  | 6 => (s.fn r.index).readStage2 r.offset
  | 7 => s.readWindow r.offset
  | 8 => (s.die r.index).carveReg
  | _ => 0

/-! ### Registers by a function or the firmware -/

/-- The partition, function, queue, slice or die that a register's index names is one of the package's. -/
def regExists (r : DeviceReg) : Bool :=
  match r.block with
  | 1 | 4 | 5 => r.index < 64
  | 2 | 3 => r.index ≤ 64
  | 6 => 1 ≤ r.index && r.index ≤ 64
  | 8 => r.index < 8
  | _ => true

/-- The register at an offset of the physical function's BAR0, which is 16 MiB (R399).  The stage-2 ring that it holds for a
virtual function (R279) lies from 0x800 of that function's block on (log 46). -/
def physReg (off : Nat) : Option DeviceReg :=
  if off < 0x100 then some ⟨2, 0, off⟩
  else if off < 0x1_0000 then some ⟨3, 0, off - 0x100⟩
  else if 0x1_1000 ≤ off && off < 0x1_1400 then some ⟨4, (off - 0x1_1000) / 16, off % 16⟩
  else if off < 0x10_0000 then some ⟨0, 0, off - 0x1_0000⟩
  else if off < 0x14_0000 then some ⟨1, (off - 0x10_0000) / 0x1000, off % 0x1000⟩
  else if 0x20_1000 ≤ off && off < 0x24_1000 then
    let v := (off - 0x20_0000) / 0x1000
    some (if off % 0x1000 < 0x800 then ⟨2, v, off % 0x1000⟩ else ⟨6, v, off % 0x800⟩)
  else if 0x80_0000 ≤ off && off < 0x100_0000 then some ⟨7, 0, off - 0x80_0000⟩
  else none

/-- The register at an offset of a function's BAR0 (R399): of a virtual function 64 KiB, with its translation block, its event
block and the block of the partition bound to it. -/
def State.barReg (s : State) (fn off : Nat) : Option DeviceReg :=
  if fn = 0 then physReg off
  else if 64 < fn then none
  else if off < 0x100 then some ⟨2, fn, off⟩
  else if off < 0x1000 then some ⟨3, fn, off - 0x100⟩
  else if off < 0x2000 then (s.fn fn).part.map (fun p => ⟨1, p, off - 0x1000⟩)
  else none

/-- What a function's read of its BAR0 returns: all ones before bring-up has finished (R399, R409). -/
def State.readBar (s : State) (fn off : Nat) : Nat :=
  if !s.sys.booted then 2 ^ 64 - 1 else ((s.barReg fn off).map s.readReg).getD 0

/-- A function's write of `v` to a register of its BAR0; `phys` says that it is the physical one (R10, R279, R366, R399). -/
def State.writeReg (s : State) (phys : Bool) (r : DeviceReg) (v : Nat) : State :=
  match r.block with
  | 0 => s.writePackage r.offset v
  | 1 => s.writePart r.index (!phys) r.offset v
  | 2 => s.setFn r.index ((s.fn r.index).writeXlate phys r.offset v)
  | 3 => s.setFn r.index ((s.fn r.index).writeEvent r.offset v)
  | 4 => if r.offset = 0 then s.writeQctl r.index v else s
  | 6 => s.setFn r.index ((s.fn r.index).writeStage2 r.offset v)
  | _ => s

/-- REGISTER_WRITE of `value` by the writer `x` (R10, R399): a function writes at the offset `y` of its BAR0, the firmware the
register `reg`; of those the firmware reaches, this row writes CONNMAT (R376, log 46).  A write that its writer may not make is
ignored. -/
def execRegisterWrite (s : State) : Out :=
  let r := s.args.reg
  let v := s.args.value.toNat
  .next (if s.args.x = firmware then
      if r.block = 5 && regExists r && s.sliceIdle r.index then { s with connmat := Cells.set 0x3FFF s.connmat r.index (v % 2 ^ 14) } else s
    else
      match s.barReg s.args.x s.args.y with
      | some r => s.writeReg (s.args.x = 0) r v
      | none => s)

end Sys2Proof.Machine
end

