-- ==== Sys2Proof/Machine/Dispatch.lean ====
section
/-! DEFINITION. One arm per instruction and event of the opcode table: its meaning. -/

namespace Sys2Proof.Machine

/-- What an instruction or event does to the package. -/
def exec (i : Instr) (s : State) : Host.Outcome State Fault Refusal :=
  match i with
  | .iadd x => Sys2Proof.Machine.execIadd x s
  | .iaddLong x => Sys2Proof.Machine.execIaddLong x s
  | .isub x => Sys2Proof.Machine.execIsub x s
  | .isubLong x => Sys2Proof.Machine.execIsubLong x s
  | .imul x => Sys2Proof.Machine.execImul x s
  | .imulLong x => Sys2Proof.Machine.execImulLong x s
  | .imulh x => Sys2Proof.Machine.execImulh x s
  | .imulhLong x => Sys2Proof.Machine.execImulhLong x s
  | .imad x => Sys2Proof.Machine.execImad x s
  | .imin x => Sys2Proof.Machine.execImin x s
  | .iminLong x => Sys2Proof.Machine.execIminLong x s
  | .imax x => Sys2Proof.Machine.execImax x s
  | .imaxLong x => Sys2Proof.Machine.execImaxLong x s
  | .iabs x => Sys2Proof.Machine.execIabs x s
  | .iabsLong x => Sys2Proof.Machine.execIabsLong x s
  | .ineg x => Sys2Proof.Machine.execIneg x s
  | .inegLong x => Sys2Proof.Machine.execInegLong x s
  | .and x => Sys2Proof.Machine.execAnd x s
  | .andLong x => Sys2Proof.Machine.execAndLong x s
  | .or x => Sys2Proof.Machine.execOr x s
  | .orLong x => Sys2Proof.Machine.execOrLong x s
  | .xor x => Sys2Proof.Machine.execXor x s
  | .xorLong x => Sys2Proof.Machine.execXorLong x s
  | .not x => Sys2Proof.Machine.execNot x s
  | .notLong x => Sys2Proof.Machine.execNotLong x s
  | .shl x => Sys2Proof.Machine.execShl x s
  | .shlLong x => Sys2Proof.Machine.execShlLong x s
  | .shr x => Sys2Proof.Machine.execShr x s
  | .shrLong x => Sys2Proof.Machine.execShrLong x s
  | .sar x => Sys2Proof.Machine.execSar x s
  | .sarLong x => Sys2Proof.Machine.execSarLong x s
  | .rotl x => Sys2Proof.Machine.execRotl x s
  | .rotlLong x => Sys2Proof.Machine.execRotlLong x s
  | .bfe x => Sys2Proof.Machine.execBfe x s
  | .bfi x => Sys2Proof.Machine.execBfi x s
  | .popc x => Sys2Proof.Machine.execPopc x s
  | .popcLong x => Sys2Proof.Machine.execPopcLong x s
  | .clz x => Sys2Proof.Machine.execClz x s
  | .clzLong x => Sys2Proof.Machine.execClzLong x s
  | .brev x => Sys2Proof.Machine.execBrev x s
  | .brevLong x => Sys2Proof.Machine.execBrevLong x s
  | .icmp x => Sys2Proof.Machine.execIcmp x s
  | .sel x => Sys2Proof.Machine.execSel x s
  | .mov x => Sys2Proof.Machine.execMov x s
  | .movLong x => Sys2Proof.Machine.execMovLong x s
  | .smov x => Sys2Proof.Machine.execSmov x s
  | .smovLong x => Sys2Proof.Machine.execSmovLong x s
  | .ladd x => Sys2Proof.Machine.execLadd x s
  | .laddLong x => Sys2Proof.Machine.execLaddLong x s
  | .lsub x => Sys2Proof.Machine.execLsub x s
  | .lsubLong x => Sys2Proof.Machine.execLsubLong x s
  | .lmad x => Sys2Proof.Machine.execLmad x s
  | .dp4 x => Sys2Proof.Machine.execDp4 x s
  | .dp2 x => Sys2Proof.Machine.execDp2 x s
  | .fadd x => Sys2Proof.Machine.execFadd x s
  | .faddLong x => Sys2Proof.Machine.execFaddLong x s
  | .fsub x => Sys2Proof.Machine.execFsub x s
  | .fsubLong x => Sys2Proof.Machine.execFsubLong x s
  | .fmul x => Sys2Proof.Machine.execFmul x s
  | .fmulLong x => Sys2Proof.Machine.execFmulLong x s
  | .ffma x => Sys2Proof.Machine.execFfma x s
  | .fmin x => Sys2Proof.Machine.execFmin x s
  | .fminLong x => Sys2Proof.Machine.execFminLong x s
  | .fmax x => Sys2Proof.Machine.execFmax x s
  | .fmaxLong x => Sys2Proof.Machine.execFmaxLong x s
  | .fabs x => Sys2Proof.Machine.execFabs x s
  | .fabsLong x => Sys2Proof.Machine.execFabsLong x s
  | .fneg x => Sys2Proof.Machine.execFneg x s
  | .fnegLong x => Sys2Proof.Machine.execFnegLong x s
  | .fcmp x => Sys2Proof.Machine.execFcmp x s
  | .fclass x => Sys2Proof.Machine.execFclass x s
  | .fclassLong x => Sys2Proof.Machine.execFclassLong x s
  | .cvt x => Sys2Proof.Machine.execCvt x s
  | .pack x => Sys2Proof.Machine.execPack x s
  | .unpk x => Sys2Proof.Machine.execUnpk x s
  | .frcp x => Sys2Proof.Machine.execFrcp x s
  | .frcpLong x => Sys2Proof.Machine.execFrcpLong x s
  | .frsq x => Sys2Proof.Machine.execFrsq x s
  | .frsqLong x => Sys2Proof.Machine.execFrsqLong x s
  | .fsqrt x => Sys2Proof.Machine.execFsqrt x s
  | .fsqrtLong x => Sys2Proof.Machine.execFsqrtLong x s
  | .fdiv x => Sys2Proof.Machine.execFdiv x s
  | .fdivLong x => Sys2Proof.Machine.execFdivLong x s
  | .fexp2 x => Sys2Proof.Machine.execFexp2 x s
  | .fexp2Long x => Sys2Proof.Machine.execFexp2Long x s
  | .flog2 x => Sys2Proof.Machine.execFlog2 x s
  | .flog2Long x => Sys2Proof.Machine.execFlog2Long x s
  | .fsin x => Sys2Proof.Machine.execFsin x s
  | .fsinLong x => Sys2Proof.Machine.execFsinLong x s
  | .fcos x => Sys2Proof.Machine.execFcos x s
  | .fcosLong x => Sys2Proof.Machine.execFcosLong x s
  | .ftanh x => Sys2Proof.Machine.execFtanh x s
  | .ftanhLong x => Sys2Proof.Machine.execFtanhLong x s
  | .fdot2 x => Sys2Proof.Machine.execFdot2 x s
  | .frint x => Sys2Proof.Machine.execFrint x s
  | .frintLong x => Sys2Proof.Machine.execFrintLong x s
  | .fscale x => Sys2Proof.Machine.execFscale x s
  | .fscaleLong x => Sys2Proof.Machine.execFscaleLong x s
  | .fsgn x => Sys2Proof.Machine.execFsgn x s
  | .fsgnLong x => Sys2Proof.Machine.execFsgnLong x s
  | .vote x => Sys2Proof.Machine.execVote x s
  | .ballot x => Sys2Proof.Machine.execBallot x s
  | .ballotLong x => Sys2Proof.Machine.execBallotLong x s
  | .bcast x => Sys2Proof.Machine.execBcast x s
  | .bcastLong x => Sys2Proof.Machine.execBcastLong x s
  | .shfl x => Sys2Proof.Machine.execShfl x s
  | .shflLong x => Sys2Proof.Machine.execShflLong x s
  | .radd x => Sys2Proof.Machine.execRadd x s
  | .raddLong x => Sys2Proof.Machine.execRaddLong x s
  | .rext x => Sys2Proof.Machine.execRext x s
  | .scan x => Sys2Proof.Machine.execScan x s
  | .nbr x => Sys2Proof.Machine.execNbr x s
  | .ld x => Sys2Proof.Machine.execLd x s
  | .st x => Sys2Proof.Machine.execSt x s
  | .lds x => Sys2Proof.Machine.execLds x s
  | .sts x => Sys2Proof.Machine.execSts x s
  | .ldv x => Sys2Proof.Machine.execLdv x s
  | .stv x => Sys2Proof.Machine.execStv x s
  | .pref x => Sys2Proof.Machine.execPref x s
  | .acopy x => Sys2Proof.Machine.execAcopy x s
  | .ldsc x => Sys2Proof.Machine.execLdsc x s
  | .obst x => Sys2Proof.Machine.execObst x s
  | .obld x => Sys2Proof.Machine.execObld x s
  | .atom x => Sys2Proof.Machine.execAtom x s
  | .ared x => Sys2Proof.Machine.execAred x s
  | .afadd x => Sys2Proof.Machine.execAfadd x s
  | .afred x => Sys2Proof.Machine.execAfred x s
  | .abin x => Sys2Proof.Machine.execAbin x s
  | .cas x => Sys2Proof.Machine.execCas x s
  | .cas64 x => Sys2Proof.Machine.execCas64 x s
  | .cas128 x => Sys2Proof.Machine.execCas128 x s
  | .mwait x => Sys2Proof.Machine.execMwait x s
  | .mclr x => Sys2Proof.Machine.execMclr x s
  | .fence x => Sys2Proof.Machine.execFence x s
  | .sfence x => Sys2Proof.Machine.execSfence x s
  | .jmp x => Sys2Proof.Machine.execJmp x s
  | .bra x => Sys2Proof.Machine.execBra x s
  | .bdiv x => Sys2Proof.Machine.execBdiv x s
  | .call x => Sys2Proof.Machine.execCall x s
  | .ret x => Sys2Proof.Machine.execRet x s
  | .exit x => Sys2Proof.Machine.execExit x s
  | .wexm x => Sys2Proof.Machine.execWexm x s
  | .rdidx x => Sys2Proof.Machine.execRdidx x s
  | .wridx x => Sys2Proof.Machine.execWridx x s
  | .waitc x => Sys2Proof.Machine.execWaitc x s
  | .wmode x => Sys2Proof.Machine.execWmode x s
  | .racq x => Sys2Proof.Machine.execRacq x s
  | .rrel x => Sys2Proof.Machine.execRrel x s
  | .nop x => Sys2Proof.Machine.execNop x s
  | .susp x => Sys2Proof.Machine.execSusp x s
  | .fwake x => Sys2Proof.Machine.execFwake x s
  | .fxform x => Sys2Proof.Machine.execFxform x s
  | .fthr x => Sys2Proof.Machine.execFthr x s
  | .fflush x => Sys2Proof.Machine.execFflush x s
  | .bar x => Sys2Proof.Machine.execBar x s
  | .arrive x => Sys2Proof.Machine.execArrive x s
  | .bwait x => Sys2Proof.Machine.execBwait x s
  | .binit x => Sys2Proof.Machine.execBinit x s
  | .fstat x => Sys2Proof.Machine.execFstat x s
  | .mres x => Sys2Proof.Machine.execMres x s
  | .mrel x => Sys2Proof.Machine.execMrel x s
  | .mldb x => Sys2Proof.Machine.execMldb x s
  | .mpass x => Sys2Proof.Machine.execMpass x s
  | .mdrain x => Sys2Proof.Machine.execMdrain x s
  | .mpred x => Sys2Proof.Machine.execMpred x s
  | .msig x => Sys2Proof.Machine.execMsig x s
  | .mfence x => Sys2Proof.Machine.execMfence x s
  | .board x => Sys2Proof.Machine.execBoard x s
  | .unboard x => Sys2Proof.Machine.execUnboard x s
  | .itin x => Sys2Proof.Machine.execItin x s
  | .lapq x => Sys2Proof.Machine.execLapq x s
  | .coll x => Sys2Proof.Machine.execColl x s
  | .gmemb x => Sys2Proof.Machine.execGmemb x s
  | .launch x => Sys2Proof.Machine.execLaunch x s
  | .trap x => Sys2Proof.Machine.execTrap x s
  | .tret x => Sys2Proof.Machine.execTret x s
  | .rdsys x => Sys2Proof.Machine.execRdsys x s
  | .wrsys x => Sys2Proof.Machine.execWrsys x s
  | .brk x => Sys2Proof.Machine.execBrk x s
  | .svc x => Sys2Proof.Machine.execSvc x s
  | .ill x => Sys2Proof.Machine.execIll x s
  | .unassignedOpcode w => Sys2Proof.Machine.execUnassignedOpcode w s
  | .clauseFetch => Sys2Proof.Machine.execClauseFetch s
  | .clauseWaitPass => Sys2Proof.Machine.execClauseWaitPass s
  | .groupSlotFree => Sys2Proof.Machine.execGroupSlotFree s
  | .debugResume => Sys2Proof.Machine.execDebugResume s
  | .homeLoadPerform => Sys2Proof.Machine.execHomeLoadPerform s
  | .loadReply => Sys2Proof.Machine.execLoadReply s
  | .homeStorePerform => Sys2Proof.Machine.execHomeStorePerform s
  | .storeWctReply => Sys2Proof.Machine.execStoreWctReply s
  | .operationRetire => Sys2Proof.Machine.execOperationRetire s
  | .pageReclassify => Sys2Proof.Machine.execPageReclassify s
  | .copyLaneTransfer => Sys2Proof.Machine.execCopyLaneTransfer s
  | .homeAtomicPerform => Sys2Proof.Machine.execHomeAtomicPerform s
  | .atomicReply => Sys2Proof.Machine.execAtomicReply s
  | .hostReadCompletion => Sys2Proof.Machine.execHostReadCompletion s
  | .hostAtomicCompletion => Sys2Proof.Machine.execHostAtomicCompletion s
  | .monitorRegister => Sys2Proof.Machine.execMonitorRegister s
  | .wakeRecord => Sys2Proof.Machine.execWakeRecord s
  | .wakeAck => Sys2Proof.Machine.execWakeAck s
  | .homeMigrationPass => Sys2Proof.Machine.execHomeMigrationPass s
  | .homeMigrationSwitch => Sys2Proof.Machine.execHomeMigrationSwitch s
  | .registerDeadlock => Sys2Proof.Machine.execRegisterDeadlock s
  | .racqGrant => Sys2Proof.Machine.execRacqGrant s
  | .rowReturn => Sys2Proof.Machine.execRowReturn s
  | .flushTimeout => Sys2Proof.Machine.execFlushTimeout s
  | .tileLoad => Sys2Proof.Machine.execTileLoad s
  | .checkpointLoad => Sys2Proof.Machine.execCheckpointLoad s
  | .translationWalk => Sys2Proof.Machine.execTranslationWalk s
  | .pageRequestWrite => Sys2Proof.Machine.execPageRequestWrite s
  | .cmdInval => Sys2Proof.Machine.execCmdInval s
  | .cmdShard => Sys2Proof.Machine.execCmdShard s
  | .cmdDrop => Sys2Proof.Machine.execCmdDrop s
  | .cmdPartial => Sys2Proof.Machine.execCmdPartial s
  | .cmdEvict => Sys2Proof.Machine.execCmdEvict s
  | .cmdLocal => Sys2Proof.Machine.execCmdLocal s
  | .cmdPreply => Sys2Proof.Machine.execCmdPreply s
  | .stripeRequest => Sys2Proof.Machine.execStripeRequest s
  | .stripeRequestResend => Sys2Proof.Machine.execStripeRequestResend s
  | .stripeReply => Sys2Proof.Machine.execStripeReply s
  | .replayGroupLoad => Sys2Proof.Machine.execReplayGroupLoad s
  | .peerSlow => Sys2Proof.Machine.execPeerSlow s
  | .heartbeat => Sys2Proof.Machine.execHeartbeat s
  | .memberSilenceTimeout => Sys2Proof.Machine.execMemberSilenceTimeout s
  | .agreementProposal => Sys2Proof.Machine.execAgreementProposal s
  | .agreementAccept => Sys2Proof.Machine.execAgreementAccept s
  | .reduceStripeArrival => Sys2Proof.Machine.execReduceStripeArrival s
  | .reduceAcknowledgement => Sys2Proof.Machine.execReduceAcknowledgement s
  | .mldbFillComplete => Sys2Proof.Machine.execMldbFillComplete s
  | .arrayGrant => Sys2Proof.Machine.execArrayGrant s
  | .mpassComplete => Sys2Proof.Machine.execMpassComplete s
  | .mdrainComplete => Sys2Proof.Machine.execMdrainComplete s
  | .teamRetire => Sys2Proof.Machine.execTeamRetire s
  | .lapBoundary => Sys2Proof.Machine.execLapBoundary s
  | .tileEmit => Sys2Proof.Machine.execTileEmit s
  | .boardReachStop => Sys2Proof.Machine.execBoardReachStop s
  | .tileSighting => Sys2Proof.Machine.execTileSighting s
  | .ringRateSlow => Sys2Proof.Machine.execRingRateSlow s
  | .switchSlotRequest => Sys2Proof.Machine.execSwitchSlotRequest s
  | .collectiveDataArrival => Sys2Proof.Machine.execCollectiveDataArrival s
  | .collectiveComplete => Sys2Proof.Machine.execCollectiveComplete s
  | .collectiveArrive => Sys2Proof.Machine.execCollectiveArrive s
  | .qsub => Sys2Proof.Machine.execQsub s
  | .clusterPlace => Sys2Proof.Machine.execClusterPlace s
  | .gridEnd => Sys2Proof.Machine.execGridEnd s
  | .quantumExpiry => Sys2Proof.Machine.execQuantumExpiry s
  | .partitionHalted => Sys2Proof.Machine.execPartitionHalted s
  | .swapOut => Sys2Proof.Machine.execSwapOut s
  | .swapIn => Sys2Proof.Machine.execSwapIn s
  | .watchdogExpiry => Sys2Proof.Machine.execWatchdogExpiry s
  | .sliceLend => Sys2Proof.Machine.execSliceLend s
  | .sliceRecall => Sys2Proof.Machine.execSliceRecall s
  | .recallReturn => Sys2Proof.Machine.execRecallReturn s
  | .ccarveWrite => Sys2Proof.Machine.execCcarveWrite s
  | .carveComplete => Sys2Proof.Machine.execCarveComplete s
  | .fwmboxSetPartition => Sys2Proof.Machine.execFwmboxSetPartition s
  | .fwmboxBindFunction => Sys2Proof.Machine.execFwmboxBindFunction s
  | .fwmboxRecall => Sys2Proof.Machine.execFwmboxRecall s
  | .fwmboxCarve => Sys2Proof.Machine.execFwmboxCarve s
  | .fwmboxRemap => Sys2Proof.Machine.execFwmboxRemap s
  | .correctedDramError => Sys2Proof.Machine.execCorrectedDramError s
  | .errorFilterClear => Sys2Proof.Machine.execErrorFilterClear s
  | .sramCorrectedError => Sys2Proof.Machine.execSramCorrectedError s
  | .uncorrectableError => Sys2Proof.Machine.execUncorrectableError s
  | .surveyorReplay => Sys2Proof.Machine.execSurveyorReplay s
  | .linkDown => Sys2Proof.Machine.execLinkDown s
  | .powerOn => Sys2Proof.Machine.execPowerOn s
  | .bringUpComplete => Sys2Proof.Machine.execBringUpComplete s
  | .attestationRequest => Sys2Proof.Machine.execAttestationRequest s
  | .powerArbiterPeriod => Sys2Proof.Machine.execPowerArbiterPeriod s
  | .thermalThrottle => Sys2Proof.Machine.execThermalThrottle s
  | .thermalUnthrottle => Sys2Proof.Machine.execThermalUnthrottle s
  | .thermalStop => Sys2Proof.Machine.execThermalStop s
  | .thermalClockStop => Sys2Proof.Machine.execThermalClockStop s
  | .thermalRestart => Sys2Proof.Machine.execThermalRestart s
  | .registerWrite => Sys2Proof.Machine.execRegisterWrite s
  | .cmdRefused => Sys2Proof.Machine.execCmdRefused s
  | .linkUp => Sys2Proof.Machine.execLinkUp s

end Sys2Proof.Machine
end

