-- ==== Sys2Proof/Machine/Sched.lean ====
section
/-! DEFINITION. Which context issues, and what a turn does: the pipe scheduler (R26, R197), control threads (R308), the
Surveyor's work units (R393), and the turn list (log 3). -/

namespace Sys2Proof.Machine

/-! ### One attempt of the context that issues -/

/-- The context can be tried at all: it stands on a core or sequencer, has not ended, is not halted, and its issuing
fragment exists. -/
def Ctx.live (c : Ctx) : Bool := c.uid != 0 && !c.ended && !c.halted && (c.frags.getD c.fsel none).isSome

/-- The context waits for the reply to a page request that stands (R287). -/
def State.replyDue (s : State) (c : Ctx) : Bool :=
  match c.stall with
  | some (.request page st2) => s.requests.any (fun r => r.fn == s.fnOf c && r.stage2 == st2 && r.page == page)
  | _ => false

/-- One attempt of the context that issues: at a clause boundary its next clause is fetched, and then its WAIT passes, unless its
partition halts; then its next instruction issues, or raises illegal-instruction (R61, R62, R378).  The trap that
a refused request owes comes first, but for a `bar` or `racq` that has all it waited for (R299, R376). -/
def State.attempt (s : State) : Out :=
  let c := s.cur
  if !c.live || s.replyDue c then .next s
  else match (if c.frag.served then none else c.owedTrap) with
  | some t => .next ((s.cancelWait.upd (fun c => { c with owedTrap := none })).raise t)
  | none =>
  if (!c.clause.isOpen || c.clause.waiting) && !s.teamRuns (s.team c.team) then .next (s.hold .hold)
  else if !c.clause.isOpen then exec .clauseFetch s
  else if c.clause.waiting then exec .clauseWaitPass s
  else
    match c.nextInstr with
    | some i => exec i s
    | none => .next (s.raise illegalInstruction)

/-- The clause that a context was in has closed after its last instruction, not by a trap. -/
def Ctx.closed (a b : Ctx) : Bool :=
  a.clause.isOpen && !a.clause.waiting && !b.ended && a.uid == b.uid && a.inh == b.inh
    && (!b.clause.isOpen || b.clause.hdr != a.clause.hdr)

/-! ### The Surveyor's work units (R393, R394; log 18) -/

def wordBytes (ws : List Word) : List Byte := ws.flatMap (fun w => natLE 4 w.toNat)

/-- What is logged of a clause at its start: its words, the latch window, EXM, the predicates and MODE. -/
def Ctx.auditStart (c : Ctx) : List Byte :=
  wordBytes (c.clause.words ++ c.clause.win.flatMap (fun o => o.getD []) ++ [c.exm] ++ (List.range 8).map c.preg ++ [c.mode])

/-- The lanes in which an instruction is enabled. -/
def Ctx.enabledBy (c : Ctx) (n : Enc) : Word :=
  match n.second with
  | .mods m => c.enabledM m
  | .desc d => c.enabledD d
  | _ => c.exm

/-- The lane of whose A an instruction reads for an enabled lane: another than its own for `bcast`, `shfl` and `rext`'s
broadcast. -/
def Ctx.laneOfA (c : Ctx) (i : Instr) (l : Nat) : Nat :=
  match i with
  | .bcast x => (c.opB x.toLong 0).toNat % 32
  | .bcastLong x => (c.opB x 0).toNat % 32
  | .shfl x => shflLane x.toLong.m.subop.toNat l (c.opB x.toLong l)
  | .shflLong x => shflLane x.m.subop.toNat l (c.opB x l)
  | .rext x => if x.m.subop.toNat = 6 then (c.opB x 0).toNat % 32 else l
  | _ => l

/-- What is logged of the read of a source in an enabled lane; of `nbr`'s A it is the neighbour's value, if there is one. -/
def State.auditRead (s : State) (i : Instr) (n : Enc) (f : Nat × SrcKind × Src) (l : Nat) : List Byte :=
  let c := s.cur
  let k := if f.1 = 0 then c.laneOfA i l else l
  match i, f with
  | .nbr x, (0, _, .v r) => wordBytes (s.neighbour c (x.m.subop = 1) r.toNat l).toList
  | _, _ => if 2 ≤ f.2.1.regs then natLE 8 (c.src64 (n.imm.getD 0) f.2.2 k).toNat else natLE 4 (c.src (n.imm.getD 0) f.2.2 k).toNat

/-- What is logged of an instruction's reads: its sources in each enabled lane, `ptime` as it sampled it (R48), and the generator's output where it drew one. -/
def State.auditReads (old s : State) (i : Instr) (n : Enc) : List Byte :=
  let old := { old with cur := old.cur.touch old.time i.shape n }
  let c := old.cur
  let key := genKey c.loc c.loc.pipe
  let next := genNext (old.gen key)
  (sources i.shape n).flatMap (fun f =>
    if f.2.1.reads then (lanesOf (c.enabledBy n)).flatMap (old.auditRead i n f) else [])
    ++ (if s.gen key = next.1 then natLE 8 next.2.toNat else [])

/-- What is logged of its writes: its destination, unless it writes none back, and MODE. -/
def Ctx.auditWrites (c : Ctx) (i : Instr) (n : Enc) : List Byte :=
  let d := n.w.dst.toNat
  wordBytes ((match (if n.w.nowb then DstKind.none else i.shape.dst) with
    | .v k => (List.range k).flatMap (fun j => lanes.map (c.vreg (d + j)))
    | .s => [c.sreg d]
    | .s64 => [c.sreg d, c.sreg (d + 1)]
    | .p => [c.preg d]
    | _ => []) ++ [c.mode])

/-- What the Surveyor logs of a work unit up to and with an instruction that has issued. -/
def State.audited (old s : State) : List Byte :=
  let c := old.cur
  (if c.clause.pos = 0 then c.auditStart else c.clause.log) ++
    (match c.nextInstr.bind (fun i => i.enc.map (fun n => (i, n))) with
     | some (i, n) => old.auditReads s i n ++ ((s.ctx c.uid).map (fun d => d.auditWrites i n)).getD []
     | none => [])

/-- The instruction of a context has issued, and its clause goes on. -/
def Ctx.wentOn (a b : Ctx) : Bool :=
  a.uid == b.uid && a.clause.isOpen && !a.clause.waiting && b.clause.isOpen && b.clause.hdr == a.clause.hdr && a.clause.pos < b.clause.pos

/-- A work unit of the Surveyor is a clause of class 0 or 1 of a group whose kernel has AUDIT full: what it reads and writes is
logged as its instructions issue, whatever ENW then holds, and it is surveyed as it closes (R393, R394). -/
def State.afterIssue (old s : State) : State :=
  let c := old.cur
  let t := old.team c.team
  if t.id != 0 && c.kind = .group && c.clause.cls ≤ 1 && t.kern.audit = 0 then
    if c.closed s.cur then s.survey (quadNo t.die t.core) s.sys.svEnw false (if s.sys.svEnw then old.audited s else [])
    else if c.wentOn s.cur then s.upd (fun d => { d with clause := { d.clause with log := old.audited s } })
    else s
  else s

/-- The attempt with what follows from a closed clause. -/
def State.issueCur (s : State) : Out :=
  match s.attempt with
  | .next s' => .next (s.afterIssue s')
  | o => o

/-- The context stands inside a clause: its attempt is of an instruction. -/
def Ctx.inClause (c : Ctx) : Bool := c.clause.isOpen && !c.clause.waiting

/-- Attempts up to the first of an instruction: a clause that is fetched, and whose WAIT passes, issues its first instruction
in the same turn. -/
def State.issueTurn (s : State) : Nat → Out
  | 0 => .next s
  | n + 1 =>
    match s.issueCur with
    | .next t =>
      if s.cur.live && !s.cur.inClause && t.cur.uid == s.cur.uid && t.cur.clause.isOpen && t.cur.stall.isNone then t.issueTurn n
      else .next t
    | o => o

/-! ### The pipe scheduler (R26, R197) -/

/-- The context turns to a fragment: why the one it leaves has not issued stays with that, and a clause of which nothing has
issued is given up. -/
def Ctx.turnTo (c : Ctx) (k : Nat) : Ctx :=
  if c.fsel = k then c
  else
    let old := { c.frag with stall := c.stall, failed := c.failed }
    let new := (c.frags.getD k none).getD {}
    { c.setFrag old with fsel := k, clause := {}, stall := new.stall, failed := new.failed }

/-- The fragments of a group that may issue: the one in the handler, or in mid-clause, alone (R26, R153). -/
def Ctx.choices (c : Ctx) : List Nat :=
  if c.inh then (List.range 8).filter (fun k => k == fld c.tcause.toNat 10 8 && (c.frags.getD k none).isSome)
  else if c.clause.isOpen && 0 < c.clause.pos then [c.fsel]
  else (List.range 8).filter (fun k => (c.frags.getD k none).isSome)

/-- The state in which a fragment of a context is about to issue. -/
def State.aim (s : State) (uid k : Nat) : State := (s.focus uid).upd (fun c => c.turnTo k)

/-- A fragment is tried: whether it is ready, which is that its next instruction issues, or traps (R197); and where it is
not, the state that notes why, with what it has asked for. -/
def State.tryFrag (s : State) (uid k : Nat) : Bool × State :=
  let a := s.aim uid k
  if !a.cur.live then (false, s)
  else
    match a.issueTurn 3 with
    | .next t =>
      match s.ctx uid, t.ctx uid with
      | some c, some d =>
        if d.stall.isNone then (true, s)
        else (false, (t.setCtx { d.turnTo c.fsel with clause := if c.fsel = k then d.clause else c.clause }).focus s.cur.uid)
      | _, _ => (true, s)
    | _ => (true, s)

/-- The age of a fragment in its group's issue turns (R26). -/
def Ctx.ageOf (c : Ctx) (k : Nat) : Nat := ((c.frags.getD k none).map (·.age)).getD 0

/-- The fragment a group issues among its ready ones: one that has waited 64 turns, the longest first; else the turn's, if
it is ready; else the lowest (R26, log 3). -/
def Ctx.chooseFrag (c : Ctx) (ready : List Nat) (want : Nat) : Option Nat :=
  let old := ready.filter (fun k => 64 ≤ c.ageOf k)
  let oldest := old.foldl (fun (b : Option Nat) k => match b with
    | none => some k
    | some j => if c.ageOf j < c.ageOf k then some k else b) none
  match oldest with
  | some k => some k
  | none => if ready.contains want then some want else ready.head?

/-- The fragment whose `launch` reads, which holds its group (R374). -/
def State.launching (s : State) (c : Ctx) : Option Nat :=
  s.ops.findSome? (fun o => match o.kind with
    | .reads k => if o.uid == c.uid && (c.frags.getD k none).isSome then some k else none
    | _ => none)

/-- The ready fragments of a group, and the state that notes why the others wait. -/
def State.tryGroup (s : State) (c : Ctx) : List Nat × State :=
  (c.choices.filter (fun k => (s.launching c).all (· == k))).foldl (fun (r : List Nat × State) k =>
    let (ok, s) := r.2.tryFrag c.uid k
    (if ok then r.1 ++ [k] else r.1, s)) ([], s)

/-- A group goes before another among the least recently issued, by the issue turns they took: one that yielded has issued after
every group that has not issued since, and of two that have taken no turn yet the lower slot goes first (R197). -/
def Ctx.earlier (a b : Ctx) : Bool :=
  a.issueSeq < b.issueSeq
    || (a.issueSeq == b.issueSeq && ((!a.yielded && b.yielded) || (a.yielded == b.yielded && a.loc.slot < b.loc.slot)))

/-- The first of a list under an order. -/
def firstBy (before : Ctx → Ctx → Bool) (cs : List Ctx) : Option Ctx :=
  cs.foldl (fun (b : Option Ctx) c => match b with
    | none => some c
    | some d => if before c d then some c else some d) none

/-- The choice of R197 among ready groups. -/
def chooseGroup (cs : List Ctx) : Option Ctx :=
  let aged := cs.filter (fun c => 24 ≤ c.ready)
  let urgent := cs.filter (fun c => c.inh || c.recipe.isSome)
  match firstBy (fun a b => b.ready < a.ready || (a.ready == b.ready && a.loc.slot < b.loc.slot)) aged, firstBy Ctx.earlier urgent with
  | some c, _ => some c
  | none, some c => some c
  | none, none => firstBy Ctx.earlier cs

/-- The groups of a pipe. -/
def State.pipeGroups (s : State) (die core pipe : Nat) : List Ctx :=
  s.ctxs.filter (fun c => c.kind = .group && c.loc.die == die && c.loc.core == core && c.loc.pipe == pipe && !c.ended && !c.halted)

/-- An issue turn of the pipe has gone to a group, which stood as `was`, and its fragment: the ages of R26 and R197 move on.  A
fragment made in the turn has gone none yet. -/
def State.noteTurn (s : State) (was : Ctx) (slot : Nat) (ready waiting : List Nat) : State :=
  let turn := 1 + s.ctxs.foldl (fun m c => max m c.issueSeq) 0
  let age := fun (c : Ctx) =>
    if c.uid == was.uid then
      let older := fun (k : Nat) (f : Frag) => if k == slot || (was.frags.getD k none).isNone then 0 else f.age + 1
      let frags : List (Option Frag) := c.frags.zipIdx.map (fun (o, k) => o.map (fun (f : Frag) => { f with age := older k f }))
      { c with ready := 0, issueSeq := turn, frags }
    else if ready.contains c.uid then { c with ready := c.ready + 1 }
    else if waiting.contains c.uid then { c with ready := 0 }
    else c
  { s with cur := age s.cur, others := s.others.map age,
           sys := { s.sys with issuer := Cells.set 0 s.sys.issuer (genKey was.loc was.loc.pipe) was.uid } }

/-- What a pipe chooses among its groups: the ready groups with the fragment each would issue, and the state that notes why
the others wait. -/
def State.pipeReady (s : State) (gs : List Ctx) (want : Nat) : List (Ctx × Nat) × State :=
  gs.foldl (fun (r : List (Ctx × Nat) × State) c =>
    let (ready, s) := r.2.tryGroup c
    (match c.chooseFrag ready want with
     | some k => r.1 ++ [(c, k)]
     | none => r.1, s)) ([], s)

/-- The clause that a pipe is issuing: of the group `issuer` that took its last turn, where that stands in mid-clause and is
ready; it goes on before the pipe chooses again (R197). -/
def goesOn (issuer : Nat) (picks : List (Ctx × Nat)) : Option (Ctx × Nat) :=
  picks.find? (fun e => e.1.uid == issuer && e.1.clause.isOpen && 0 < e.1.clause.pos)

/-- A group, which stood as `was`, has issued: a register deadlock is counted from then (R200).  A `tret` ends the handler's clause,
so that the pipe chooses again before the clause that was interrupted goes on (R154, R197). -/
def State.noteIssue (s : State) (was : Ctx) : State :=
  match s.ctx was.uid with
  | none => s
  | some c =>
    let s := s.setCtx { c with lastIssue := s.time }
    if was.inh && !c.inh then { s with sys := { s.sys with issuer := Cells.set 0 s.sys.issuer (genKey was.loc was.loc.pipe) 0 } } else s

/-- A pipe's turn: the clause being issued goes on; at a clause boundary, or where it is held, the pipe chooses (R197).  A turn that
resumes a clause which was held in its middle, after a turn of another group, is a further issue turn of its group for the bound of
R26 (DESIGN CHOICE, log 57). -/
def State.pipeTurn (s : State) (die core pipe want : Nat) : Out :=
  let gs := s.pipeGroups die core pipe
  let (picks, s) := s.pipeReady gs want
  let ready : List Nat := picks.map (fun (e : Ctx × Nat) => e.1.uid)
  let waiting := (gs.map (·.uid)).filter (fun u => !ready.contains u)
  match goesOn (Cells.get 0 s.sys.issuer (8 * coreNo die core + pipe)) picks with
  | some (c, k) => ((s.aim c.uid k).issueTurn 3).onNext (·.noteIssue c)
  | none =>
    match chooseGroup (picks.map (·.1)) with
    | none => .next (gs.foldl (fun s c => match s.ctx c.uid with | some d => s.setCtx { d with ready := 0 } | none => s) s)
    | some c =>
      let k := ((picks.find? (fun e => e.1.uid == c.uid)).map (·.2)).getD c.fsel
      ((s.aim c.uid k).issueTurn 3).onNext (fun t => (t.noteTurn c k ready waiting).noteIssue c)

/-! ### The turn list (log 3) -/

/-- A row of the opcode table that an agent other than a context performs. -/
def isAgentEvent (i : Instr) : Bool :=
  i.enc.isNone && (match i with
    | .unassignedOpcode _ => false
    | .clauseFetch => false
    | .clauseWaitPass => false
    | _ => true)

/-- An event of a request, a reply or a wake on its way: it is later than the one that sent it, whose time it carries with it,
and may share its nanosecond with any other (R228). -/
def isMessage : Instr → Bool
  | .homeLoadPerform | .loadReply | .hostReadCompletion | .homeStorePerform | .storeWctReply | .homeAtomicPerform
  | .atomicReply | .hostAtomicCompletion | .copyLaneTransfer | .monitorRegister | .wakeRecord | .wakeAck
  | .operationRetire | .tileSighting | .translationWalk => true
  | _ => false

/-! ### Halts as time goes on (R378, R379, R381, R383) -/

/-- A control thread issues nothing: its next instruction would not issue, or it stands at a clause boundary that its partition lets
it not pass (R332, R378). -/
def State.threadStops (s : State) (c : Ctx) : Bool :=
  let f := (s.focus c.uid).upd (fun c => { c with stall := none })
  c.ended || c.halted || (match f.attempt with
    | .next t => t.cur.uid == c.uid && t.cur.stall.isSome
    | _ => true)

/-- The teams have halted (R378): no group, every thread issues nothing, nothing in flight but what stays, and no collective to
run to its end. -/
def State.teamsHalted (s : State) (ts : List Team) : Bool :=
  let of := fun (n : Nat) => ts.any (fun t => t.id == n)
  s.ctxs.all (fun c => !of c.team || (c.kind = .thread && s.threadStops c))
    && s.ops.all (fun o => !of o.team || (s.stays o && !s.teamEnded o.team))
    && s.colls.all (fun c => !of c.team || !c.started || c.complete)

/-- Notes the slices of a halting partition that have halted by now (R378, R381). -/
def State.notePart (s : State) (part : Nat) (p : Part) : Part :=
  if p.state != 2 || p.haltedAt.isSome then p
  else
    let still := (s.haltSlices part).filter (fun k => p.drained.all (·.1 != k))
    let done := still.filter (fun k => s.teamsHalted ((s.partTeams part).filter (fun t => 8 * t.die + sliceOfCore t.core == k)))
    { p with drained := p.drained ++ done.map (fun k => (k, s.time)) }

/-- Notes that a recalled slice has drained by now (R383). -/
def State.noteLoan (s : State) (l : Loan) : Loan :=
  if l.recallAt.isSome && l.drainedAt.isNone && s.teamsHalted (s.loanTeams l) then { l with drainedAt := some s.time } else l

/-- What has halted by now is noted before time goes on (R381, R383). -/
def State.noteHalts (s : State) : State :=
  { s with parts := s.parts.map (fun e => (e.1, s.notePart e.1 e.2)), sys := { s.sys with loans := s.sys.loans.map s.noteLoan } }

/-- The moments by which the firmware has acted: a swap-out ends within 16 µs of its halt (R379), and a recalled slice returns
by c + 250 µs, or where its drain passes c + 234 µs within 16 µs of that (R383); where a vault unit must be reserved for it, only
while one is free (log 33).  In a thermal stop nothing is swapped out (R408). -/
def State.deadlines (s : State) : List Nat :=
  let runs := s.sys.heat = .run
  let room := runs && (List.range 32).any s.unitFree
  s.parts.filterMap (fun e => if runs && ((e.2.state = 2 && room) || e.2.state = 3) && !e.2.thermal then (s.haltTime e.1).map (· + 16000) else none)
    ++ s.sys.loans.filterMap (fun l => match l.recallAt, l.drainedAt with
      | some c, some d => if room || (s.loanTeams l).isEmpty then some (max (c + 250000) (d + 16000)) else none
      | _, _ => none)

/-- Time passes, though not beyond a deadline that the firmware has still to meet (log 4). -/
def State.passTime (s : State) (ns : Nat) : State :=
  let n := s.noteHalts
  let stop := n.deadlines.foldl (fun t d => min t (max s.time d)) (s.time + ns)
  { n with time := stop % 2 ^ 64 }

/-- The next nanosecond. -/
def State.tick (s : State) : State := s.passTime 1

/-- The leaf entries that hold the class of a page at some places: those of the functions' tables, and those cached (R224,
R282). -/
def State.classEntries (s : State) (key n : Nat) : List Nat :=
  let cached := s.tlb.filter (fun e => meets (memKey e.leaf.mt e.leaf.pa / 2 ^ e.leaf.bits * 2 ^ e.leaf.bits, 2 ^ e.leaf.bits) (key, n))
  (s.entriesIn (key, n) ++ cached.map (·.leaf.entry)).eraseDups

/-- Why a fragment of a context has not issued. -/
def Ctx.stallOf (c : Ctx) (k : Nat) : Option Stall := if c.fsel = k then c.stall else (c.frags.getD k none).bind (·.stall)

/-- A requester still waits for what walks have answered it: a fragment that has not gone on since, a fill, a copy, a collective, or a
prefetch's lane.  One that has made a page request, or waits for a gather, tries a new walk after it (R287). -/
def State.awaits (s : State) (who : Nat) : Bool :=
  let n := who / 16
  match who % 16 with
  | 8 => s.ops.any (·.id == n)
  | 9 => s.quads.any (fun q => q.2.fills.any (fun f => f.op = 0 && f.team == n))
  | 10 => s.colls.any (·.id == n)
  | 11 => s.prefs.any (·.miss.who == who)
  | k =>
    match (s.ctx n).bind (·.stallOf k) with
    | none | some (.request _ _) | some (.gather _) => false
    | some _ => true

/-- What walks have answered those that have gone on is not kept, nor what a `launch` has read that has issued or trapped. -/
def State.sweep (s : State) : State :=
  let reading := fun (o : Op) => match o.kind with
    | .reads k => ((s.ctx o.uid).bind (·.stallOf k)).isSome
    | _ => true
  { s with walked := s.walked.filter (fun r => s.awaits r.miss.who), ops := s.ops.filter reading }

/-- What any turn may bring about besides: prefetches and membership operations whose answers have come go on, barriers complete and
collectives start (R144, R212, R352, R358). -/
def State.follow (s : State) : State := s.prefsGo.membersGo.openBars.startColls.sweep

/-- What a turn does, before what follows from it.  Time passes by `advance`; an event that is not of a message on its way takes a nanosecond, and other
turns fall into the nanosecond to which the list has come (log 4).  A store of no bytes is a read through the host port. -/
def State.turn (s : State) (t : Turn) : Out :=
  Out.onNext State.follow (match t with
  | .event i args => if isAgentEvent i then exec i { (if isMessage i then s else s.tick) with args } else .next s
  | .pipe die core pipe want => s.pipeTurn die core pipe want
  | .thread uid =>
    let s := s.focus uid
    if s.cur.uid == uid && s.cur.kind = .thread then s.issueTurn 3 else .next s
  | .advance ns => .next (s.passTime ns)
  | .store entry key bytes =>
    let s := (entry.toList ++ s.classEntries key (max 1 bytes.length)).eraseDups.foldl State.entryTouch s
    .next (if bytes.isEmpty then s else (s.homeWrite key bytes none).1))

/-- The context after one among all of them, in the order of their names, the first after the last. -/
def State.nextUid (s : State) (uid : Nat) : Nat :=
  let us := s.ctxs.map (·.uid)
  let least := fun (l : List Nat) => l.foldl (fun (b : Option Nat) u => match b with | none => some u | some v => some (min u v)) none
  ((least (us.filter (uid < ·))).getD ((least us).getD uid))

/-- A dispatcher has something to place: a cluster to place again, or a TCB in a queue of the partition (R371, R380). -/
def State.placing (s : State) (part : Nat) : Bool :=
  s.partRuns part && (s.queues.any (fun q => q.2.part == part && !q.2.fifo.isEmpty) || s.grids.any (fun g => g.part == part && !g.again.isEmpty))

/-- Every dispatcher places its next cluster where that fits (R371, R373). -/
def State.placeDue (s : State) : State :=
  (s.parts.map (·.1)).foldl (fun s p =>
    if s.placing p then
      match execClusterPlace { s with args := { s.args with x := p } } with
      | .next t => { t with args := s.args }
      | _ => s
    else s) s

/-- What moves where the turn list is empty: the pipe of the context that issues, or its thread, takes a turn; then come
what follows from it, and the dispatchers' placing of what fits, and the next context is the one that issues (R373; log 3). -/
def State.ownTurn (s : State) : Out :=
  let c := s.cur
  (match c.kind with
   | .thread => s.issueTurn 3
   | .group => s.pipeTurn c.loc.die c.loc.core c.loc.pipe c.fsel).onNext (fun t =>
     let t := t.follow.placeDue
     t.focus (t.nextUid c.uid))

end Sys2Proof.Machine
end

