-- ==== Sys2Proof/Machine/Step.lean ====
section
/-! DEFINITION. One step of the package, and an instruction placed where the next step fetches it (log 5). -/

namespace Sys2Proof.Machine

/-- One step: the head of the turn list moves, or, where the list is empty, the pipe or thread of the context that issues
(log 3); the latter takes a nanosecond (log 4).  `State.tick` also notes what has halted by then (R381). -/
def step (s : State) : Host.Outcome State Fault Refusal :=
  match s.turns with
  | [] => s.tick.ownTurn
  | t :: ts => State.turn { s with turns := ts } t

/-- The context that issues, standing before an open clause that holds some words: a context that stands nowhere yet
becomes one with all its lanes in one fragment. -/
def Ctx.withWords (c : Ctx) (ws : List Word) (cls : Nat) (may : Bool) : Ctx :=
  let frags := if (c.frags.getD c.fsel none).isSome then c.frags
    else ((List.replicate 8 (none : Option Frag)).set c.fsel (some { fmask := 0xFFFFFFFF, amask := 0xFFFFFFFF }))
  let joins := if c.joins.length = 8 then c.joins else List.replicate 8 none
  let kind := if cls = 5 then Kind.thread else if c.kind = .thread && may then .thread else .group
  let c := { c with uid := if c.uid = 0 then 1 else c.uid, kind, frags, joins, halted := false, ended := false, stall := none }
  { c with clause := { isOpen := true, hdr := c.frag.pc, count := ws.length, cls, words := ws, splitv := c.splitvNow } }

/-- The state with an instruction of the opcode table in the open clause of the context that issues, so that the next
step runs it (log 5). -/
def State.withFetchWord (s : State) (nbits w : Nat) : State :=
  let ws := tableWords nbits w
  let w0 := ws.headD 0
  let ws := ws.take (measure w0 (ws.getD 1 0))
  let (cls, may) := match decode ws with
    | .ok i _ => (i.shape.cls, threadMay (bits w0 31 24) i)
    | .err _ => (0, true)
  { s with cur := s.cur.withWords ws cls may, turns := [], uids := max s.uids 1 }

end Sys2Proof.Machine
end

