-- ==== Sys2Proof/Safety.lean ====
section
/-! DEFINITION. What claims call a safe state and a safe run. -/

namespace Sys2Proof

/-- A state is sound when its memory has its canonical form, so that equal memories are equal data (log 2). -/
def Sound (s : Machine.State) : Prop := Machine.Memory.wf s.mem = true

/-- A run of `k` steps that meets neither a fault nor a refusal. -/
def SafeRun (k : Nat) (s : Machine.State) : Prop := ∃ t, core.run k s = .next t

end Sys2Proof
end

