-- ==== Sys2Proof/Claims.lean ====
section
/-! DEFINITION. The predicates that statements are written in: what an instruction reads, what its result is, and what it
leaves alone. -/

namespace Sys2Proof.Claims

open Sys2Proof.Machine

/-! ### What an instruction reads, and what it leaves alone -/

/-- The operands of an instruction pass the checks of orders 2 and 3 of R62. -/
def Reads (i : Instr) (s : State) : Prop := ∀ n, i.enc = some n → s.cur.checkOperands i.shape n = none

/-- The context as the operands of an instruction are read in it: with the sample of R48 taken where `ptime` is read. -/
def view (i : Instr) (s : State) : Ctx :=
  match i.enc with
  | some n => s.cur.touch s.time i.shape n
  | none => s.cur

/-- Nothing of the package changes but the issuing context: no byte of memory, no cache, no team, no other context. -/
def OnlyCtx (s t : State) : Prop := t = { s with cur := t.cur }

/-- Nothing of a context changes but general registers, MODE, the `ptime` sample, and where it stands in its program. -/
def KeepsCtx (c d : Ctx) : Prop :=
  d = { c with v := d.v, s := d.s, p := d.p, mode := d.mode, sample := d.sample, frags := d.frags, joins := d.joins,
               clause := d.clause, recipe := d.recipe, yielded := d.yielded, stall := none }

/-! ### Joins (R24, R25) -/

/-- What becomes of the split table once the fragment of a slot stands at its next address (R24): it stays, where it has no join or
is not at its join's JADDR; it parks, its lanes noted in the record; or, the last to arrive, it completes the join, and the joined
fragment, in the lowest free slot, may itself have come to its own join. -/
inductive Settles : List (Option Frag) → List (Option Join) → Nat → List (Option Frag) → List (Option Join) → Prop
  | gone (fr : List (Option Frag)) (jo : List (Option Join)) (k : Nat) (h : fr.getD k none = none) : Settles fr jo k fr jo
  | stays (fr : List (Option Frag)) (jo : List (Option Join)) (k : Nat) (f : Frag) (h : fr.getD k none = some f)
      (h' : ∀ j r, f.join = some j → jo.getD j none = some r → f.pc ≠ r.jaddr) : Settles fr jo k fr jo
  | parks (fr : List (Option Frag)) (jo : List (Option Join)) (k j : Nat) (f : Frag) (r : Join) (h : fr.getD k none = some f)
      (hj : f.join = some j) (hr : jo.getD j none = some r) (hp : f.pc = r.jaddr) (hm : (r.jarr ||| f.fmask) ≠ r.jmask) :
      Settles fr jo k (fr.set k none) (jo.set j (some { r with jarr := r.jarr ||| f.fmask, jexm := r.jexm ||| f.amask }))
  | joins (fr fr' : List (Option Frag)) (jo jo' : List (Option Join)) (k j k' : Nat) (f : Frag) (r : Join)
      (h : fr.getD k none = some f) (hj : f.join = some j) (hr : jo.getD j none = some r) (hp : f.pc = r.jaddr)
      (hm : (r.jarr ||| f.fmask) = r.jmask) (hk : lowestFree (fr.set k none) = some k')
      (rest : Settles ((fr.set k none).set k'
          (some { pc := r.jaddr, fmask := r.jmask, amask := r.jexm ||| f.amask, join := r.jparent })) (jo.set j none) k' fr' jo') :
      Settles fr jo k fr' jo'

/-- Where a fragment that goes to an address goes on: at RESUME past the last word of a recipe, which is then over (R172). -/
def goesTo (c : Ctx) (pc : Word64) : Word64 × Option RecipeRun :=
  match c.recipe with
  | some r => if pc = r.stop then (r.resume, none) else (pc, some r)
  | none => (pc, none)

/-- The issuing fragment of `c` has come to an address, and parks where its join is (R24). -/
def Lands (c d : Ctx) (pc : Word64) : Prop :=
  d.recipe = (goesTo c pc).2 ∧
  (c.joins.length ≤ 8 →
    Settles (c.frags.set c.fsel (some { c.frag with pc := (goesTo c pc).1 })) c.joins c.fsel d.frags d.joins)

/-- The fragments once lanes have left the group: one left with no member frees its slot (R25). -/
def cutFrags (m : Word) (fr : List (Option Frag)) : List (Option Frag) :=
  fr.map (fun o => match o with
    | none => none
    | some f => if f.fmask &&& ~~~m = 0 then none else some { f with fmask := f.fmask &&& ~~~m, amask := f.amask &&& ~~~m })

/-- The join records once lanes have left the group: one whose JMASK becomes 0 is freed (R25). -/
def cutJoins (m : Word) (jo : List (Option Join)) : List (Option Join) :=
  jo.map (fun o => match o with
    | none => none
    | some r => if r.jmask &&& ~~~m = 0 then none
        else some { r with jmask := r.jmask &&& ~~~m, jarr := r.jarr &&& ~~~m, jexm := r.jexm &&& ~~~m })

/-- The split table after lanes have left it (R25): no record completes, or one does and its fragment is formed as R24 says. -/
def Left (m : Word) (fr : List (Option Frag)) (jo : List (Option Join)) (fr' : List (Option Frag)) (jo' : List (Option Join)) : Prop :=
  let f0 := cutFrags m fr
  let j0 := cutJoins m jo
  ((∀ r, some r ∈ j0 → r.jarr ≠ r.jmask) → fr' = f0 ∧ jo' = j0) ∧
  (∀ (j k : Nat) (r : Join), j0.getD j none = some r → r.jarr = r.jmask →
    (∀ i q, i ≠ j → j0.getD i none = some q → q.jarr ≠ q.jmask) → lowestFree f0 = some k →
    Settles (f0.set k (some { pc := r.jaddr, fmask := r.jmask, amask := r.jexm, join := r.jparent })) (j0.set j none) k fr' jo')

/-- A context has moved past an instruction of `n` words with a latch result: inside a clause the window takes the result
(R31); at its end the clause is over and the fragment goes on at the next header (R40), where it may park (R24). -/
def Passed (c d : Ctx) (n : Nat) (r : Option (List Word)) : Prop :=
  (c.clause.pos + n < c.clause.count →
    d.clause = { c.clause with pos := c.clause.pos + n, win := (r :: c.clause.win).take 8 } ∧
    d.frags = c.frags ∧ d.joins = c.joins ∧ d.recipe = c.recipe ∧ d.yielded = c.yielded) ∧
  (c.clause.count ≤ c.clause.pos + n →
    d.clause = {} ∧ d.yielded = c.clause.yieldHint ∧ Lands c d c.nextHdr ∧ (c.recipe = none → c.frag.join = none →
      d.frags = c.frags.set c.fsel (some { c.frag with pc := c.nextHdr }) ∧ d.joins = c.joins ∧ d.recipe = none))

/-- The vector registers after a result `f` in the lanes `m` of register `r`, and no other change. -/
def VecWritten (c d : Ctx) (write : Bool) (r : Nat) (m : Word) (f : Nat → Word) : Prop :=
  ∀ q j, j < 32 → d.vreg q j = if write = true ∧ q = r ∧ m.getLsbD j = true then f j else c.vreg q j

/-- A lane-wise instruction with a 32-bit vector result (R21, R31, R32): `f` in the enabled lanes of the destination,
unless NOWB; the sticky flags `fl`; and nothing else. -/
def VecDone (i : Instr) (w : Core) (m : Word) (f : Nat → Word) (fl : Word) (s t : State) : Prop :=
  KeepsCtx s.cur t.cur ∧ t.cur.s = s.cur.s ∧ t.cur.p = s.cur.p ∧ t.cur.sample = (view i s).sample ∧
  t.cur.mode = s.cur.mode ||| fl ∧ VecWritten s.cur t.cur (!w.nowb) w.dst.toNat m f ∧
  Passed s.cur t.cur i.size (some (vecOf (fun j => if m.getLsbD j then f j else s.cur.vreg w.dst.toNat j)))

/-- The same with a 64-bit result in an even pair, whose low word the latch holds (R28, R31). -/
def Vec64Done (i : Instr) (w : Core) (m : Word) (f : Nat → Word64) (fl : Word) (s t : State) : Prop :=
  KeepsCtx s.cur t.cur ∧ t.cur.s = s.cur.s ∧ t.cur.p = s.cur.p ∧ t.cur.sample = (view i s).sample ∧
  t.cur.mode = s.cur.mode ||| fl ∧
  (∀ q j, j < 32 → t.cur.vreg q j =
    if w.nowb = false ∧ q = w.dst.toNat ∧ m.getLsbD j = true then (f j).setWidth 32
    else if w.nowb = false ∧ q = w.dst.toNat + 1 ∧ m.getLsbD j = true then ((f j) >>> 32).setWidth 32
    else s.cur.vreg q j) ∧
  Passed s.cur t.cur i.size
    (some (vecOf (fun j => if m.getLsbD j then (f j).setWidth 32 else s.cur.vreg w.dst.toNat j)))

/-- An instruction with a predicate result: writes to p0 are discarded, and the latch holds the outcome (R21, R31). -/
def PredDone (i : Instr) (w : Core) (m : Word) (f : Nat → Bool) (fl : Word) (s t : State) : Prop :=
  KeepsCtx s.cur t.cur ∧ t.cur.s = s.cur.s ∧ t.cur.v = s.cur.v ∧ t.cur.sample = (view i s).sample ∧
  t.cur.mode = s.cur.mode ||| fl ∧
  (∀ q j, j < 32 → (t.cur.preg q).getLsbD j =
    if w.nowb = false ∧ q = w.dst.toNat ∧ q ≠ 0 ∧ m.getLsbD j = true then f j else (s.cur.preg q).getLsbD j) ∧
  Passed s.cur t.cur i.size
    (some (vecOf (fun j => if (if m.getLsbD j then f j else (s.cur.preg w.dst.toNat).getLsbD j) then 1 else 0)))

/-- A group-uniform instruction with a 32-bit scalar result, which the latch holds in every lane. -/
def ScalDone (i : Instr) (w : Core) (x fl : Word) (s t : State) : Prop :=
  KeepsCtx s.cur t.cur ∧ t.cur.v = s.cur.v ∧ t.cur.p = s.cur.p ∧ t.cur.sample = (view i s).sample ∧
  t.cur.mode = s.cur.mode ||| fl ∧
  (∀ q, t.cur.sreg q = if w.nowb = false ∧ q = w.dst.toNat then x else s.cur.sreg q) ∧
  Passed s.cur t.cur i.size (some (vecOf (fun _ => x)))

/-- The same with a 64-bit scalar result in an even pair. -/
def Scal64Done (i : Instr) (w : Core) (x : Word64) (s t : State) : Prop :=
  KeepsCtx s.cur t.cur ∧ t.cur.v = s.cur.v ∧ t.cur.p = s.cur.p ∧ t.cur.sample = (view i s).sample ∧
  t.cur.mode = s.cur.mode ∧
  (∀ q, t.cur.sreg q = if w.nowb = false ∧ q = w.dst.toNat then x.setWidth 32
    else if w.nowb = false ∧ q = w.dst.toNat + 1 then (x >>> 32).setWidth 32 else s.cur.sreg q) ∧
  Passed s.cur t.cur i.size (some (vecOf (fun _ => x.setWidth 32)))

/-- The lanes in which a lane-wise instruction has its effect (R21). -/
def on (i : Instr) (x : Long) (s : State) : Word := (view i s).enabledM x.m

/-! ### Integer operations, from the tables of R97 and R98 -/

/-- The short forms of R97, R98 and R102 with the 32-bit result of A and B. -/
def shortTable : List ((Short → Instr) × (Word → Word → Word)) :=
  [(.iadd, fun a b => a + b), (.isub, fun a b => a - b), (.imul, fun a b => a * b),
   (.imulh, fun a b => BitVec.ofInt 32 (a.toInt * b.toInt / 2 ^ 32)),
   (.imin, fun a b => if a.toInt ≤ b.toInt then a else b), (.imax, fun a b => if a.toInt ≤ b.toInt then b else a),
   (.iabs, fun a _ => if a.toInt < 0 then -a else a), (.ineg, fun a _ => -a),
   (.and, fun a b => a &&& b), (.or, fun a b => a ||| b), (.xor, fun a b => a ^^^ b), (.not, fun a _ => ~~~a),
   (.shl, fun a b => if b.toNat % 256 < 32 then a <<< (b.toNat % 256) else 0),
   (.shr, fun a b => if b.toNat % 256 < 32 then a >>> (b.toNat % 256) else 0),
   (.sar, fun a b => a.sshiftRight (b.toNat % 256)), (.rotl, fun a b => a.rotateLeft (b.toNat % 32)),
   (.popc, fun a _ => BitVec.ofNat 32 ((List.range 32).countP (fun k => a.getLsbD k))),
   (.clz, fun a _ => BitVec.ofNat 32 ((List.range 32).takeWhile (fun k => !a.getLsbD (31 - k))).length),
   (.brev, fun a _ => a.reverse), (.mov, fun a _ => a)]

/-- The long forms of R98. -/
def bitTable : List ((Long → Instr) × (Word → Word → Word)) :=
  [(.andLong, fun a b => a &&& b), (.orLong, fun a b => a ||| b), (.xorLong, fun a b => a ^^^ b),
   (.notLong, fun a _ => ~~~a),
   (.shlLong, fun a b => if b.toNat % 256 < 32 then a <<< (b.toNat % 256) else 0),
   (.shrLong, fun a b => if b.toNat % 256 < 32 then a >>> (b.toNat % 256) else 0),
   (.sarLong, fun a b => a.sshiftRight (b.toNat % 256)), (.rotlLong, fun a b => a.rotateLeft (b.toNat % 32)),
   (.popcLong, fun a _ => BitVec.ofNat 32 ((List.range 32).countP (fun k => a.getLsbD k))),
   (.clzLong, fun a _ => BitVec.ofNat 32 ((List.range 32).takeWhile (fun k => !a.getLsbD (31 - k))).length),
   (.brevLong, fun a _ => a.reverse)]

/-- The long forms of R97 with the exact value of A, B and C. -/
def exactTable : List ((Long → Instr) × (Int → Int → Int → Int)) :=
  [(.iaddLong, fun a b _ => a + b), (.isubLong, fun a b _ => a - b), (.imulLong, fun a b _ => a * b),
   (.imulhLong, fun a b _ => a * b / 2 ^ 32), (.imad, fun a b c => a * b + c), (.iminLong, fun a b _ => min a b),
   (.imaxLong, fun a b _ => max a b), (.iabsLong, fun a _ _ => if a < 0 then -a else a), (.inegLong, fun a _ _ => -a)]

/-- A word as TY reads it: unsigned for n32, else signed (R97). -/
def intOf (t : Ty) (x : Word) : Int := if t = .n32 then x.toNat else x.toInt

/-- The least and greatest value of TY. -/
def tyMin (t : Ty) : Int := if t = .n32 then 0 else -2 ^ 31
def tyMax (t : Ty) : Int := if t = .n32 then 2 ^ 32 - 1 else 2 ^ 31 - 1

/-- The result of an exact value: clamped where SAT is set and it is out of range, else modulo 2^32 (R97, R105). -/
def clampOr (t : Ty) (sat : Bool) (x : Int) : Word :=
  if sat = true ∧ x < tyMin t then BitVec.ofInt 32 (tyMin t)
  else if sat = true ∧ tyMax t < x then BitVec.ofInt 32 (tyMax t) else BitVec.ofInt 32 x

/-- SA where SAT clamps in an enabled lane (R97). -/
def satFlag (t : Ty) (sat : Bool) (m : Word) (x : Nat → Int) : Word :=
  if sat && (List.range 32).any (fun j => m.getLsbD j && (x j < tyMin t || tyMax t < x j)) then fSA else 0

/-- The exact total of a dot product (R105): elements of `b` bits, A signed by `sa` and B by `sb`, added to C. -/
def dotTotal (b k : Nat) (sa sb : Bool) (x y : Word) (c : Int) : Int :=
  let el := fun (sg : Bool) (w : Word) (e : Nat) =>
    let u := w.toNat / 2 ^ (b * e) % 2 ^ b
    if sg = true ∧ 2 ^ (b - 1) ≤ u then (u : Int) - 2 ^ b else u
  (List.range k).foldl (fun t e => t + el sa x e * el sb y e) c

/-! ### Floating results (R79 to R86, R106) -/

/-- The generator's key of a context's pipe (R84). -/
def ownGen (s : State) : Nat := genKey s.cur.loc s.cur.loc.pipe

/-- The draw of a lane and element where the stochastic mode rounds: from the pipe's generator, or from the neighbours'
discarded bits, where a lane that does not round discards 0 (R84, R86). -/
def drawOf (s : State) (m : Word) (pend : Nat → List Pend) (j e : Nat) : Nat :=
  let disc := fun k => if m.getLsbD k then word (((pend k).getD e (.done ⟨0, 0, 0⟩)).disc) else 0
  if modeSrsrc s.cur.mode then drawHash s.cur.mode (disc ((j + 31) % 32)) (disc ((j + 1) % 32)) j
  else drawGen s.cur.mode (genNext (s.gen (ownGen s))).2 j e

/-- The generators after an issue: a stochastic one with an enabled lane steps its pipe's, unless the draws are hashed. -/
def gensAfter (s : State) (m : Word) (rnd : Rnd) : Cells Word64 :=
  if rnd = .sr ∧ m ≠ 0 ∧ modeSrsrc s.cur.mode = false then (s.setGen (ownGen s) (genNext (s.gen (ownGen s))).1).gens
  else s.gens

/-- A lane-wise floating instruction: each element of an enabled lane is its pending value finished in the rounding mode,
the flags of the enabled lanes join MODE, and nothing changes but the issuing context and its pipe's generator. -/
def FloatDone (i : Instr) (x : Long) (wide : Bool) (rnd : Rnd) (pend : Nat → List Pend) (join : Nat → List Nat → Nat)
    (s t : State) : Prop :=
  let m := on i x s
  let res := fun j => (pend j).zipIdx.map (fun p => p.1.finish rnd (if rnd = .sr then drawOf s m pend j p.2 else 0))
  let code := fun j => join j ((res j).map (·.code))
  let fl := joinFlags ((lanesOf m).map (fun j => joinFlags ((res j).map (·.flags))))
  t = { s with cur := t.cur, gens := gensAfter s m rnd } ∧
  (wide = true → Vec64Done i x.w m (fun j => word64 (code j)) fl s t) ∧
  (wide = false → VecDone i x.w m (fun j => word (code j)) fl s t)

/-- The elements of A, B and C in a lane: one, or two of 16 bits (R74). -/
def elements (i : Instr) (x : Long) (s : State) (j : Nat) : List (Nat × Nat × Nat) :=
  let c := view i s
  (elems x.m.ty (c.opA x j)).zip ((elems x.m.ty (c.opB x j)).zip (elems x.m.ty (c.opC x j)))

/-- An instruction whose elements are computed one by one. -/
def ElemDone (i : Instr) (x : Long) (stochastic : Bool) (g : Fmt → Bool → Nat → Nat → Nat → Pend) (s t : State) : Prop :=
  let rnd := effRnd s.cur.mode stochastic x.m.rnd
  FloatDone i x false rnd
    (fun j => (elements i x s j).map (fun e => g (fmtOf x.m.ty) (decide (rnd = .rdn)) e.1 e.2.1 e.2.2))
    (fun _ => joinElems) s t

/-- The long and short forms of R106 with their exact value. -/
def floatLong : List ((Long → Instr) × (Bool → Exact → Exact → Exact → Exact)) :=
  [(.faddLong, fun rdn a b _ => a.add rdn b), (.fsubLong, fun rdn a b _ => a.add rdn b.neg),
   (.fmulLong, fun _ a b _ => a.mul b), (.ffma, fun rdn a b c => (a.mul b).add rdn c)]
def floatShort : List ((Short → Instr) × (Bool → Exact → Exact → Exact → Exact)) :=
  [(.fadd, fun rdn a b _ => a.add rdn b), (.fsub, fun rdn a b _ => a.add rdn b.neg), (.fmul, fun _ a b _ => a.mul b)]

/-- The special functions (R112). -/
def specialShort : List ((Short → Instr) × (Nat → Rounded)) :=
  [(.frcp, fnRcp), (.frsq, fnRsq), (.fexp2, fnExp2), (.flog2, fnLog2), (.fsin, fnSin), (.fcos, fnCos), (.ftanh, fnTanh)]
def specialLong : List ((Long → Instr) × (Nat → Rounded)) :=
  [(.frcpLong, fnRcp), (.frsqLong, fnRsq), (.fexp2Long, fnExp2), (.flog2Long, fnLog2), (.fsinLong, fnSin),
   (.fcosLong, fnCos), (.ftanhLong, fnTanh)]

/-- A finite outcome as a rational number. -/
def valueOf : Exact → Rat
  | .real neg n d => (if neg then -1 else 1) * (n : Rat) / d
  | _ => 0

/-- A finite outcome with a denominator. -/
def finite : Exact → Bool
  | .zero _ => true
  | .real _ n d => n != 0 && d != 0
  | _ => false

/-- The value of a finite code of `eb` exponent and `mb` mantissa bits (R71, R72). -/
def codeValue (eb mb code : Nat) : Rat :=
  let e := code / 2 ^ mb % 2 ^ eb
  let m : Rat := (code % 2 ^ mb : Nat) / 2 ^ mb
  (if code / 2 ^ (eb + mb) % 2 = 1 then -1 else 1) * (if e = 0 then m * 2 else (1 + m) * 2 ^ e) / 2 ^ (2 ^ (eb - 1) - 1)

/-- A code of an element format of a matrix operand, by its KIND (R90), has this value: E4M3, E5M2, I8 or I4 (R72, R75, R318). -/
def ElementIs (kind code : Nat) (v : Exact) : Prop :=
  if kind = 5 then finite v = true ∧ valueOf v = (BitVec.ofNat 8 code).toInt
  else if kind = 6 then finite v = true ∧ valueOf v = (BitVec.ofNat 4 code).toInt
  else if kind = 3 ∨ kind = 9 then
    (code = 0x80 → v = .nan false) ∧ (code ≠ 0x80 → finite v = true ∧ valueOf v = codeValue 4 3 code)
  else
    (code / 4 % 32 = 31 → v = if code % 4 = 0 then .inf (decide (128 ≤ code)) else .nan false) ∧
    (code / 4 % 32 ≠ 31 → finite v = true ∧ valueOf v = codeValue 5 2 code)

/-- A code of a matrix operand has this value under the scale and the zero point of its group (R76 to R78, R318). -/
def OperandIs (kind code scale zp : Nat) (v : Exact) : Prop :=
  if kind = 7 ∨ kind = 8 then
    (scale / 1024 % 32 = 31 → v = .nan false) ∧
    (scale / 1024 % 32 ≠ 31 → finite v = true ∧
      valueOf v = codeValue 5 10 scale * ((code : Rat) - (if kind = 8 then zp % 16 else zp : Nat)))
  else if kind = 9 ∨ kind = 10 then
    (scale % 256 = 255 → v = .nan false) ∧
    (scale % 256 ≠ 255 → ∃ u, ElementIs kind code u ∧ (finite u = false → v = u) ∧
      (finite u = true → finite v = true ∧ valueOf v = valueOf u * 2 ^ (scale % 256) / 2 ^ 127))
  else ElementIs kind code v

/-- An FP32 sum rounded once, and its flags (R106). -/
def sumOf (rnd : Rnd) (x y : Nat) : Nat × Word :=
  let r := fp32.round rnd false 0 ((fp32.read x).exact.add (decide (rnd = .rdn)) (fp32.read y).exact)
  (r.code, r.flags)

/-- An FP32 value passed unrounded: a NaN becomes the canonical one, with IV if it was signalling (R73). -/
def passed (x : Nat) : Nat × Word :=
  if (fp32.read x).isNan then (0x7FC00000, if (fp32.read x).isSnan then fIV else 0) else (x, 0)

/-- Node `k` of a level of the tree over the 32 leaves of `radd.f32`, with the flags below it; none where it is empty (R122). -/
def treeNode (rnd : Rnd) (m : Word) (a : Nat → Word) : Nat → Nat → Option (Nat × Word)
  | 0, k => if m.getLsbD k then some ((a k).toNat, 0) else none
  | n + 1, k =>
    match treeNode rnd m a n (2 * k), treeNode rnd m a n (2 * k + 1) with
    | some x, some y => some ((sumOf rnd x.1 y.1).1, x.2 ||| y.2 ||| (sumOf rnd x.1 y.1).2)
    | some x, none => some ((passed x.1).1, x.2 ||| (passed x.1).2)
    | none, some y => some ((passed y.1).1, y.2 ||| (passed y.1).2)
    | none, none => none

/-- A group present in the cluster of a context (R125). -/
def Present (s : State) (c d : Ctx) : Prop :=
  d ∈ s.ctxs ∧ d.kind = .group ∧ d.ended = false ∧ (s.team d.team).part = (s.team c.team).part ∧
  (s.team d.team).tcb = (s.team c.team).tcb ∧ (s.team d.team).clusid = (s.team c.team).clusid

/-- A group stands before another in the chain: by `teamid`, then by `grpid` (R125). -/
def Earlier (c d : Ctx) : Prop := c.teamid < d.teamid ∨ (c.teamid = d.teamid ∧ c.grpid < d.grpid)

/-- The magnitude of a rational number. -/
def mag (x : Rat) : Rat := if 0 ≤ x then x else -x

/-- `k` is what a value rounds to on the integer grid (R79). -/
def IntRound (rnd : Rnd) (draw : Nat) (x : Rat) (k : Int) : Prop :=
  let far := mag (k - x)
  far < 1 ∧ (k ≠ 0 → (0 < k ↔ 0 < x)) ∧
  (rnd = .rne → 2 * far ≤ 1 ∧ (2 * far = 1 → k % 2 = 0)) ∧
  (rnd = .rna → 2 * far ≤ 1 ∧ (2 * far = 1 → mag x < mag k)) ∧
  (rnd = .rtz → mag k ≤ mag x) ∧ (rnd = .rup → x ≤ k) ∧ (rnd = .rdn → (k : Rat) ≤ x) ∧
  (rnd = .sr → (mag x < mag k ↔ (draw : Int) < ((mag x - (mag x).floor) * 2 ^ 32).floor))

/-- The class of a code by its fields, as a bit number (R110). -/
def classByFields (f : Fmt) (code : Nat) : Nat :=
  let e := code / 2 ^ f.mbits % 2 ^ f.ebits
  let m := code % 2 ^ f.mbits
  let neg := code / 2 ^ (f.mbits + f.ebits) % 2 = 1
  if e = 2 ^ f.ebits - 1 then
    if m = 0 then (if neg then 0 else 7) else if m < 2 ^ (f.mbits - 1) then 8 else 9
  else if e = 0 then
    if m = 0 then (if neg then 3 else 4) else if neg then 2 else 5
  else if neg then 1 else 6

/-- A byte of a number. -/
def byteOf (x k : Nat) : Nat := x / 256 ^ k % 256

/-- The formats of R71. -/
def formats : List Fmt := [fp32, fp16, bf16, fE4M3, fE5M2]

/-! ### Instructions without a register result, and operations begun -/

/-- An instruction that leaves every register alone and only moves on. -/
def Quiet (i : Instr) (s t : State) : Prop :=
  KeepsCtx s.cur t.cur ∧ t.cur.v = s.cur.v ∧ t.cur.s = s.cur.s ∧ t.cur.p = s.cur.p ∧ t.cur.mode = s.cur.mode ∧
  t.cur.sample = (view i s).sample ∧ Passed s.cur t.cur i.size none

/-- The issuing context after it began an operation counted on `ctr` (R136): the counter rises by one, flags join MODE, and
the context moves on; no general register changes. -/
def Began (i : Instr) (ctr : Nat) (fl : Word) (s t : State) : Prop :=
  t.cur = { s.cur with ctr := Cells.set 0 s.cur.ctr ctr (s.cur.counter ctr + 1), mode := s.cur.mode ||| fl,
                       sample := (view i s).sample, failed := t.cur.failed, frags := t.cur.frags, joins := t.cur.joins,
                       clause := t.cur.clause, recipe := t.cur.recipe, yielded := t.cur.yielded, stall := none } ∧
  Passed s.cur t.cur i.size none

/-- The operation that an issue added last. -/
def LastOp (s t : State) (o : Op) : Prop :=
  t.ops.length = s.ops.length + 1 ∧ t.ops.getLast? = some o ∧ o.uid = s.cur.uid ∧ o.team = s.cur.team ∧
  o.die = s.cur.loc.die ∧ o.core = s.cur.loc.core ∧ o.counted = true ∧ o.lease = modeLease s.cur.mode ∧ o.done = false

/-- The enabled lanes of a memory instruction (R21). -/
def onD (i : Instr) (x : Mem) (s : State) : Word := (view i s).enabledD x.d

/-- What one lane-wise access of global memory is (R139, R241, R246, R247). -/
structure GRow where
  form : Mem → Instr
  ctr : Nat
  len : Mem → Nat
  want : Want
  kind : Mem → OpKind
  act : Mem → Ctx → Nat → Act
  data : Mem → Ctx → Nat → List Byte
  cmp : Mem → Ctx → Nat → List Byte
  flags : Mem → Ctx → Nat → Word
  aligned : Mem → Word64 → Bool
  late : State → Mem → Ctx → Nat → Leaf → Bool

def noBytes (_ : Mem) (_ : Ctx) (_ : Nat) : List Byte := []
def noFlags (_ : Mem) (_ : Ctx) (_ : Nat) : Word := 0
def toWidth (x : Mem) (a : Word64) : Bool := a.toNat % widthBytes x.d.width == 0
def noLate (_ : State) (_ : Mem) (_ : Ctx) (_ : Nat) (_ : Leaf) : Bool := true

/-- Order 10 for an atomic that is not `abin`: no binned page, and host memory only where HOSTATT lets it (R261, R263). -/
def atomLate (wide : Bool) (s : State) (_ : Mem) (_ : Ctx) (_ : Nat) (l : Leaf) : Bool :=
  l.gps != 4 && (l.mt != 2 || (s.sys.hostatt % 2 == 1 && (!wide || s.sys.hostatt / 2 % 2 == 1)))

def atomRow (form : Mem → Instr) (len : Mem → Nat) (back : Bool) (act : Mem → Act) : GRow :=
  { form, ctr := 7, len, want := .atomic, kind := fun x => .atomic x.w.dst.toNat (if back && !x.w.nowb then len x / 4 else 0),
    act := fun x _ _ => act x, data := fun x c j => c.dataOf x.immW x.d.c (len x) j, cmp := noBytes, flags := noFlags,
    aligned := fun x a => a.toNat % len x == 0, late := atomLate false }

def casRow (form : Mem → Instr) (len : Nat) : GRow :=
  { form, ctr := 7, len := fun _ => len, want := .atomic, kind := fun x => .atomic x.w.dst.toNat (if x.w.nowb then 0 else len / 4),
    act := fun _ _ _ => .cas, data := fun x c j => c.dataOf x.immW x.d.e len j,
    cmp := fun x c j => c.dataOf x.immW x.d.c len j, flags := noFlags, aligned := fun _ a => a.toNat % len == 0,
    late := atomLate (len == 16) }

/-- The lane-wise accesses of global memory. -/
def globalRows : List GRow :=
  [{ form := .ld, ctr := 0, len := fun x => widthBytes x.d.width, want := .load,
     kind := fun x => .load x.w.dst.toNat (if x.w.nowb then 0 else (widthBytes x.d.width + 3) / 4) (widthBytes x.d.width) (x.d.subop == 1) false,
     act := fun _ _ _ => .load, data := noBytes, cmp := noBytes, flags := noFlags, aligned := toWidth, late := noLate },
   { form := .st, ctr := 1, len := fun x => widthBytes x.d.width, want := .store, kind := fun _ => .store,
     act := fun _ _ _ => .store, data := fun x c j => c.dataOf x.immW x.d.c (widthBytes x.d.width) j, cmp := noBytes,
     flags := noFlags, aligned := toWidth, late := noLate },
   atomRow .atom (fun x => widthBytes x.d.width) true (fun x => .int x.d.subop.toNat),
   atomRow .ared (fun x => widthBytes x.d.width) false (fun x => .int x.d.subop.toNat),
   atomRow .afadd (fun _ => 4) true (fun x => .flt x.d.subop.toNat),
   atomRow .afred (fun _ => 4) false (fun x => .flt x.d.subop.toNat),
   casRow .cas 4, casRow .cas64 8, casRow .cas128 16,
   { form := .abin, ctr := 7, len := fun _ => 24, want := .bin, kind := fun _ => .atomic 0 0,
     act := fun x c j => .bin (c.binSplitOf x j).1.1 (c.binSplitOf x j).1.2.1 (c.binSplitOf x j).1.2.2.1 (c.binSplitOf x j).1.2.2.2,
     data := noBytes, cmp := noBytes, flags := fun x c j => (c.binSplitOf x j).2,
     aligned := fun _ a => a.toNat % 8 == 0 && a.toNat % 4096 % 24 == 0 && decide (a.toNat % 4096 ≤ 4056),
     late := fun _ x c j l => fmtLegalBin (c.src x.immW x.d.e j).toNat && l.mt != 2 }]

/-- Every enabled lane's access goes through: aligned, inside 2^57, translated, and let by order 10. -/
def GoesThrough (r : GRow) (x : Mem) (s : State) : Prop :=
  ∀ j, j < 32 → (onD (r.form x) x s).getLsbD j = true →
    let c := view (r.form x) s
    r.aligned x (c.gaddr x j) = true ∧ (c.gaddr x j).toNat < 2 ^ 57 ∧
    ∃ l, s.access (s.mine (c.gaddr x j).toNat (r.len x) r.want) s.cur.failed = .ok l ∧
      r.late s x c j l = true

/-- A memory instruction's alignment (R141, R146): the address that a lane gives, what holds of one that is aligned, and what an
earlier order lets pass. -/
structure AlignRow where
  form : Mem → Instr
  addr : Mem → Ctx → Nat → Word64
  aligned : Mem → Word64 → Bool
  first : Mem → Ctx → Nat → Bool := fun _ _ _ => true

/-- The lane-wise memory instructions and the copy, each with the address that must be aligned: in global memory, in a space of
offsets, in an operand-buffer range, or a copy's destination, whose count is checked before it. -/
def alignRows : List AlignRow :=
  globalRows.map (fun r => { form := r.form, addr := fun x c j => c.gaddr x j, aligned := r.aligned }) ++
  [{ form := .mwait, addr := fun x c j => c.gaddr x j, aligned := toWidth }] ++
  ([.lds, .sts, .ldv, .stv] : List (Mem → Instr)).map (fun f => { form := f, addr := fun x c j => (c.saddr x j).setWidth 64, aligned := toWidth }) ++
  ([.obst, .obld] : List (Mem → Instr)).map (fun f => { form := f, addr := fun x c j => (c.src x.immW x.w.b j).setWidth 64, aligned := toWidth }) ++
  [{ form := .acopy, addr := fun x c j => (c.copyLane x j).dst, aligned := fun _ a => a.toNat % 32 == 0,
     first := fun x c j => decide ((c.copyLane x j).n ≤ 32) }]

/-- Every enabled lane's access of `n` bytes is aligned, inside 2^57, translated, and let by order 10. -/
def LanesReach (i : Instr) (x : Mem) (s : State) (n : Nat) (w : Want) (aligned : Nat → Bool) (late : Nat → Leaf → Bool) : Prop :=
  ∀ j, j < 32 → (onD i x s).getLsbD j = true →
    let a := ((view i s).gaddr x j).toNat
    aligned a = true ∧ a < 2 ^ 57 ∧
    ∃ l, s.access (s.mine a n w) s.cur.failed = .ok l ∧ late j l = true

/-- The issue began one operation with a part for each enabled lane, counted on `ctr`, and moved on. -/
def Begun (i : Instr) (x : Mem) (ctr : Nat) (s t : State) : Prop :=
  ∃ o, LastOp s t o ∧ o.ctr = ctr ∧ o.pieces.map (·.lane) = lanesOf (onD i x s) ∧
    t.cur.counter ctr = s.cur.counter ctr + 1 ∧ Passed s.cur t.cur i.size none

/-- The lanes of an offset space: aligned and inside a size. -/
def InSpace (m : Word) (addr : Nat → Word) (n size : Nat) : Prop :=
  ∀ j, j < 32 → m.getLsbD j = true → (addr j).toNat % n = 0 ∧ (addr j).toNat + n ≤ size

/-! ### Transfers (R24, R127) -/

/-- A fragment whose next address is not that of its join (R24). -/
def NoPark (c : Ctx) (pc : Word64) : Prop :=
  c.recipe = none ∧ ∀ j r, c.frag.join = some j → c.joins.getD j none = some r → pc ≠ r.jaddr

/-- The issuing fragment has gone to an address, where it may park (R24), and its clause is over. -/
def Went (c d : Ctx) (pc : Word64) : Prop :=
  d.clause = {} ∧ d.yielded = c.clause.yieldHint ∧ Lands c d pc ∧
  (NoPark c pc → d.frags = c.frags.set c.fsel (some { c.frag with pc }) ∧ d.joins = c.joins ∧ d.recipe = none)

/-- The address a count of words gives, from the clause's header (R127). -/
def targetOf (c : Ctx) (n : Int) : Word64 := c.clause.hdr + BitVec.ofInt 64 (4 * n)

/-! ### Traps (R151 to R159) -/

/-- A trap can be entered: a group issues, and no handler runs in it. -/
def CanTrap (s : State) : Prop := s.cur.kind = .group ∧ s.cur.inh = false

/-- A trap has been entered (R153): what it saves, and that nothing else of the context changes. -/
def Entered (s t : State) (code detail : Nat) (tval : Word64) (lanes : Word) (epc vec : Word64) : Prop :=
  OnlyCtx s t ∧
  t.cur.tcause.toNat = code + s.cur.fsel % 8 * 2 ^ 8 + detail * 2 ^ 16 + s.cur.priv.toNat * 2 ^ 24 + 2 ^ 31 ∧
  t.cur.epc = epc ∧ t.cur.tval = tval ∧ t.cur.tlanes = lanes ∧ t.cur.clause = {} ∧
  t.cur.frags = s.cur.frags.set s.cur.fsel (some { s.cur.frag with pc := vec }) ∧
  (∃ sv, t.cur.saved = some sv ∧ sv.epc = epc ∧ sv.amask = s.cur.exm) ∧
  t.cur.v = s.cur.v ∧ t.cur.s = s.cur.s ∧ t.cur.p = s.cur.p ∧ t.cur.mode = s.cur.mode ∧ t.cur.ctr = s.cur.ctr ∧
  t.cur.tvec = s.cur.tvec ∧ t.cur.svec = s.cur.svec ∧ t.cur.joins = s.cur.joins

/-- A trap that ends its context, which leaves no fragment, and abandons its team (R155, R214, R311). -/
def Doubled (s : State) (o : Out) : Prop :=
  ∃ t, o = .next t ∧ (∀ c, t.ctx s.cur.uid = some c → c.ended = true ∧ c.frags = []) ∧
    ∀ u ∈ t.teams, u.id = s.cur.team → u.abandoned = true

/-- An instruction that waits: nothing changes but the note of why, and it stands where it stood. -/
def Stays (s t : State) (w : Stall) : Prop :=
  OnlyCtx s t ∧ t.cur = { s.cur with stall := some w, sample := t.cur.sample }

/-- A system register: number, whether it is a pair, supervisor level, and its value (R159). -/
structure SysRow where
  num : Nat
  wide : Bool
  sup : Bool
  value : State → Word64

def sysRows : List SysRow :=
  [⟨0x00, false, false, fun s => s.cur.tcause.setWidth 64⟩, ⟨0x01, true, false, fun s => s.cur.epc⟩,
   ⟨0x02, true, false, fun s => s.cur.tvec⟩, ⟨0x03, true, false, fun s => s.cur.tval⟩,
   ⟨0x04, false, false, fun s => s.cur.tlanes.setWidth 64⟩, ⟨0x05, false, false, fun s => if s.cur.priv then 1 else 0⟩,
   ⟨0x06, false, false, fun s => (word (s.cur.loc.die % 8 + s.cur.loc.core % 128 * 8 + s.cur.loc.pipe % 8 * 2 ^ 10
      + s.cur.loc.slot % 8 * 2 ^ 13)).setWidth 64⟩,
   ⟨0x07, true, false, fun s => (s.part (s.team s.cur.team).part).vwbase⟩,
   ⟨0x08, false, false, fun s => word64 (2 ^ 25 * (List.range 64).countP (fun k => (s.part (s.team s.cur.team).part).vault / 2 ^ k % 2 == 1))⟩,
   ⟨0x10, true, true, fun s => s.cur.svec⟩, ⟨0x11, false, true, fun s => s.cur.srsel.setWidth 64⟩,
   ⟨0x12, true, true, fun s => s.gen (genKey s.cur.loc (s.cur.srsel.toNat % 8))⟩,
   ⟨0x13, false, true, fun s => s.cur.dbgctl.setWidth 64⟩]

/-- A register of the context that `wrsys` writes: number, whether it is a pair, supervisor level, and the write. -/
structure SysWrite where
  num : Nat
  wide : Bool
  sup : Bool
  put : Ctx → Word64 → Ctx

def sysWrites : List SysWrite :=
  [⟨0x01, true, false, fun c x => { c with epc := x }⟩, ⟨0x02, true, false, fun c x => { c with tvec := x }⟩,
   ⟨0x10, true, true, fun c x => { c with svec := x }⟩,
   ⟨0x11, false, true, fun c x => { c with srsel := x.setWidth 32 &&& 7 }⟩,
   ⟨0x13, false, true, fun c x => { c with dbgctl := x.setWidth 32 &&& 1 }⟩]

/-! ### Frame tiles (R201 to R209) -/

/-- The team of the issuing context is one of the package's. -/
def HasTeam (s : State) : Prop := ∃ u ∈ s.teams, u.id = s.cur.team

/-- The sleeping rows of a point of the issuing team. -/
def asleep (p : Nat) (r : Row) : Bool := r.point == p && !r.woke

def sleepers (s : State) (p : Nat) : Nat := (s.team s.cur.team).rows.countP (asleep p)

/-- What `fxform` makes of a column, with its flags (R208). -/
def columnOf (subop : Nat) (rnd : Rnd) (x b : Word) : Word × Word :=
  let f := fun (r : Exact) => (word (fp32.round rnd false 0 r).code, (fp32.round rnd false 0 r).flags)
  let ex := fun (y : Word) => (fp32.read y.toNat).exact
  match subop with
  | 0 => (x + b, 0)
  | 1 => (x - b, 0)
  | 2 => (x &&& b, 0)
  | 3 => (x ||| b, 0)
  | 4 => (x ^^^ b, 0)
  | 5 => (b, 0)
  | 6 => f (Exact.add (rnd = .rdn) (ex x) (ex b))
  | _ => f (Exact.mul (ex x) (ex b))

/-- The rows that a `susp` of the issuing group has written for a point: one for each enabled lane, ascending, in these places, with the
lane's header and columns; its pending monitor is bound to the row; and the pair keeps the greater LASTWCT (R201 to R203). -/
def RowsWritten (u t : State) (p : Nat) (pt : Point) (places : List Place) : Prop :=
  let c := u.cur
  let q := (u.team c.team).pair p
  (∀ k j, (lanesOf c.exm)[k]? = some j → ∃ r ∈ (t.team c.team).rows, r.point = p ∧ r.lane = j ∧ r.grp = c.grpid ∧
    places[k]? = some r.place ∧ r.cols = pt.live.map (fun n => c.vreg n j) ∧ r.seq = (q.seq + k) % 2 ^ 16 ∧
    r.ckpt = c.ckpts.getD j 0 ∧
    (r.mon = true ↔ ∃ m ∈ u.mons, m.uid = c.uid ∧ m.row = none ∧ m.lane = j) ∧
    (q.gateClosed = false → r.woke = true) ∧
    (q.gateClosed = true → (∀ m ∈ u.mons, m.uid = c.uid → m.fired = false) →
      r.woke = false ∧ ∀ m, u.mons.find? (fun m => m.uid == c.uid && m.row.isNone && m.lane == j) = some m →
        ∃ m' ∈ t.mons, m'.id = m.id ∧ m'.row = some r.age ∧ m'.uid = 0)) ∧
  (t.team c.team).rows.length = (u.team c.team).rows.length + (lanesOf c.exm).length ∧
  ((t.team c.team).pair p).twct = max q.twct c.lastwct

/-! ### A quad's array and rings -/

/-- The quad and partition of the issuing context. -/
def quadOf (s : State) : Nat := quadNo s.cur.loc.die s.cur.loc.core
def partOf (s : State) : Nat := (s.team s.cur.team).part

/-- Nothing of the package changes but the issuing context and the quads. -/
def OnlyQuad (s t : State) : Prop := t = { s with cur := t.cur, quads := t.quads }

/-- An operation in flight on a quad uses something by this name (R316). -/
def Using (s : State) (quad use : Nat) : Prop := ∃ o ∈ s.ops, quadNo o.die o.core = quad ∧ use ∈ o.uses

/-- An operation of the issuing context counted on `ctr`, which its issue began. -/
def Owns (s t : State) (ctr : Nat) (o : Op) : Prop :=
  o ∈ t.ops ∧ o.id = s.uids + 1 ∧ o.uid = s.cur.uid ∧ o.team = s.cur.team ∧ o.ctr = ctr ∧ o.counted = true

/-! ### Events -/

/-- An event's operation and lane, and the part that has come of it. -/
def Names (s : State) (o : Op) (p : Piece) : Prop := s.op s.args.x = some o ∧ o.piece s.args.y = some p

/-- The named part has become `p`. -/
def Part (s t : State) (p : Piece) : Prop := ∃ o, t.op s.args.x = some o ∧ o.piece s.args.y = some p

/-- Memory after a write of bytes at a place. -/
def Wrote (s t : State) (key : Nat) (bs : List Byte) : Prop :=
  ∀ a, t.byteAt a = if key ≤ a ∧ a < key + bs.length then bs.getD (a - key) 0 else s.byteAt a

/-- What a releasing fence of the issuing group waits for at a scope (R234): ST, CP0 to CP3 and MX read 0, NET too at shard scope;
package time past LASTWCT; and at host scope the group's older stores to host memory sent. -/
def MayRelease (s : State) (scope : Scope) : Prop :=
  let drained := ∀ k ∈ [1, 2, 3, 4, 5, 6], s.cur.counter k = 0
  match scope with
  | .grp => True
  | .team => drained
  | .cluster | .die | .package => drained ∧ s.cur.lastwct < s.time
  | .shard => s.cur.counter 7 = 0 ∧ drained ∧ s.cur.lastwct < s.time
  | .host => drained ∧ s.cur.lastwct < s.time ∧
      ∀ o ∈ s.ops, o.uid = s.cur.uid → ∀ p ∈ o.pieces, ¬ (p.space = .host ∧ p.act = .store ∧ p.phase = .sent)

/-- Every context has a name of its own, and none is 0 or above the last given. -/
def Apart (s : State) : Prop := (s.ctxs.map (·.uid)).Nodup ∧ ∀ c ∈ s.ctxs, c.uid ≠ 0 ∧ c.uid ≤ s.uids

/-- A team of the package by its name. -/
def Known (s : State) (team : Nat) : Prop := ∃ u ∈ s.teams, u.id = team

/-- The event's command of function `fn` is one with this OP, at the head of the ring or taken earlier, and no earlier command in
progress names a page of it (R280). -/
def AtHead (s : State) (fn op : Nat) : Prop :=
  s.cmdHas fn = true ∧ s.cmdGet fn 0 1 = op ∧ s.cmdReserved fn = false ∧ s.cmdWaits fn = false

/-- A page command that is taken: the page's leaf, and no access to the page in flight (R299). -/
def OnPage (s : State) (fn target page : Nat) (l : Leaf) : Prop :=
  s.cmdTarget fn = some target ∧ s.pageLeaf target (s.cmdGet fn 8 8) = some l ∧
  page = s.cmdGet fn 8 8 / 2 ^ l.bits * 2 ^ l.bits ∧ s.inFlight target (fun a => page ≤ a && a < page + 2 ^ l.bits) = false

/-- A page command ends: the page's translations go, STATUS 0x80 is written, and the head moves on (R280). -/
def pageDone (s : State) (fn target page bits : Nat) : State :=
  (s.dropXlates target (fun va l => l.meets va page (2 ^ bits / 4096))).cmdDone fn 0x80

/-- The event moves a walker, later than it moved last (R228, R278). -/
def AtWalker (s : State) (w : Walker) : Prop :=
  s.args.z = 2 ∧ (s.walkers.filter (·.first.die == s.args.x))[s.args.y]? = some w ∧ w.moved < s.time

/-- A walk has read all that it needs, for one access alone, of a function that translates. -/
def WalkDone (s : State) (w : Walker) : Prop :=
  s.nextRead w.first w.seen = none ∧ w.joined = [] ∧ w.first.at' < s.time ∧ s.misses = [] ∧ fld (s.fn w.first.fn).tctl.toNat 0 0 = 1

/-- A walk has ended (R276 to R278): what it came to is there for its access from the next nanosecond on, and but for that, its walker,
the caches, the table entries that it marks, and what writing those brings about, nothing changes. -/
def Walks (s t : State) (w : Walker) (r : Walk) : Prop :=
  t = { s with mem := t.mem, tlb := t.tlb, walks := t.walks, walkers := s.walkers.filter (fun v => !v.covers w.first),
               walked := t.walked, mons := t.mons, sys := { s.sys with migLines := t.sys.migLines } } ∧
  t.walked.getLast? = some { miss := w.first, res := r, since := s.time + 1 }

/-- Function 0 has been sent an event record of a type, where its ring has room (R401). -/
def Raised (s t : State) (type : Nat) : Prop :=
  ringFull (s.fn 0).evqhead (s.fn 0).evqtail (s.fn 0).evqsize = false →
    (t.fn 0).evqtail = ((s.fn 0).evqtail + 1) % 2 ^ (s.fn 0).evqsize ∧ (t.fn 0).msix = (s.fn 0).msix ++ [type - 1]

/-! ### A step where the turn list is empty -/

/-- After the turn the prefetches, membership operations, barriers and collectives that it lets go on have gone on, the dispatchers place
what fits, and the next context is the one that issues (R373; log 3). -/
def moveOn (s t : State) : State := t.follow.placeDue.focus (t.follow.placeDue.nextUid s.cur.uid)

/-- The issuing context stands in mid-clause and took its pipe's last turn: its clause goes on (R197). -/
def GoesOn (s : State) : Prop :=
  s.cur.clause.isOpen = true ∧ 0 < s.cur.clause.pos ∧ Cells.get 0 s.sys.issuer (genKey s.cur.loc s.cur.loc.pipe) = s.cur.uid

/-- The issuing context is alone on its pipe with one fragment. -/
def Alone (s : State) : Prop :=
  (∀ k, (s.cur.frags.getD k none).isSome = true → k = s.cur.fsel) ∧
  ∀ d ∈ s.others, ¬ (d.kind = .group ∧ d.loc.die = s.cur.loc.die ∧ d.loc.core = s.cur.loc.core ∧ d.loc.pipe = s.cur.loc.pipe ∧
    d.ended = false ∧ d.halted = false)

/-- A turn that came to `t` has issued: its context has gone on, or is gone. -/
def Issued (s t : State) : Prop := ∀ d, t.ctx s.cur.uid = some d → d.stall = none

/-- A step of `s` whose turn comes to the outcome `o`, with the work unit that a closed clause may be: a thread's, or that of a
group alone on its pipe, whose ages the turn moves on where the pipe chooses it. -/
def Steps (s : State) (o : Out) : Prop :=
  let s1 := s.tick
  s1.issueTurn 3 = o.onNext s1.afterIssue ∧
  (s.cur.kind = .thread → step s = (o.onNext s1.afterIssue).onNext (moveOn s)) ∧
  (∀ t, s.cur.kind = .group → Alone s → o = .next t → Issued s (s1.afterIssue t) →
    (GoesOn s → step s = .next (moveOn s ((s1.afterIssue t).noteIssue s.cur))) ∧
    (¬ GoesOn s → step s = .next (moveOn s (((s1.afterIssue t).noteTurn s.cur s.cur.fsel [s.cur.uid] []).noteIssue s.cur))))

/-- The mailbox holds a request of an operation in progress (R406). -/
def Asked (s : State) (op : Nat) : Prop :=
  s.sys.booted = true ∧ Cells.get 0 s.sys.fwmbox 15 = 1 ∧ (Cells.get 0 s.sys.fwmbox 0).toNat = op

end Sys2Proof.Claims
end

