-- ==== Sys2Proof/Certificates/Slice0/Obligations.lean ====
section
/-! DEFINITION. The statements for the provers. -/

open Sys2Proof Sys2Proof.Machine Sys2Proof.Claims

/-- R97 to R99, R102 with R58: every short integer form, and `mov`, ends with its result in the enabled lanes; every long
integer form with its own, under SAT and TY; the long bitwise forms too, and `bfe` and `bfi` bit by bit. -/
def Obligations.IntegerResults : Prop :=
  (∀ e ∈ shortTable, ∀ (x : Short) (s : State), Reads (e.1 x) s →
    ∃ t, exec (e.1 x) s = .next t ∧ OnlyCtx s t ∧
      VecDone (e.1 x) x.w (on (e.1 x) x.toLong s)
        (fun j => e.2 ((view (e.1 x) s).opA x.toLong j) ((view (e.1 x) s).opB x.toLong j)) 0 s t) ∧
  (∀ e ∈ exactTable, ∀ (x : Long) (s : State), Reads (e.1 x) s →
    let c := view (e.1 x) s
    let v := fun j => e.2 (intOf x.m.ty (c.opA x j)) (intOf x.m.ty (c.opB x j)) (intOf x.m.ty (c.opC x j))
    ∃ t, exec (e.1 x) s = .next t ∧ OnlyCtx s t ∧
      VecDone (e.1 x) x.w (on (e.1 x) x s) (fun j => clampOr x.m.ty x.m.sat (v j))
        (satFlag x.m.ty x.m.sat (on (e.1 x) x s) v) s t) ∧
  (∀ e ∈ bitTable, ∀ (x : Long) (s : State), Reads (e.1 x) s →
    ∃ t, exec (e.1 x) s = .next t ∧ OnlyCtx s t ∧
      VecDone (e.1 x) x.w (on (e.1 x) x s) (fun j => e.2 ((view (e.1 x) s).opA x j) ((view (e.1 x) s).opB x j)) 0 s t) ∧
  (∀ (x : Long) (s : State), Reads (.bfe x) s → ∃ t f, exec (.bfe x) s = .next t ∧ OnlyCtx s t ∧
    VecDone (.bfe x) x.w (on (.bfe x) x s) f 0 s t ∧
    ∀ j k, k < 32 →
      let c := view (.bfe x) s
      let pos := (c.opB x j).toNat % 256
      let n := if 32 ≤ pos then 0 else min ((c.opC x j).toNat % 256) (32 - pos)
      (f j).getLsbD k = if k < n then (c.opA x j).getLsbD (pos + k)
        else (x.m.subop == 1 && 0 < n && (c.opA x j).getLsbD (pos + n - 1))) ∧
  (∀ (x : Long) (s : State), Reads (.bfi x) s → ∃ t f, exec (.bfi x) s = .next t ∧ OnlyCtx s t ∧
    VecDone (.bfi x) x.w (on (.bfi x) x s) f 0 s t ∧
    ∀ j k, k < 32 →
      let c := view (.bfi x) s
      let pos := (c.opC x j).toNat % 256
      let n := if 32 ≤ pos then 0 else min ((c.opC x j).toNat / 256 % 256) (32 - pos)
      (f j).getLsbD k = if pos ≤ k ∧ k < pos + n then (c.opB x j).getLsbD (k - pos) else (c.opA x j).getLsbD k)

/-- R100, R101: `icmp` writes a predicate, `sel` chooses by one. -/
def Obligations.CompareAndSelect : Prop :=
  (∀ (x : Long) (s : State), Reads (.icmp x) s →
    let c := view (.icmp x) s
    let v := fun (w : Word) (d : Word64) => match x.m.ty with
      | .n32 => (w.toNat : Int) | .i64 => d.toInt | .n64 => (d.toNat : Int) | _ => w.toInt
    let holds := fun (a b : Int) => match x.m.subop.toNat with
      | 0 => decide (a = b) | 1 => decide (a ≠ b) | 2 => decide (a < b) | 3 => decide (a ≤ b) | 4 => decide (b < a)
      | _ => decide (b ≤ a)
    ∃ t, exec (.icmp x) s = .next t ∧ OnlyCtx s t ∧
      PredDone (.icmp x) x.w (on (.icmp x) x s)
        (fun j => holds (v (c.opA x j) (c.opA64 x j)) (v (c.opB x j) (c.opB64 x j))) 0 s t) ∧
  (∀ (x : Long) (s : State), Reads (.sel x) s →
    let c := view (.sel x) s
    let cond := fun j => if x.m.subop.toNat < 8 then (c.preg x.m.subop.toNat).getLsbD j
      else !(c.preg (x.m.subop.toNat - 8)).getLsbD j
    ∃ t, exec (.sel x) s = .next t ∧ OnlyCtx s t ∧
      VecDone (.sel x) x.w (on (.sel x) x s) (fun j => if cond j then c.opA x j else c.opB x j) 0 s t ∧
      (x.m.subop = 0 → ∀ j, j < 32 → cond j = true))

/-- R102 to R104: `mov` of a pair, `smov` by its SUBOP, and address arithmetic modulo 2^64. -/
def Obligations.MovesAndAddresses : Prop :=
  (∀ (x : Long) (s : State), Reads (.movLong x) s →
    ∃ t, exec (.movLong x) s = .next t ∧ OnlyCtx s t ∧
      (x.m.ty = .i64 → Vec64Done (.movLong x) x.w (on (.movLong x) x s) ((view (.movLong x) s).opA64 x) 0 s t) ∧
      (x.m.ty ≠ .i64 → VecDone (.movLong x) x.w (on (.movLong x) x s) ((view (.movLong x) s).opA x) 0 s t)) ∧
  (∀ (x : Short) (s : State), Reads (.smov x) s →
    ∃ t, exec (.smov x) s = .next t ∧ OnlyCtx s t ∧ ScalDone (.smov x) x.w ((view (.smov x) s).opA x.toLong 0) 0 s t) ∧
  (∀ (x : Long) (s : State), Reads (.smovLong x) s → x.m.subop.toNat ≤ 12 →
    let c := view (.smovLong x) s
    let a := c.opA x 0
    let b := c.opB x 0
    let n := b.toNat % 256
    ∃ t, exec (.smovLong x) s = .next t ∧ OnlyCtx s t ∧
      (match x.m.subop.toNat with
        | 11 => Scal64Done (.smovLong x) x.w (c.opA64 x 0 + c.opB64 x 0) s t
        | 12 => Scal64Done (.smovLong x) x.w (c.opA64 x 0 - c.opB64 x 0) s t
        | k => ScalDone (.smovLong x) x.w
            (match k with
              | 0 => a | 1 => a + b | 2 => a - b | 3 => a * b | 4 => a &&& b | 5 => a ||| b | 6 => a ^^^ b
              | 7 => if n < 32 then a <<< n else 0 | 8 => if n < 32 then a >>> n else 0
              | 9 => if a.toInt ≤ b.toInt then a else b | _ => if a.toInt ≤ b.toInt then b else a) 0 s t)) ∧
  (∀ e ∈ ([(.ladd, fun a b => a + b), (.lsub, fun a b => a - b)] : List ((Short → Instr) × (Word64 → Word64 → Word64))),
    ∀ (x : Short) (s : State), Reads (e.1 x) s →
      ∃ t, exec (e.1 x) s = .next t ∧ OnlyCtx s t ∧
        Vec64Done (e.1 x) x.w (on (e.1 x) x.toLong s)
          (fun j => e.2 ((view (e.1 x) s).opA64 x.toLong j) (((view (e.1 x) s).opB x.toLong j).signExtend 64)) 0 s t) ∧
  (∀ e ∈ ([(.laddLong, fun a b _ => a + b), (.lsubLong, fun a b _ => a - b), (.lmad, fun a b c => a + b * c)] :
      List ((Long → Instr) × (Word64 → Word64 → Word64 → Word64))),
    ∀ (x : Long) (s : State), Reads (e.1 x) s →
      let ext := fun (w : Word) => if x.m.ty = .n32 then w.setWidth 64 else w.signExtend 64
      ∃ t, exec (e.1 x) s = .next t ∧ OnlyCtx s t ∧
        Vec64Done (e.1 x) x.w (on (e.1 x) x s)
          (fun j => e.2 ((view (e.1 x) s).opA64 x j) (ext ((view (e.1 x) s).opB x j)) (ext ((view (e.1 x) s).opC x j))) 0 s t)

/-- R105: `dp4` and `dp2` are exact, and only the total is clamped; the TY and SUBOP codes they accept. -/
def Obligations.DotProducts : Prop :=
  (∀ (x : Long) (s : State), Reads (.dp4 x) s →
    let c := view (.dp4 x) s
    let acc := if x.m.ty = .n8 then Ty.n32 else .i32
    let v := fun j => dotTotal 8 4 (x.m.ty != .n8) (x.m.ty != .n8 && x.m.subop == 0) (c.opA x j) (c.opB x j) (intOf acc (c.opC x j))
    ∃ t, exec (.dp4 x) s = .next t ∧ OnlyCtx s t ∧
      VecDone (.dp4 x) x.w (on (.dp4 x) x s) (fun j => clampOr acc x.m.sat (v j)) (satFlag acc x.m.sat (on (.dp4 x) x s) v) s t) ∧
  (∀ (x : Long) (s : State), Reads (.dp2 x) s →
    let c := view (.dp2 x) s
    let acc := if x.m.ty = .n16 then Ty.n32 else .i32
    let v := fun j => dotTotal 16 2 (x.m.ty != .n16) (x.m.ty != .n16 && x.m.subop == 0) (c.opA x j) (c.opB x j) (intOf acc (c.opC x j))
    ∃ t, exec (.dp2 x) s = .next t ∧ OnlyCtx s t ∧
      VecDone (.dp2 x) x.w (on (.dp2 x) x s) (fun j => clampOr acc x.m.sat (v j)) (satFlag acc x.m.sat (on (.dp2 x) x s) v) s t) ∧
  (∀ x : Long, (Instr.dp4 x).wf = true →
    (x.m.ty = .dflt ∨ x.m.ty = .i8 ∨ x.m.ty = .n8) ∧ (x.m.subop = 0 ∨ (x.m.subop = 1 ∧ x.m.ty ≠ .n8))) ∧
  (∀ x : Long, (Instr.dp2 x).wf = true →
    (x.m.ty = .dflt ∨ x.m.ty = .i16 ∨ x.m.ty = .n16) ∧ (x.m.subop = 0 ∨ (x.m.subop = 1 ∧ x.m.ty ≠ .n16)))

/-! ### Floating instructions -/

/-- R81, R106, R111, R113: floating arithmetic rounds its exact value once: the quotient, the square root, which compares with every
number of the grid and between two of them as the true root does, and the value times a power of 2 are exact before it. That `fdot2`
adds (p0 + p1) + c, by which an undefined sum raises IV, is the model's choice (log 52); that an exact zero quotient of `fdiv` and
a sum of zeros in `fdot2` are +0, but under RDN where the addends are not of one sign, is its reading of R79 (log 39). -/
def Obligations.FloatArithmetic : Prop :=
  (∀ e ∈ floatShort, ∀ (x : Short) (s : State), Reads (e.1 x) s → ∃ t, exec (e.1 x) s = .next t ∧
    ElemDone (e.1 x) x.toLong true (fun f rdn a b c => .flt f false (e.2 rdn (f.read a).exact (f.read b).exact (f.read c).exact) 0) s t) ∧
  (∀ e ∈ floatLong, ∀ (x : Long) (s : State), Reads (e.1 x) s → ∃ t, exec (e.1 x) s = .next t ∧
    ElemDone (e.1 x) x true (fun f rdn a b c => .flt f x.m.sat (e.2 rdn (f.read a).exact (f.read b).exact (f.read c).exact) 0) s t) ∧
  (∀ (x : Short) (s : State), Reads (.fdiv x) s → ∃ t, exec (.fdiv x) s = .next t ∧
    ElemDone (.fdiv x) x.toLong false
      (fun f _ a b _ => .flt f false ((f.read a).div (f.read b)).1 ((f.read a).div (f.read b)).2) s t) ∧
  (∀ (x : Long) (s : State), Reads (.fdivLong x) s → ∃ t, exec (.fdivLong x) s = .next t ∧
    ElemDone (.fdivLong x) x false
      (fun f _ a b _ => .flt f x.m.sat ((f.read a).div (f.read b)).1 ((f.read a).div (f.read b)).2) s t) ∧
  (∀ (x : Short) (s : State), Reads (.fsqrt x) s → ∃ t, exec (.fsqrt x) s = .next t ∧
    ElemDone (.fsqrt x) x.toLong false (fun f _ a _ _ => .flt f false (f.read a).sqrt 0) s t) ∧
  (∀ (x : Long) (s : State), Reads (.fsqrtLong x) s → ∃ t, exec (.fsqrtLong x) s = .next t ∧
    ElemDone (.fsqrtLong x) x false (fun f _ a _ _ => .flt f x.m.sat (f.read a).sqrt 0) s t) ∧
  (∀ (x : Short) (s : State), Reads (.fscale x) s → ∃ t, exec (.fscale x) s = .next t ∧
    FloatDone (.fscale x) x.toLong false (effRnd s.cur.mode false .mode)
      (fun j =>
        let b := ((view (.fscale x) s).opB x.toLong j).toInt
        [.flt fp32 false ((fp32.read ((view (.fscale x) s).opA x.toLong j).toNat).exact.scale (max (-2048) (min 2047 b))) 0])
      (fun _ => joinElems) s t) ∧
  (∀ (x : Long) (s : State), Reads (.fscaleLong x) s → ∃ t, exec (.fscaleLong x) s = .next t ∧
    FloatDone (.fscaleLong x) x false (effRnd s.cur.mode false x.m.rnd)
      (fun j =>
        let f := fmtOf x.m.ty
        let b := ((view (.fscaleLong x) s).opB x j).toInt
        [.flt f x.m.sat ((f.read ((view (.fscaleLong x) s).opA x j).toNat).exact.scale (max (-2048) (min 2047 b))) 0])
      (fun _ => joinElems) s t) ∧
  (∀ (x : Long) (s : State), Reads (.fdot2 x) s → ∃ t, exec (.fdot2 x) s = .next t ∧
    FloatDone (.fdot2 x) x false (effRnd s.cur.mode true x.m.rnd)
      (fun j =>
        let c := view (.fdot2 x) s
        let rdn := decide (effRnd s.cur.mode true x.m.rnd = .rdn)
        let ty := if x.m.ty = .dflt then Ty.bf16x2 else x.m.ty
        let el := fun (w : Word) k => ((fmtOf ty).read ((elems ty w).getD k 0)).exact
        let p := fun k => (el (c.opA x j) k).mul (el (c.opB x j) k)
        let z := (fp32.read (c.opC x j).toNat).exact
        [.flt fp32 x.m.sat (if p 0 = .zero true ∧ p 1 = .zero true ∧ z = .zero true then .zero false
          else ((p 0).add rdn (p 1)).add rdn z) 0])
      (fun _ => joinElems) s t) ∧
  (∀ x y : Machine.Num, finite y.exact = true →
    (finite x.exact = true → valueOf y.exact ≠ 0 → finite (x.div y).1 = true ∧ valueOf (x.div y).1 = valueOf x.exact / valueOf y.exact ∧
      (x.div y).2 = 0 ∧ (valueOf x.exact = 0 → (x.div y).1 = .zero false)) ∧
    (∀ g h n d e, x = .fin g n d → y = .fin h 0 e →
      x.div y = if n = 0 then (.nan true, 0) else (.inf (g != h), fDZ)) ∧
    (∀ g h n d, x = .inf g → y = .fin h n d → x.div y = (.inf (g != h), 0)) ∧
    ∀ i, x = .nan i → x.div y = (.nan i, 0)) ∧
  (∀ (x : Machine.Num) (g : Bool), x.div (.inf g) = match x with
    | .nan i => (.nan i, 0) | .inf _ => (.nan true, 0) | .fin .. => (.zero false, 0)) ∧
  (∀ code, 0 < code → code < 0x7F800000 → ∀ m : Nat,
    let x := valueOf (fp32.read code).exact
    let y := valueOf (fp32.read code).sqrt
    let q : Rat := m / 2 ^ 200
    finite (fp32.read code).sqrt = true ∧ (q < y ↔ q * q < x) ∧ (q = y ↔ q * q = x)) ∧
  (∀ code, 0x80000000 < code → code < 0xFF800000 → (fp32.read code).sqrt = .nan true) ∧
  ((fp32.read 0).sqrt = .zero false ∧ (fp32.read 0x80000000).sqrt = .zero true ∧ (fp32.read 0x7F800000).sqrt = .inf false ∧
    (fp32.read 0xFF800000).sqrt = .nan true) ∧
  (∀ (a : Exact) (e : Int), (finite a = true → finite (a.scale e) = true ∧ valueOf (a.scale e) = valueOf a * (2 : Rat) ^ e) ∧
    (finite a = false → (∀ g n d, a ≠ .real g n d) → a.scale e = a))

/-- R107 to R111: `fmin` and `fmax`, −0 below +0, with their rules for NaN; the sign operations, which write the sign bit alone;
`frint`, the value rounded on the integer grid with its sign kept; `fcmp` by its SUBOP, −0 equal to +0 and NaN unordered; and
`fclass`, whose one bit is the class that the fields of the code give. -/
def Obligations.FloatSelectionAndTests : Prop :=
  (∀ e ∈ ([(.fmin, false), (.fmax, true)] : List ((Short → Instr) × Bool)), ∀ (x : Short) (s : State), Reads (e.1 x) s →
    ∃ t, exec (e.1 x) s = .next t ∧
      ElemDone (e.1 x) x.toLong false (fun f _ a b _ => .done (f.minMax e.2 false a b)) s t) ∧
  (∀ e ∈ ([(.fminLong, false), (.fmaxLong, true)] : List ((Long → Instr) × Bool)), ∀ (x : Long) (s : State), Reads (e.1 x) s →
    ∃ t, exec (e.1 x) s = .next t ∧
      ElemDone (e.1 x) x false (fun f _ a b _ => .done (f.minMax e.2 (x.m.subop == 1) a b)) s t) ∧
  (∀ e ∈ ([(.fabs, fun _ _ => false), (.fneg, fun a _ => !a), (.fsgn, fun _ b => b)] : List ((Short → Instr) × (Bool → Bool → Bool))),
    ∀ (x : Short) (s : State), Reads (e.1 x) s → ∃ t, exec (e.1 x) s = .next t ∧
      ElemDone (e.1 x) x.toLong false (fun f _ a b _ => .done (f.withSign a (e.2 (f.signOf a) (f.signOf b)))) s t) ∧
  (∀ e ∈ ([(.fabsLong, fun _ _ _ => false), (.fnegLong, fun _ a _ => !a),
      (.fsgnLong, fun k a b => if k = 0 then b else if k = 1 then !b else xor a b)] : List ((Long → Instr) × (Nat → Bool → Bool → Bool))),
    ∀ (x : Long) (s : State), Reads (e.1 x) s → ∃ t, exec (e.1 x) s = .next t ∧
      ElemDone (e.1 x) x false
        (fun f _ a b _ => .done (f.withSign a (e.2 x.m.subop.toNat (f.signOf a) (f.signOf b)))) s t) ∧
  (∀ (x : Short) (s : State), Reads (.frint x) s → ∃ t, exec (.frint x) s = .next t ∧
    FloatDone (.frint x) x.toLong false (effRnd s.cur.mode false .mode)
      (fun j => (elems .dflt ((view (.frint x) s).opA x.toLong j)).map (fun a => .done (fp32.rint (effRnd s.cur.mode false .mode) a)))
      (fun _ => joinElems) s t) ∧
  (∀ (x : Long) (s : State), Reads (.frintLong x) s → ∃ t, exec (.frintLong x) s = .next t ∧
    FloatDone (.frintLong x) x false (effRnd s.cur.mode false x.m.rnd)
      (fun j => (elems x.m.ty ((view (.frintLong x) s).opA x j)).map
        (fun a => .done ((fmtOf x.m.ty).rint (effRnd s.cur.mode false x.m.rnd) a)))
      (fun _ => joinElems) s t) ∧
  (∀ (x : Long) (s : State), Reads (.fcmp x) s →
    let c := view (.fcmp x) s
    let f := fmtOf x.m.ty
    let a := fun j => f.read (c.opA x j).toNat
    let b := fun j => f.read (c.opB x j).toNat
    let un := fun j => (a j).isNan || (b j).isNan
    let k := fun j => (a j).cmp (b j)
    let bit := fun j => match x.m.subop.toNat with
      | 0 => !un j && k j == 0 | 1 => un j || k j != 0 | 2 => !un j && decide (k j < 0) | 3 => !un j && decide (k j ≤ 0)
      | 4 => !un j && decide (0 < k j) | 5 => !un j && decide (0 ≤ k j) | 6 => !un j | _ => un j
    let m := on (.fcmp x) x s
    ∃ t, exec (.fcmp x) s = .next t ∧ OnlyCtx s t ∧
      PredDone (.fcmp x) x.w m bit
        (if (lanesOf m).any (fun j => (a j).isSnan || (b j).isSnan) then fIV else 0) s t) ∧
  (∀ (x : Short) (s : State), Reads (.fclass x) s → ∃ t, exec (.fclass x) s = .next t ∧ OnlyCtx s t ∧
    VecDone (.fclass x) x.w (on (.fclass x) x.toLong s)
      (fun j => word (2 ^ fp32.classOf ((view (.fclass x) s).opA x.toLong j).toNat)) 0 s t) ∧
  (∀ (x : Long) (s : State), Reads (.fclassLong x) s → ∃ t, exec (.fclassLong x) s = .next t ∧ OnlyCtx s t ∧
    VecDone (.fclassLong x) x.w (on (.fclassLong x) x s)
      (fun j => word (2 ^ (fmtOf x.m.ty).classOf ((view (.fclassLong x) s).opA x j).toNat)) 0 s t) ∧
  (∀ f ∈ [fp32, fp16, bf16], ∀ code, code < 2 * f.signW →
    f.classOf code = classByFields f code ∧
    (∀ neg, ((f.read code).isNan = true → f.withSign code neg = ⟨f.nan, if (f.read code).isSnan then fIV else 0, 0⟩) ∧
      ((f.read code).isNan = false → (f.withSign code neg).flags = 0 ∧ (f.withSign code neg).code % f.signW = code % f.signW ∧
        (f.withSign code neg).code / f.signW = neg.toNat)) ∧
    ∀ rnd, let r := f.rint rnd code
      ((f.read code).isNan = true → r.code = f.nan ∧ r.flags = if (f.read code).isSnan then fIV else 0) ∧
      (∀ g, f.read code = .inf g → r.code = code ∧ r.flags = 0) ∧
      (finite (f.read code).exact = true → rnd ≠ .sr → rnd ≠ .mode →
        r.code < 2 * f.signW ∧ r.flags = 0 ∧ f.signOf r.code = f.signOf code ∧
        ∃ k : Int, finite (f.read r.code).exact = true ∧ valueOf (f.read r.code).exact = k ∧
          IntRound rnd 0 (valueOf (f.read code).exact) k)) ∧
  (∀ f ∈ [fp32, fp16, bf16], ∀ (max prop : Bool) (a b : Nat), a < 2 * f.signW → b < 2 * f.signW →
    let x := f.read a
    let y := f.read b
    let r := f.minMax max prop a b
    r.flags = (if x.isSnan || y.isSnan then fIV else 0) ∧
    ((x.isNan && y.isNan || prop && (x.isNan || y.isNan)) = true → r.code = f.nan) ∧
    (prop = false → x.isNan = true → y.isNan = false → r.code = b) ∧
    (prop = false → x.isNan = false → y.isNan = true → r.code = a) ∧
    (x.isNan = false → y.isNan = false → (r.code = a ∨ r.code = b) ∧
      (max = false → (f.read r.code).cmp x ≤ 0 ∧ (f.read r.code).cmp y ≤ 0 ∧
        (valueOf x.exact = 0 → valueOf y.exact = 0 → finite x.exact = true → finite y.exact = true →
          f.signOf r.code = (f.signOf a || f.signOf b))) ∧
      (max = true → 0 ≤ (f.read r.code).cmp x ∧ 0 ≤ (f.read r.code).cmp y ∧
        (valueOf x.exact = 0 → valueOf y.exact = 0 → finite x.exact = true → finite y.exact = true →
          f.signOf r.code = (f.signOf a && f.signOf b)))))

/-- R112: a special function is one fixed function of its input, whatever the rounding mode, with thirteen sample points of the
table of special cases. Forms and readings of the model: log 9. -/
def Obligations.SpecialFunctions : Prop :=
  (∀ e ∈ specialShort, ∀ (x : Short) (s : State), Reads (e.1 x) s → ∃ t, exec (e.1 x) s = .next t ∧
    ElemDone (e.1 x) x.toLong false (fun _ _ a _ _ => .done (e.2 a)) s t) ∧
  (∀ e ∈ specialLong, ∀ (x : Long) (s : State), Reads (e.1 x) s → ∃ t, exec (e.1 x) s = .next t ∧
    ElemDone (e.1 x) x false (fun _ _ a _ _ => .done (e.2 a)) s t) ∧
  ((fnRcp 0).code = 0x7F800000 ∧ (fnRcp 0).flags = fDZ ∧ (fnRcp 0x80000000).code = 0xFF800000 ∧
    (fnRsq 0x80000000).flags = fDZ ∧ (fnRsq 0xBF800000).code = 0x7FC00000 ∧ (fnRsq 0xBF800000).flags = fIV ∧
    (fnExp2 0xFF800000).code = 0 ∧ (fnLog2 0).code = 0xFF800000 ∧ (fnLog2 0).flags = fDZ ∧
    (fnSin 0x80000000).code = 0x80000000 ∧ (fnCos 0).code = 0x3F800000 ∧ (fnSin 0x7F800000).flags = fIV ∧
    (fnTanh 0xFF800000).code = 0xBF800000)

/-- R82, R114 to R116: conversions, which narrow and clamp integers, round on the integer grid and keep the code of an identical
format; `pack`, with the place of its bytes; and `unpk`, with the value of an element. That an exact zero between two formats is +0 is
the model's reading of R79 (log 39). Forms and readings of the model: log 44. -/
def Obligations.Conversions : Prop :=
  (∀ (x : Long) (s : State), Reads (.cvt x) s → ∃ t, exec (.cvt x) s = .next t ∧
    FloatDone (.cvt x) x x.m.ty.isWideInt (effRnd s.cur.mode true x.m.rnd)
      (fun j =>
        let c := view (.cvt x) s
        let src := x.m.subop.toNat
        [convert (cfmt (if src = 0 then 1 else src)) (cfmt (tyCode x.m.ty)) x.m.sat
          (if src = 9 ∨ src = 13 then (c.opA64 x j).toNat else (c.opA x j).toNat)])
      (fun _ => joinElems) s t) ∧
  (∀ (x : Long) (s : State), Reads (.pack x) s → ∃ t, exec (.pack x) s = .next t ∧
    FloatDone (.pack x) x false (effRnd s.cur.mode true x.m.rnd)
      (fun j =>
        let c := view (.pack x) s
        let one := fun (w : Word) => match x.m.ty with
          | .i8 => Pend.done ((⟨if x.m.subop.toNat < 2 then 8 else 4, true⟩ : IFmt).narrow x.m.sat w.toInt)
          | .n8 => Pend.done ((⟨if x.m.subop.toNat < 2 then 8 else 4, false⟩ : IFmt).narrow x.m.sat w.toInt)
          | ty => Pend.flt (fmtOf ty) x.m.sat (match (fp32.read w.toNat).exact with | .zero _ => .zero false | e => e) 0
        [one (c.opA x j), one (c.opB x j)])
      (fun j l => packPlace x.m.ty x.m.subop.toNat ((view (.pack x) s).opC x j).toNat (l.getD 0 0) (l.getD 1 0)) s t) ∧
  (∀ (x : Long) (s : State), Reads (.unpk x) s → ∃ t, exec (.unpk x) s = .next t ∧
    FloatDone (.unpk x) x false .rne
      (fun j => [unpkPend x.m.ty x.m.subop.toNat ((view (.unpk x) s).opA x j).toNat ((view (.unpk x) s).opB x j).toNat])
      (fun _ => joinElems) s t) ∧
  (∀ (f : Fmt) (sat : Bool) (code : Nat), f ∈ formats → code < 2 * f.signW →
    convert (.flt f) (.flt f) sat code = .done (if (f.read code).isSnan then ⟨f.nan, fIV, 0⟩ else ⟨code, 0, 0⟩)) ∧
  (∀ (f g : Fmt) (sat : Bool) (code : Nat), f ≠ g →
    convert (.flt f) (.flt g) sat code = .flt g sat (match (f.read code).exact with | .zero _ => .zero false | e => e) 0) ∧
  (∀ (f : IFmt) (g : Fmt) (sat : Bool) (code : Nat), ∃ e, convert (.int f) (.flt g) sat code = .flt g sat e 0 ∧ finite e = true ∧
    valueOf e = f.read code ∧ (f.read code = 0 → e = .zero false)) ∧
  (∀ (n : Nat) (signed sat : Bool), 0 < n → n ≤ 64 →
    let f : IFmt := ⟨n, signed⟩
    let lo : Int := if signed then -2 ^ (n - 1) else 0
    let hi : Int := if signed then 2 ^ (n - 1) - 1 else 2 ^ n - 1
    let as := fun (y : Int) => (y % 2 ^ 64).toNat
    (∀ x : Int,
      (lo ≤ x → x ≤ hi → f.narrow sat x = ⟨as x, 0, 0⟩) ∧
      (x < lo ∨ hi < x → sat = true → f.narrow sat x = ⟨as (if x < lo then lo else hi), fSA, 0⟩) ∧
      (x < lo ∨ hi < x → sat = false → ∃ y, lo ≤ y ∧ y ≤ hi ∧ (x - y) % 2 ^ n = 0 ∧ f.narrow sat x = ⟨as y, 0, 0⟩)) ∧
    (∀ (g : IFmt) code, convert (.int g) (.int f) sat code = .done (f.narrow sat (g.read code))) ∧
    (∀ (g : Fmt) code, convert (.flt g) (.int f) sat code = .int f sat (g.read code).exact) ∧
    ∀ (rnd : Rnd) (draw : Nat), rnd ≠ .mode →
      (∀ iv, f.ofExact rnd sat draw (.nan iv) = ⟨0, fIV, 0⟩) ∧ (∀ g, f.ofExact rnd sat draw (.zero g) = ⟨0, 0, 0⟩) ∧
      (∀ g, (f.ofExact rnd sat draw (.inf g)).code = as (if g then lo else hi) ∧
        (f.ofExact rnd sat draw (.inf g)).flags = fNX ||| (if sat then fSA else fIV)) ∧
      ∀ g p q, 0 < p → 0 < q →
        let x := valueOf (.real g p q)
        let r := f.ofExact rnd sat draw (.real g p q)
        ∃ k : Int, IntRound rnd draw x k ∧
          (lo ≤ k → k ≤ hi → r.code = as k ∧ r.flags = if (k : Rat) = x then 0 else fNX) ∧
          (k < lo ∨ hi < k → r.code = as (if k < lo then lo else hi) ∧ r.flags = fNX ||| (if sat then fSA else fIV))) ∧
  (∀ (ty : Ty) (sub c a b : Nat), c < 2 ^ 32 →
    (ty = .bf16x2 ∨ ty = .f16x2 → packPlace ty sub c a b = a + 65536 * b) ∧
    (ty ≠ .bf16x2 → ty ≠ .f16x2 → ∀ k, k < 4 →
      (sub ≤ 1 → byteOf (packPlace ty sub c a b) k = if k / 2 = sub then (if k % 2 = 0 then a % 256 else b % 256) else byteOf c k) ∧
      (2 ≤ sub → sub ≤ 5 → byteOf (packPlace ty sub c a b) k = if k = sub - 2 then a % 16 + 16 * (b % 16) else byteOf c k))) ∧
  (∀ a b sub : Nat, a < 2 ^ 32 →
    (∀ ty ∈ [Ty.bf16x2, .f16x2], sub ≤ 1 → unpkPend ty sub a b = match (fmtOf ty).read (a / 65536 ^ sub % 65536) with
      | .nan _ => .done ⟨fp32.nan, 0, 0⟩ | e => .flt fp32 false e.exact 0) ∧
    (∀ ty ∈ [Ty.e4m3, .e5m2], sub ≤ 3 →
      let x := (fmtOf ty).read (byteOf a sub)
      ∃ e, unpkPend ty sub a b = .flt fp32 false e 0 ∧
        (b % 256 = 255 ∨ x.isNan = true → e = .nan false) ∧
        (b % 256 ≠ 255 → ∀ g, x = .inf g → e = .inf g) ∧
        (b % 256 ≠ 255 → finite x.exact = true → finite e = true ∧ valueOf e = valueOf x.exact * (2 : Rat) ^ ((b % 256 : Nat) - 127 : Int) ∧
          (valueOf x.exact = 0 → e = .zero false))) ∧
    (sub ≤ 11 →
      let q := if sub < 4 then byteOf a sub else a / 16 ^ (sub - 4) % 16
      let z := if sub < 4 then byteOf b 2 else byteOf b 2 % 16
      let n := if sub < 4 then 128 else 8
      (∃ e, unpkPend .n8 sub a b = .flt fp32 false e 0 ∧
        (b / 1024 % 32 = 31 → e = .nan false) ∧
        (b / 1024 % 32 ≠ 31 → finite e = true ∧ valueOf e = codeValue 5 10 b * ((q : Rat) - z) ∧ (valueOf e = 0 → e = .zero false))) ∧
      unpkPend .i8 sub a b = .done ⟨((if q < n then (q : Int) else q - 2 * n) % 2 ^ 64).toNat, 0, 0⟩))

/-- R79, R80, R106: the exact sum and product are the sum and product of the values, and a value of a format rounds to itself
in every mode, without a flag. -/
def Obligations.ExactValues : Prop :=
  (∀ (rdn : Bool) (a b : Exact), finite a = true → finite b = true →
    finite (a.add rdn b) = true ∧ valueOf (a.add rdn b) = valueOf a + valueOf b ∧
    finite (a.mul b) = true ∧ valueOf (a.mul b) = valueOf a * valueOf b) ∧
  (∀ f ∈ formats, ∀ (rnd : Rnd) (sat : Bool) (draw code : Nat), code < 2 * f.signW → finite (f.read code).exact = true →
    f.round rnd sat draw (f.read code).exact = ⟨code, 0, 0⟩)

/-- R79: a rounded value that does not overflow is a candidate next to the exact one, of its sign unless it is 0, less than one
unit in the last place away: the nearer under RNE and RNA, on a tie the even one and the larger, that of smaller magnitude
under RTZ, that above under RUP and below under RDN, and under the stochastic mode the larger where the draw is below the first
32 bits of the discarded fraction; NX says that it differs. -/
def Obligations.RoundingIsNearest : Prop :=
  ∀ f ∈ formats, ∀ (rnd : Rnd) (sat : Bool) (draw : Nat) (neg : Bool) (n d : Nat), 0 < n → 0 < d →
    let r := f.roundReal rnd sat draw neg n d
    let x := n * 2 ^ f.low
    let ulp := d * 2 ^ f.unit n d
    (r.flags &&& (fOF ||| fSA)) = 0 →
    ∃ k g, f.read r.code = .fin g k (2 ^ f.low) ∧ (k ≠ 0 → g = neg) ∧ k * d < x + ulp ∧ x < k * d + ulp ∧
      (rnd = .rne → 2 * (k * d) ≤ 2 * x + ulp ∧ 2 * x ≤ 2 * (k * d) + ulp ∧
        ((2 * (k * d) = 2 * x + ulp ∨ 2 * x = 2 * (k * d) + ulp) → k / 2 ^ f.unit n d % 2 = 0)) ∧
      (rnd = .rna → 2 * (k * d) ≤ 2 * x + ulp ∧ 2 * x < 2 * (k * d) + ulp) ∧
      (rnd = .rtz → k * d ≤ x) ∧
      (rnd = .rup → if neg then k * d ≤ x else x ≤ k * d) ∧
      (rnd = .rdn → if neg then x ≤ k * d else k * d ≤ x) ∧
      (rnd = .sr → (x < k * d ↔ draw < x % ulp * 2 ^ 32 / ulp)) ∧
      ((r.flags &&& fNX = 0) ↔ k * d = x)

/-! ### Cross-lane instructions -/

/-- R118 to R121: votes, ballots, broadcasts and shuffles. -/
def Obligations.VotesAndShuffles : Prop :=
  (∀ (x : Long) (s : State), Reads (.vote x) s →
    let m := on (.vote x) x s
    let a := (view (.vote x) s).opA x
    ∃ t b, exec (.vote x) s = .next t ∧ OnlyCtx s t ∧ PredDone (.vote x) x.w m (fun _ => b) 0 s t ∧
      (b = true ↔ match x.m.subop.toNat with
        | 0 => ∀ j, j < 32 → m.getLsbD j = true → a j ≠ 0
        | 1 => ∃ j, j < 32 ∧ m.getLsbD j = true ∧ a j ≠ 0
        | _ => ∀ j k, j < 32 → k < 32 → m.getLsbD j = true → m.getLsbD k = true → a j = a k)) ∧
  (∀ (x : Short) (s : State), Reads (.ballot x) s →
    ∃ t b, exec (.ballot x) s = .next t ∧ OnlyCtx s t ∧ ScalDone (.ballot x) x.w b 0 s t ∧
      ∀ j, j < 32 → b.getLsbD j = ((on (.ballot x) x.toLong s).getLsbD j && (view (.ballot x) s).opA x.toLong j != 0)) ∧
  (∀ (x : Long) (s : State), Reads (.ballotLong x) s →
    ∃ t b, exec (.ballotLong x) s = .next t ∧ OnlyCtx s t ∧ ScalDone (.ballotLong x) x.w b 0 s t ∧
      ∀ j, j < 32 → b.getLsbD j = ((on (.ballotLong x) x s).getLsbD j && (view (.ballotLong x) s).opA x j != 0)) ∧
  (∀ (x : Short) (s : State), Reads (.bcast x) s →
    let c := view (.bcast x) s
    ∃ t, exec (.bcast x) s = .next t ∧ OnlyCtx s t ∧
      VecDone (.bcast x) x.w (on (.bcast x) x.toLong s) (fun _ => c.opA x.toLong ((c.opB x.toLong 0).toNat % 32)) 0 s t) ∧
  (∀ (x : Long) (s : State), Reads (.bcastLong x) s →
    let c := view (.bcastLong x) s
    ∃ t, exec (.bcastLong x) s = .next t ∧ OnlyCtx s t ∧
      VecDone (.bcastLong x) x.w (on (.bcastLong x) x s) (fun _ => c.opA x ((c.opB x 0).toNat % 32)) 0 s t) ∧
  (∀ (x : Short) (s : State), Reads (.shfl x) s →
    let c := view (.shfl x) s
    ∃ t, exec (.shfl x) s = .next t ∧ OnlyCtx s t ∧
      VecDone (.shfl x) x.w (on (.shfl x) x.toLong s) (fun j => c.opA x.toLong ((c.opB x.toLong j).toNat % 32)) 0 s t) ∧
  (∀ (x : Long) (s : State), Reads (.shflLong x) s →
    let c := view (.shflLong x) s
    let from' := fun j =>
      let b := (c.opB x j).toNat
      match x.m.subop.toNat with
      | 0 => b % 32 | 1 => if j < b then j else j - b | 2 => if 31 < j + b then j else j + b | _ => Nat.xor j (b % 32)
    ∃ t, exec (.shflLong x) s = .next t ∧ OnlyCtx s t ∧
      VecDone (.shflLong x) x.w (on (.shflLong x) x s) (fun j => c.opA x (from' j)) 0 s t)

/-- R122, R123: reductions over the contributing lanes: exact integer sums, the fixed tree of `radd.f32`, and extremes, of FP32 under
`num` of R107 too. -/
def Obligations.Reductions : Prop :=
  (∀ (x : Short) (s : State), Reads (.radd x) s →
    let sum := (lanesOf (on (.radd x) x.toLong s)).foldl (fun (a : Int) j => a + ((view (.radd x) s).opA x.toLong j).toInt) 0
    ∃ t, exec (.radd x) s = .next t ∧ OnlyCtx s t ∧ ScalDone (.radd x) x.w (BitVec.ofInt 32 sum) 0 s t) ∧
  (∀ (x : Long) (s : State), Reads (.raddLong x) s →
    let m := on (.raddLong x) x s
    let a := (view (.raddLong x) s).opA x
    let sum := (lanesOf m).foldl (fun (n : Int) j => n + intOf x.m.ty (a j)) 0
    ∃ t, exec (.raddLong x) s = .next t ∧ OnlyCtx s t ∧
      (x.m.ty ≠ .f32 → ScalDone (.raddLong x) x.w (clampOr x.m.ty x.m.sat sum)
        (if x.m.sat = true ∧ (sum < tyMin x.m.ty ∨ tyMax x.m.ty < sum) then fSA else 0) s t) ∧
      (x.m.ty = .f32 →
        let r := (treeNode (effRnd s.cur.mode false x.m.rnd) m a 5 0).getD (0, 0)
        ScalDone (.raddLong x) x.w (word r.1) r.2 s t)) ∧
  (∀ (x : Long) (s : State), Reads (.rext x) s → x.m.subop.toNat ≤ 6 →
    let m := on (.rext x) x s
    let a := (view (.rext x) s).opA x
    let l := (lanesOf m).map a
    ∃ t r fl, exec (.rext x) s = .next t ∧ OnlyCtx s t ∧ ScalDone (.rext x) x.w r fl s t ∧
      (x.m.ty ≠ .f32 → fl = 0) ∧
      (x.m.subop ≠ 6 → l = [] → r = 0 ∧ fl = 0) ∧
      (x.m.subop = 0 → x.m.ty ≠ .f32 → l ≠ [] → r ∈ l ∧ ∀ b ∈ l, intOf x.m.ty r ≤ intOf x.m.ty b) ∧
      (x.m.subop = 1 → x.m.ty ≠ .f32 → l ≠ [] → r ∈ l ∧ ∀ b ∈ l, intOf x.m.ty b ≤ intOf x.m.ty r) ∧
      (x.m.subop.toNat ≤ 1 → x.m.ty = .f32 → l ≠ [] →
        let read := fun (w : Word) => fp32.read w.toNat
        let top := x.m.subop == 1
        fl = (if l.any (fun b => (read b).isSnan) then fIV else 0) ∧
        ((∀ b ∈ l, (read b).isNan = true) → r = 0x7FC00000) ∧
        ((∃ b ∈ l, (read b).isNan = false) → r ∈ l ∧ (read r).isNan = false ∧
          ∀ b ∈ l, (read b).isNan = false →
            (if top then 0 ≤ (read r).cmp (read b) else (read r).cmp (read b) ≤ 0) ∧
            ((read r).cmp (read b) = 0 → fp32.signOf b.toNat = !top → fp32.signOf r.toNat = !top))) ∧
      (x.m.subop = 2 → l ≠ [] → ∀ k, k < 32 → (r.getLsbD k = true ↔ ∀ b ∈ l, b.getLsbD k = true)) ∧
      (x.m.subop = 3 → ∀ k, k < 32 → (r.getLsbD k = true ↔ ∃ b ∈ l, b.getLsbD k = true)) ∧
      (x.m.subop = 4 → ∀ k, k < 32 → r.getLsbD k = decide (l.countP (fun b => b.getLsbD k) % 2 = 1)) ∧
      (x.m.subop = 5 → ∀ b l', l = b :: l' → r = b) ∧
      (x.m.subop = 6 → r = a (((view (.rext x) s).opB x 0).toNat % 32)))

/-- R124, R125: prefixes in ascending enabled lanes, each integer sum clamped by itself under SAT and each FP32 sum the rounding of
the one before plus A; and neighbour reads, inside a group and along the chain of the groups present in the cluster. That the A of the
highest enabled lane sets IV alone under FP32 `excadd` is the model's choice (log 44). -/
def Obligations.PrefixesAndNeighbours : Prop :=
  (∀ (x : Long) (s : State), Reads (.scan x) s →
    let m := on (.scan x) x s
    let a := (view (.scan x) s).opA x
    let upTo := fun (incl : Bool) j => (lanesOf m).filter (fun k => decide (k < j) || (incl && k == j))
    let sum := fun (incl : Bool) j => (upTo incl j).foldl (fun (n : Int) k => n + intOf x.m.ty (a k)) 0
    ∃ t f fl, exec (.scan x) s = .next t ∧ OnlyCtx s t ∧ VecDone (.scan x) x.w m f fl s t ∧
      (x.m.ty ≠ .f32 → x.m.subop = 0 → fl = satFlag x.m.ty x.m.sat m (sum true)) ∧
      (x.m.ty ≠ .f32 → x.m.subop = 1 → fl = satFlag x.m.ty x.m.sat m (sum false)) ∧
      (2 ≤ x.m.subop.toNat → fl = 0) ∧
      (x.m.ty = .f32 →
        let en := lanesOf m
        let A := fun k => (a (en.getD k 0)).toNat
        let F := fun k => f (en.getD k 0)
        let plus := sumOf (effRnd s.cur.mode false x.m.rnd)
        (x.m.subop = 0 →
          (∀ k, k < en.length → F k = word (if k = 0 then (passed (A 0)).1 else (plus (F (k - 1)).toNat (A k)).1)) ∧
          fl = joinFlags ((List.range en.length).map (fun k => if k = 0 then (passed (A 0)).2 else (plus (F (k - 1)).toNat (A k)).2))) ∧
        (x.m.subop = 1 →
          (∀ k, k < en.length → F k = word (if k = 0 then 0 else if k = 1 then (passed (A 0)).1
            else (plus (F (k - 1)).toNat (A (k - 1))).1)) ∧
          fl = joinFlags ((List.range en.length).map (fun k => (passed (A k)).2 |||
            if k < 2 then 0 else (plus (F (k - 1)).toNat (A (k - 1))).2)))) ∧
      ∀ j, j < 32 → m.getLsbD j = true →
        (x.m.ty ≠ .f32 → x.m.subop = 0 → f j = clampOr x.m.ty x.m.sat (sum true j)) ∧
        (x.m.ty ≠ .f32 → x.m.subop = 1 → f j = clampOr x.m.ty x.m.sat (sum false j)) ∧
        (x.m.subop = 2 → f j ∈ (upTo true j).map a ∧ ∀ k ∈ upTo true j, intOf x.m.ty (a k) ≤ intOf x.m.ty (f j)) ∧
        (x.m.subop = 3 → f j ∈ (upTo true j).map a ∧ ∀ k ∈ upTo true j, intOf x.m.ty (f j) ≤ intOf x.m.ty (a k)) ∧
        (x.m.subop = 4 → ∀ b, b < 32 → ((f j).getLsbD b = true ↔ ∃ k ∈ upTo true j, (a k).getLsbD b = true)) ∧
        (x.m.subop = 5 → ∀ b, b < 32 → ((f j).getLsbD b = true ↔ ∀ k ∈ upTo true j, (a k).getLsbD b = true))) ∧
  (∀ (x : Long) (s : State) (n : BitVec 7), Reads (.nbr x) s → x.w.a = .v n →
    let c := view (.nbr x) s
    ∃ t f, exec (.nbr x) s = .next t ∧ OnlyCtx s t ∧ VecDone (.nbr x) x.w (on (.nbr x) x s) f 0 s t ∧
      (x.m.subop = 1 → ∀ j, j < 31 → f j = if c.member (j + 1) then c.vreg n.toNat (j + 1) else c.opB x j) ∧
      (x.m.subop ≠ 1 → ∀ j, 0 < j → j < 32 → f j = if c.member (j - 1) then c.vreg n.toNat (j - 1) else c.opB x j) ∧
      (Apart s → Present s s.cur s.cur → (∀ d, Present s s.cur d → d.uid = s.cur.uid ∨ Earlier d s.cur ∨ Earlier s.cur d) →
        (x.m.subop = 1 →
          (∀ d, Present s s.cur d → Earlier s.cur d → (∀ e, Present s s.cur e → Earlier s.cur e → e.uid = d.uid ∨ Earlier d e) →
            f 31 = if d.member 0 then d.vreg n.toNat 0 else c.opB x 31) ∧
          ((∀ d, Present s s.cur d → ¬ Earlier s.cur d) → f 31 = c.opB x 31)) ∧
        (x.m.subop ≠ 1 →
          (∀ d, Present s s.cur d → Earlier d s.cur → (∀ e, Present s s.cur e → Earlier e s.cur → e.uid = d.uid ∨ Earlier e d) →
            f 0 = if d.member 31 then d.vreg n.toNat 31 else c.opB x 0) ∧
          ((∀ d, Present s s.cur d → ¬ Earlier d s.cur) → f 0 = c.opB x 0))))

/-! ### Memory instructions -/

/-- R21, R136, R278: a memory or copy instruction none of whose lanes is enabled only moves on; and a global access of which an enabled
lane misses, all being aligned and in range, waits where it stands: its lanes that miss wait for a walk or for a walker, and nothing
else changes, no byte of memory either. Forms and readings of the model: log 7. -/
def Obligations.IssuesThatLeaveMemory : Prop :=
  (∀ r ∈ globalRows, ∀ (x : Mem) (s : State), Reads (r.form x) s → onD (r.form x) x s = 0 →
    ∃ t, exec (r.form x) s = .next t ∧ OnlyCtx s t ∧ Quiet (r.form x) s t) ∧
  (∀ form ∈ ([.lds, .sts, .ldv, .stv, .obst, .obld, .acopy] : List (Mem → Instr)), ∀ (x : Mem) (s : State),
    Reads (form x) s → onD (form x) x s = 0 → ∃ t, exec (form x) s = .next t ∧ OnlyCtx s t ∧ Quiet (form x) s t) ∧
  (∀ r ∈ globalRows, ∀ (x : Mem) (s : State), Reads (r.form x) s → s.cur.counter r.ctr < 63 →
    let c := view (r.form x) s
    let on := fun j => j < 32 ∧ (onD (r.form x) x s).getLsbD j = true
    let m := fun j => s.mine (c.gaddr x j).toNat (r.len x) r.want
    (∀ j, on j → r.aligned x (c.gaddr x j) = true ∧ (c.gaddr x j).toNat < 2 ^ 57 ∧ s.access (m j) s.cur.failed ≠ .off) →
    (∃ j, on j ∧ s.access (m j) s.cur.failed = .busy) →
    ∃ t, exec (r.form x) s = .next t ∧ t.cur = { s.cur with stall := some .translation, sample := t.cur.sample } ∧
      t = { s with cur := t.cur, walkers := t.walkers, misses := t.misses } ∧
      ∀ j, on j → s.access (m j) s.cur.failed = .busy → t.pending (m j) = true)

/-- R136, R139, R241, R246, R247: a global access whose lanes all go through begins one operation with one part for each
enabled lane, on its counter; registers, every byte of memory and every space stay as they are, and of the package only operations
in flight and first-level caches change with it. Forms and readings of the model: log 7. -/
def Obligations.GlobalAccessIssues : Prop :=
  ∀ r ∈ globalRows, ∀ (x : Mem) (s : State), Reads (r.form x) s → onD (r.form x) x s ≠ 0 → GoesThrough r x s →
    s.cur.counter r.ctr < 63 →
    let c := view (r.form x) s
    let m := onD (r.form x) x s
    ∃ t o, exec (r.form x) s = .next t ∧ LastOp s t o ∧ o.ctr = r.ctr ∧ o.kind = r.kind x ∧
      o.pieces.map (fun p => (p.lane, p.act, p.len, p.data, p.cmp))
        = (lanesOf m).map (fun j => (j, r.act x c j, r.len x, r.data x c j, r.cmp x c j)) ∧
      Began (r.form x) r.ctr (joinFlags ((lanesOf m).map (r.flags x c))) s t ∧
      t = { s with cur := t.cur, ops := t.ops, uids := t.uids, lines := t.lines }

/-- R139, R241, R246, R247: each global load, store and atomic completes, with an operation begun, wherever its counter has room
and every enabled lane's access is aligned, translated and let by order 10.
Forms and readings of the model: log 7. -/
def Obligations.GlobalAccessesComplete : Prop :=
  ∀ (x : Mem) (s : State),
    let n := widthBytes x.d.width
    let byN := fun (a : Nat) => a % n == 0
    let any := fun (_ : Nat) (_ : Leaf) => true
    let plain := fun (_ : Nat) (l : Leaf) => l.gps != 4 && (l.mt != 2 || s.sys.hostatt % 2 == 1)
    let wide := fun (_ : Nat) (l : Leaf) => l.gps != 4 && (l.mt != 2 || (s.sys.hostatt % 2 == 1 && s.sys.hostatt / 2 % 2 == 1))
    (Reads (.ld x) s → onD (.ld x) x s ≠ 0 → LanesReach (.ld x) x s n .load byN any → s.cur.counter 0 < 63 →
      ∃ t, exec (.ld x) s = .next t ∧ Begun (.ld x) x 0 s t) ∧
    (Reads (.st x) s → onD (.st x) x s ≠ 0 → LanesReach (.st x) x s n .store byN any → s.cur.counter 1 < 63 →
      ∃ t, exec (.st x) s = .next t ∧ Begun (.st x) x 1 s t) ∧
    (Reads (.atom x) s → onD (.atom x) x s ≠ 0 → LanesReach (.atom x) x s n .atomic byN plain → s.cur.counter 7 < 63 →
      ∃ t, exec (.atom x) s = .next t ∧ Begun (.atom x) x 7 s t) ∧
    (Reads (.ared x) s → onD (.ared x) x s ≠ 0 → LanesReach (.ared x) x s n .atomic byN plain → s.cur.counter 7 < 63 →
      ∃ t, exec (.ared x) s = .next t ∧ Begun (.ared x) x 7 s t) ∧
    (Reads (.afadd x) s → onD (.afadd x) x s ≠ 0 → LanesReach (.afadd x) x s 4 .atomic (· % 4 == 0) plain → s.cur.counter 7 < 63 →
      ∃ t, exec (.afadd x) s = .next t ∧ Begun (.afadd x) x 7 s t) ∧
    (Reads (.afred x) s → onD (.afred x) x s ≠ 0 → LanesReach (.afred x) x s 4 .atomic (· % 4 == 0) plain → s.cur.counter 7 < 63 →
      ∃ t, exec (.afred x) s = .next t ∧ Begun (.afred x) x 7 s t) ∧
    (Reads (.cas x) s → onD (.cas x) x s ≠ 0 → LanesReach (.cas x) x s 4 .atomic (· % 4 == 0) plain → s.cur.counter 7 < 63 →
      ∃ t, exec (.cas x) s = .next t ∧ Begun (.cas x) x 7 s t) ∧
    (Reads (.cas64 x) s → onD (.cas64 x) x s ≠ 0 → LanesReach (.cas64 x) x s 8 .atomic (· % 8 == 0) plain → s.cur.counter 7 < 63 →
      ∃ t, exec (.cas64 x) s = .next t ∧ Begun (.cas64 x) x 7 s t) ∧
    (Reads (.cas128 x) s → onD (.cas128 x) x s ≠ 0 → LanesReach (.cas128 x) x s 16 .atomic (· % 16 == 0) wide → s.cur.counter 7 < 63 →
      ∃ t, exec (.cas128 x) s = .next t ∧ Begun (.cas128 x) x 7 s t) ∧
    (Reads (.abin x) s → onD (.abin x) x s ≠ 0 → LanesReach (.abin x) x s 24 .bin (fun a => a % 8 == 0 && a % 4096 % 24 == 0 && decide (a % 4096 ≤ 4056))
        (fun j l => fmtLegalBin ((view (.abin x) s).src x.immW x.d.e j).toNat && l.mt != 2) → s.cur.counter 7 < 63 →
      ∃ t, exec (.abin x) s = .next t ∧ Begun (.abin x) x 7 s t)

/-- R139, R140, R145, R216, R376, R384: an access inside its space begins one operation at its offsets and changes no memory:
in the team's scratchpad region, in the partition's vault window through an allowed port, where a part of `stv` that meets a page
of a grid's spill or checkpoint area is dropped (the model's reading of read-only, log 48), or in an operand-buffer reservation
of the group's own team that is not of kind 2.
Forms and readings of the model: logs 11, 16, 48. -/
def Obligations.OffsetAccessIssues : Prop :=
  (∀ (x : Mem) (s : State), Reads (.lds x) s → onD (.lds x) x s ≠ 0 → s.cur.counter 0 < 63 →
    let c := view (.lds x) s
    let n := widthBytes x.d.width
    InSpace (onD (.lds x) x s) (c.saddr x) n (s.team s.cur.team).kern.scratch →
    ∃ t o, exec (.lds x) s = .next t ∧ LastOp s t o ∧ o.ctr = 0 ∧
      o.kind = .load x.w.dst.toNat (if x.w.nowb then 0 else (n + 3) / 4) n (x.d.subop == 1) false ∧
      o.pieces = (lanesOf (onD (.lds x) x s)).map (fun j =>
        { lane := j, act := .load, space := .scratch, key := (c.saddr x j).toNat, len := n }) ∧
      Began (.lds x) 0 0 s t ∧ t = { s with cur := t.cur, uids := s.uids + 1, ops := s.ops ++ [o] }) ∧
  (∀ (x : Mem) (s : State), Reads (.sts x) s → onD (.sts x) x s ≠ 0 → s.cur.counter 1 < 63 →
    let c := view (.sts x) s
    let n := widthBytes x.d.width
    InSpace (onD (.sts x) x s) (c.saddr x) n (s.team s.cur.team).kern.scratch →
    ∃ t o, exec (.sts x) s = .next t ∧ LastOp s t o ∧ o.ctr = 1 ∧ o.kind = .store ∧
      o.pieces = (lanesOf (onD (.sts x) x s)).map (fun j =>
        { lane := j, act := .store, space := .scratch, key := (c.saddr x j).toNat, len := n, data := c.dataOf x.immW x.d.c n j }) ∧
      Began (.sts x) 1 0 s t ∧ t = { s with cur := t.cur, uids := s.uids + 1, ops := s.ops ++ [o] }) ∧
  (∀ e ∈ ([(.ldv, 0), (.stv, 1)] : List ((Mem → Instr) × Nat)), ∀ (x : Mem) (s : State), Reads (e.1 x) s →
    onD (e.1 x) x s ≠ 0 → s.cur.counter e.2 < 63 →
    let c := view (e.1 x) s
    let n := widthBytes x.d.width
    let p := s.part (s.team s.cur.team).part
    InSpace (onD (e.1 x) x s) (c.saddr x) n p.vwsize →
    s.connOf s.cur.loc.die (sliceOfCore s.cur.loc.core) % 2 ^ 14 = 0x3FFF →
    ∃ t o, exec (e.1 x) s = .next t ∧ LastOp s t o ∧ o.ctr = e.2 ∧
      o.pieces.map (fun q => (q.lane, q.key, q.len, q.data))
        = (lanesOf (onD (e.1 x) x s)).map (fun j =>
            (j, p.vaultKey (c.saddr x j).toNat, n, if e.2 = 1 then c.dataOf x.immW x.d.c n j else [])) ∧
      (e.2 = 1 → ∀ q ∈ o.pieces, (q.phase = .abandoned ↔ s.vaultGuarded (s.team s.cur.team).part q.key = true)) ∧
      Began (e.1 x) e.2 0 s t ∧
      t = { s with cur := t.cur, ops := t.ops, uids := s.uids + 1, lines := t.lines }) ∧
  (∀ e ∈ ([(.obst, true), (.obld, false)] : List ((Mem → Instr) × Bool)), ∀ (x : Mem) (s : State), Reads (e.1 x) s →
    onD (e.1 x) x s ≠ 0 → s.cur.counter 6 < 63 →
    let c := view (e.1 x) s
    let n := widthBytes x.d.width
    let h := (c.uni x.immW x.w.a).toNat
    let r := (s.quad (quadNo s.cur.loc.die s.cur.loc.core)).rsvAt h
    h < 16 → r.team = s.cur.team → r.team ≠ 0 → r.kind ≠ 2 →
    InSpace (onD (e.1 x) x s) (c.src x.immW x.w.b) n r.len →
    ∃ t o, exec (e.1 x) s = .next t ∧ LastOp s t o ∧ o.ctr = 6 ∧ o.uses = [h] ∧
      o.pieces = (lanesOf (onD (e.1 x) x s)).map (fun j =>
        { lane := j, act := if e.2 then .store else .load, space := .opbuf, key := r.base + (c.src x.immW x.w.b j).toNat, len := n,
          data := if e.2 then c.dataOf x.immW x.d.c n j else [] }) ∧
      Began (e.1 x) 6 0 s t ∧ t = { s with cur := t.cur, uids := s.uids + 1, ops := s.ops ++ [o] })

/-- R139, R144, R147: the uniform load, the prefetch, which never traps, and the asynchronous copy. -/
def Obligations.OtherAccessesIssue : Prop :=
  (∀ (x : Mem) (s : State) (l : Leaf), Reads (.ldsc x) s → s.cur.counter 0 < 63 →
    let c := view (.ldsc x) s
    let n := widthBytes x.d.width
    let a := c.uni64 x.immW x.w.a + (c.uni x.immW x.w.b).signExtend 64
    a.toNat % n = 0 → a.toNat < 2 ^ 57 →
    s.access (s.mine a.toNat n .load) s.cur.failed = .ok l →
    ∃ t o, exec (.ldsc x) s = .next t ∧ LastOp s t o ∧ o.ctr = 0 ∧ o.kind = .load x.w.dst.toNat (if x.w.nowb then 0 else n / 4) n false true ∧
      o.pieces.map (fun p => (p.lane, p.act, p.len)) = [(0, .load, n)] ∧ Began (.ldsc x) 0 0 s t) ∧
  (∀ (x : Mem) (s : State), Reads (.pref x) s →
    ∃ t, exec (.pref x) s = .next t ∧ Quiet (.pref x) s t ∧ t.cur.ctr = s.cur.ctr ∧ t.teams = s.teams ∧
      (onD (.pref x) x s = 0 → OnlyCtx s t)) ∧
  (∀ (x : Mem) (s : State), Reads (.acopy x) s → onD (.acopy x) x s ≠ 0 → s.cur.counter (2 + x.d.copyTag) < 63 →
    let c := view (.acopy x) s
    let size := (s.team s.cur.team).kern.scratch
    (∀ j, j < 32 → (onD (.acopy x) x s).getLsbD j = true →
      (c.copyLane x j).n ≤ 32 ∧ (c.copyLane x j).dst.toNat % 32 = 0 ∧
      (c.copyLane x j).dst.toNat + 32 ≤ (if (c.copyLane x j).dstGlobal then 2 ^ 57 else size) ∧
      ((c.copyLane x j).n = 0 ∨ (c.copyLane x j).src.toNat + (c.copyLane x j).n ≤ (if (c.copyLane x j).srcGlobal then 2 ^ 57 else size))) →
    (x.d.copyDir = 3 ∨ (s.fn (s.fnOf s.cur)).tctl.toNat % 2 = 1) →
    ∃ t o, exec (.acopy x) s = .next t ∧ LastOp s t o ∧ o.ctr = 2 + x.d.copyTag ∧
      o.kind = .copy x.d.copyTag ((lanesOf (onD (.acopy x) x s)).map (c.copyLane x)) 0 0 ∧
      Began (.acopy x) (2 + x.d.copyTag) 0 s t ∧ t = { s with cur := t.cur, uids := s.uids + 1, ops := s.ops ++ [o] })

/-- R141, R146: in every memory instruction and the copy, an enabled lane that is not aligned raises the trap of code 6 at
issue, with TVAL its address in the lowest such lane and TLANES those lanes; nothing is begun.  The uniform load raises it with
its one address. Forms and readings of the model: log 52 (TVAL of `obst` and `obld`). -/
def Obligations.AlignmentTraps : Prop :=
  (∀ r ∈ alignRows, ∀ (x : Mem) (s : State) (j : Nat), Reads (r.form x) s →
    let c := view (r.form x) s
    let bad := fun k => (onD (r.form x) x s).getLsbD k = true ∧ r.aligned x (r.addr x c k) = false
    (∀ k, k < 32 → (onD (r.form x) x s).getLsbD k = true → r.first x c k = true) →
    j < 32 → bad j → (∀ k, k < j → ¬ bad k) → s.cur.kind = .group → s.cur.inh = false → s.cur.tvec ≠ 0 →
    ∃ t, exec (r.form x) s = .next t ∧ OnlyCtx s t ∧ t.cur.tcause.toNat % 256 = 6 ∧ t.cur.tval = r.addr x c j ∧
      (∀ k, k < 32 → (t.cur.tlanes.getLsbD k = true ↔ bad k)) ∧ t.cur.epc = s.cur.instrPc ∧ t.cur.ctr = s.cur.ctr ∧
      t.cur.v = s.cur.v ∧ t.cur.s = s.cur.s ∧ t.cur.p = s.cur.p ∧ t.cur.mode = s.cur.mode) ∧
  (∀ (x : Mem) (s : State), Reads (.ldsc x) s →
    let c := view (.ldsc x) s
    let a := c.uni64 x.immW x.w.a + (c.uni x.immW x.w.b).signExtend 64
    a.toNat % widthBytes x.d.width ≠ 0 → s.cur.kind = .group → s.cur.inh = false → s.cur.tvec ≠ 0 →
    ∃ t, exec (.ldsc x) s = .next t ∧ OnlyCtx s t ∧ t.cur.tcause.toNat % 256 = 6 ∧ t.cur.tval = a ∧ t.cur.tlanes = s.cur.exm ∧
      t.cur.epc = s.cur.instrPc ∧ t.cur.ctr = s.cur.ctr ∧ t.cur.v = s.cur.v ∧ t.cur.s = s.cur.s ∧ t.cur.p = s.cur.p)

/-- R252, R253: `mwait` goes on, and one enabled lane's monitor is armed with what the instruction names; `mclr` discards
the monitors of its enabled lanes and no other. -/
def Obligations.Monitors : Prop :=
  (∀ (x : Mem) (s : State), Reads (.mwait x) s →
    let c := view (.mwait x) s
    let n := widthBytes x.d.width
    (∀ j, j < 32 → (onD (.mwait x) x s).getLsbD j = true →
      (c.gaddr x j).toNat % n = 0 ∧ (c.gaddr x j).toNat < 2 ^ 57 ∧
      ∃ l, s.access (s.mine (c.gaddr x j).toNat n .mwait) s.cur.failed = .ok l ∧
        l.mt ≠ 2 ∧ l.gps = 0) →
    ∃ t, exec (.mwait x) s = .next t ∧ t.cur.v = s.cur.v ∧ t.cur.s = s.cur.s ∧ t.cur.p = s.cur.p ∧ t.cur.ctr = s.cur.ctr ∧
      Passed s.cur t.cur (Instr.size (.mwait x)) none ∧
      ∀ j, lanesOf (onD (.mwait x) x s) = [j] →
        ∃ mo ∈ t.mons, mo.uid = s.cur.uid ∧ mo.lane = j ∧ mo.row = none ∧ mo.len = n ∧ mo.subop = x.d.subop.toNat ∧
          mo.phase = .arming ∧ mo.cmp = (if n = 8 then c.src64 x.immW x.d.c j else (c.src x.immW x.d.c j).setWidth 64)) ∧
  (∀ (x : Mem) (s : State), Reads (.mclr x) s → s.cur.uid ≠ 0 →
    ∃ t, exec (.mclr x) s = .next t ∧ Quiet (.mclr x) s t ∧ t = { s with cur := t.cur, mons := t.mons } ∧
      (∀ mo ∈ t.mons, ¬ (mo.uid = s.cur.uid ∧ mo.row = none ∧ (onD (.mclr x) x s).getLsbD mo.lane = true)) ∧
      (∀ mo ∈ s.mons, ¬ (mo.uid = s.cur.uid ∧ mo.row = none ∧ (onD (.mclr x) x s).getLsbD mo.lane = true) → mo ∈ t.mons))

/-- R137, R150, R234, R235, R257, R258, R310, R326: a releasing fence goes on exactly when its scope's conditions hold, the counters
with NET at shard scope, then time past its LASTWCT, and else stays; an acquiring one discards the core's leased lines; `sfence`
advances the scratchpad generation, and the team's operand-cache entries go, once the counters of its stores and copies read 0, and
else stays; `waitc` goes on once its counter is at most A and no copy or load error is owed, and above that waits.
Forms and readings of the model: log 8. -/
def Obligations.FencesAndWaits : Prop :=
  (∀ (x : Mem) (s : State), Reads (.fence x) s →
    (x.d.subop = 1 ∨ MayRelease s x.d.scope →
      ∃ t, exec (.fence x) s = .next t ∧ Quiet (.fence x) s t ∧ t.mem = s.mem ∧ t.teams = s.teams ∧
        (x.d.subop = 0 → OnlyCtx s t) ∧
        (x.d.subop ≠ 0 → x.d.scope ≠ .grp → x.d.scope ≠ .team → ∀ l ∈ t.lines,
          l.core = coreNo s.cur.loc.die s.cur.loc.core → l.priv = true ∨ (x.d.scope ≠ .host ∧ l.line / 2 ^ 41 = 2))) ∧
    (x.d.subop ≠ 1 → ¬ MayRelease s x.d.scope → ∃ t, exec (.fence x) s = .next t ∧ Stays s t .fence)) ∧
  (∀ (x : Mem) (s : State), Reads (.sfence x) s →
    ((∀ k ∈ [1, 2, 3, 4, 5], s.cur.counter k = 0) →
      ∃ t, exec (.sfence x) s = .next t ∧ Quiet (.sfence x) s t ∧
        t = { s with cur := t.cur, teams := t.teams, quads := t.quads } ∧
        t.teams = s.teams.map (fun u => if u.id = s.cur.team then { s.team s.cur.team with gen := ((s.team s.cur.team).gen + 1) % 2 ^ 16 } else u) ∧
        t.quads = s.quads.map (fun e => (e.1, { e.2 with
          cache := e.2.cache.filter (fun k => k.team != s.cur.team),
          rsv := e.2.rsv.map (fun r => (r.1, if r.2.team = s.cur.team then
            { r.2 with unfenced := r.2.unfenced && s.copyingInto s.cur.team r.2.base r.2.len } else r.2)) }))) ∧
    ((∃ k ∈ [1, 2, 3, 4, 5], s.cur.counter k ≠ 0) → ∃ t, exec (.sfence x) s = .next t ∧ Stays s t .fence)) ∧
  (∀ (x : Short) (s : State), Reads (.waitc x) s →
    let a := ((view (.waitc x) s).uni (x.imm.getD 0) x.w.a).toNat
    let k := x.w.dst.toNat % 8
    let n := if s.cur.kind = .thread ∧ k ≠ 6 then 0 else s.cur.counter k
    (n ≤ a → (∀ e ∈ s.cur.copyErrs, e.tag + 2 ≠ k ∨ 6 ≤ k) → (s.cur.kind = .thread → k = 6 → s.cur.loadErr = none) →
      ∃ t, exec (.waitc x) s = .next t ∧ OnlyCtx s t ∧ Quiet (.waitc x) s t) ∧
    (a < n → ∃ t, exec (.waitc x) s = .next t ∧ Stays s t .counter))

/-! ### Control -/

/-- R127 to R129, R131: jumps, branches by their condition, calls, which save the next header, and returns. -/
def Obligations.Transfers : Prop :=
  (∀ (x : Short) (s : State), Reads (.jmp x) s →
    ∃ t, exec (.jmp x) s = .next t ∧ OnlyCtx s t ∧ KeepsCtx s.cur t.cur ∧ t.cur.v = s.cur.v ∧ t.cur.s = s.cur.s ∧
      t.cur.p = s.cur.p ∧ t.cur.mode = s.cur.mode ∧ Went s.cur t.cur (targetOf s.cur (x.imm.getD 0).toInt)) ∧
  (∀ (x : Long) (s : State), Reads (.bra x) s →
    let c := view (.bra x) s
    let m := on (.bra x) x s
    let taken := match x.m.subop.toNat with
      | 0 => m != 0 | 1 => c.exm != 0 && m == c.exm | 2 => c.opA x 0 != 0 | _ => c.opA x 0 == 0
    ∃ t, exec (.bra x) s = .next t ∧ OnlyCtx s t ∧ KeepsCtx s.cur t.cur ∧ t.cur.v = s.cur.v ∧ t.cur.s = s.cur.s ∧
      t.cur.p = s.cur.p ∧ t.cur.mode = s.cur.mode ∧
      Went s.cur t.cur (if taken then targetOf s.cur (x.imm.getD 0).toInt else s.cur.nextHdr)) ∧
  (∀ (x : Short) (s : State), Reads (.call x) s →
    ∃ t, exec (.call x) s = .next t ∧ OnlyCtx s t ∧ KeepsCtx s.cur t.cur ∧ t.cur.v = s.cur.v ∧ t.cur.p = s.cur.p ∧
      t.cur.mode = s.cur.mode ∧ Went s.cur t.cur (targetOf s.cur (x.imm.getD 0).toInt) ∧
      ∀ q, t.cur.sreg q = if q = x.w.dst.toNat + 1 then (s.cur.nextHdr >>> 32).setWidth 32
        else if q = x.w.dst.toNat then s.cur.nextHdr.setWidth 32 else s.cur.sreg q) ∧
  (∀ (x : Short) (s : State), Reads (.ret x) s →
    let a := (view (.ret x) s).uni64 0 x.w.a
    a.toNat % 4 = 0 → a.toNat < 2 ^ 57 →
    ∃ t, exec (.ret x) s = .next t ∧ OnlyCtx s t ∧ KeepsCtx s.cur t.cur ∧ t.cur.v = s.cur.v ∧ t.cur.s = s.cur.s ∧
      t.cur.p = s.cur.p ∧ t.cur.mode = s.cur.mode ∧ Went s.cur t.cur a)

/-- R23, R24, R130, R153: a fragment that reaches its join parks, its slot free and its lanes noted in the record; the last to arrive
forms the joined fragment in the lowest free slot, at JADDR with every lane of the join, heading for the parent record, and frees the
record; so too where a clause's end, a branch, a call, a return or a `bdiv` that splits nothing brings the fragment there, and where
the joined fragment has itself come to the join of its parent (`Lands`). `bdiv` with no
lane taken falls through, with every lane taken jumps, and else splits the fragment: the taken lanes in a new one at the
target, the others at the next clause, both heading for a new join record; with no free slot, or with a slot and no free record,
it raises its trap at its own address, and no slot or record changes but that of the handler's address. -/
def Obligations.DivergenceAndJoins : Prop :=
  (∀ (x : Short) (s : State) (j : Nat) (r : Join), Reads (.jmp x) s → s.cur.recipe = none → s.cur.fsel < s.cur.frags.length →
    s.cur.frag.join = some j → s.cur.joins.getD j none = some r → targetOf s.cur (x.imm.getD 0).toInt = r.jaddr →
    ∃ t, exec (.jmp x) s = .next t ∧ OnlyCtx s t ∧
      ((r.jarr ||| s.cur.frag.fmask) ≠ r.jmask →
        t.cur.frags = s.cur.frags.set s.cur.fsel none ∧
        t.cur.joins = s.cur.joins.set j (some { r with jarr := r.jarr ||| s.cur.frag.fmask, jexm := r.jexm ||| s.cur.frag.amask })) ∧
      ((r.jarr ||| s.cur.frag.fmask) = r.jmask →
        (∀ i q, r.jparent = some i → (s.cur.joins.set j none).getD i none = some q → q.jaddr ≠ r.jaddr) →
        ∃ k, lowestFree (s.cur.frags.set s.cur.fsel none) = some k ∧
          t.cur.frags = (s.cur.frags.set s.cur.fsel none).set k
            (some { pc := r.jaddr, fmask := r.jmask, amask := r.jexm ||| s.cur.frag.amask, join := r.jparent }) ∧
          t.cur.joins = s.cur.joins.set j none)) ∧
  (∀ (x : Short) (s : State), Reads (.nop x) s → s.cur.clause.count ≤ s.cur.clause.pos + 1 →
    ∃ t, exec (.nop x) s = .next t ∧ OnlyCtx s t ∧ Lands s.cur t.cur s.cur.nextHdr) ∧
  (∀ (x : Long) (s : State), Reads (.bra x) s → (x.m.subop = 0 ∧ on (.bra x) x s = 0 ∨ x.m.subop = 2 ∧ (view (.bra x) s).opA x 0 = 0) →
    ∃ t, exec (.bra x) s = .next t ∧ OnlyCtx s t ∧ Lands s.cur t.cur s.cur.nextHdr) ∧
  (∀ form ∈ ([.jmp, .call] : List (Short → Instr)), ∀ (x : Short) (s : State), Reads (form x) s →
    ∃ t, exec (form x) s = .next t ∧ OnlyCtx s t ∧ Lands s.cur t.cur (targetOf s.cur (x.imm.getD 0).toInt)) ∧
  (∀ (x : Short) (s : State), Reads (.ret x) s →
    let a := (view (.ret x) s).uni64 0 x.w.a
    a.toNat % 4 = 0 → a.toNat < 2 ^ 57 → ∃ t, exec (.ret x) s = .next t ∧ OnlyCtx s t ∧ Lands s.cur t.cur a) ∧
  (∀ (x : Long) (s : State), Reads (.bdiv x) s →
    let m := on (.bdiv x) x s
    let imm := x.imm.getD 0
    let target := targetOf s.cur (imm.extractLsb' 16 16).toInt
    let jaddr := targetOf s.cur (imm.extractLsb' 0 16).toInt
    (m = 0 → ∃ t, exec (.bdiv x) s = .next t ∧ OnlyCtx s t ∧ KeepsCtx s.cur t.cur ∧ Went s.cur t.cur s.cur.nextHdr) ∧
    (m ≠ 0 → s.cur.exm &&& ~~~m = 0 →
      ∃ t, exec (.bdiv x) s = .next t ∧ OnlyCtx s t ∧ KeepsCtx s.cur t.cur ∧ Went s.cur t.cur target) ∧
    (∀ k j, m ≠ 0 → s.cur.exm &&& ~~~m ≠ 0 → lowestFree s.cur.frags = some k → lowestFree s.cur.joins = some j →
      (s.cur.frags.getD s.cur.fsel none).isSome = true → s.cur.joins.length ≤ 8 →
      let f := s.cur.frag
      let go := goesTo s.cur s.cur.nextHdr
      let fr := (s.cur.frags.set k (some { pc := target, fmask := m, amask := m, join := some j })).set s.cur.fsel
        (some { f with pc := go.1, fmask := f.fmask &&& ~~~m, amask := f.amask &&& ~~~m, join := some j })
      let jo := s.cur.joins.set j (some { jaddr, jmask := f.fmask, jparent := f.join })
      ∃ t fr1 jo1, exec (.bdiv x) s = .next t ∧ OnlyCtx s t ∧ t.cur.recipe = go.2 ∧ Settles fr jo s.cur.fsel fr1 jo1 ∧
        Settles fr1 jo1 k t.cur.frags t.cur.joins) ∧
    (∀ k j, m ≠ 0 → s.cur.exm &&& ~~~m ≠ 0 → lowestFree s.cur.frags = some k → lowestFree s.cur.joins = some j →
      s.cur.recipe = none → target ≠ jaddr → s.cur.nextHdr ≠ jaddr → (s.cur.frags.getD s.cur.fsel none).isSome = true →
      ∃ t, exec (.bdiv x) s = .next t ∧ OnlyCtx s t ∧ KeepsCtx s.cur t.cur ∧ t.cur.v = s.cur.v ∧ t.cur.s = s.cur.s ∧
        t.cur.frags = (s.cur.frags.set k (some { pc := target, fmask := m, amask := m, join := some j })).set s.cur.fsel
          (some { s.cur.frag with pc := s.cur.nextHdr, fmask := s.cur.frag.fmask &&& ~~~m, amask := s.cur.frag.amask &&& ~~~m,
                                  join := some j }) ∧
        t.cur.joins = s.cur.joins.set j (some { jaddr, jmask := s.cur.frag.fmask, jparent := s.cur.frag.join })) ∧
    (m ≠ 0 → s.cur.exm &&& ~~~m ≠ 0 → lowestFree s.cur.frags = none → s.cur.kind = .group → s.cur.inh = false → s.cur.tvec ≠ 0 →
      ∃ t, exec (.bdiv x) s = .next t ∧ Entered s t 4 0 0 s.cur.exm s.cur.instrPc s.cur.tvec) ∧
    (∀ k, m ≠ 0 → s.cur.exm &&& ~~~m ≠ 0 → lowestFree s.cur.frags = some k → lowestFree s.cur.joins = none →
      s.cur.kind = .group → s.cur.inh = false → s.cur.tvec ≠ 0 →
      ∃ t, exec (.bdiv x) s = .next t ∧ Entered s t 4 1 0 s.cur.exm s.cur.instrPc s.cur.tvec))

/-- R24, R25, R132, R300: `exit` takes its fragment's lanes out of the group, its fragments and its join records; a fragment or a
record left with none is freed, and a record that all its lanes have now reached completes; a group with no member left, or a control
thread, ends, and its slot is free at once where its counters read zero. -/
def Obligations.Exits : Prop :=
  ∀ (x : Short) (s : State), Reads (.exit x) s → s.cur.uid ≠ 0 → (∀ d ∈ s.others, d.uid ≠ s.cur.uid ∧ d.uid ≠ 0) →
    ∃ t, exec (.exit x) s = .next t ∧
      ((s.cur.kind = .thread ∨ (s.cur.joins.length ≤ 8 ∧ (∀ r, some r ∉ cutJoins s.cur.frag.fmask s.cur.joins) ∧
          ∀ f, some f ∉ cutFrags s.cur.frag.fmask s.cur.frags)) →
        (s.cur.idle = true → s.teams = [] ∨ s.cur.copyErrs = [] → t.ctx s.cur.uid = none) ∧
        (s.cur.idle = false → ∃ c, t.ctx s.cur.uid = some c ∧ c.ended = true ∧ c.frags = [])) ∧
      (s.cur.kind = .group → s.cur.joins.length ≤ 8 →
        ((∃ f, some f ∈ cutFrags s.cur.frag.fmask s.cur.frags) ∨ ∃ r, some r ∈ cutJoins s.cur.frag.fmask s.cur.joins) →
        t.cur.uid = s.cur.uid ∧ t.cur.ended = s.cur.ended ∧ t.cur.clause = {} ∧
        Left s.cur.frag.fmask s.cur.frags s.cur.joins t.cur.frags t.cur.joins ∧
        t.cur.v = s.cur.v ∧ t.cur.s = s.cur.s ∧ t.cur.p = s.cur.p ∧ t.mem = s.mem)

/-- R20, R29, R34, R133, R134, R199: EXM, MODE, indexed registers and `nop`; `racq` and `rrel` change the acquired count by 16
for each block, new registers reading 0, where the limits hold and the units are free. -/
def Obligations.MasksModesAndRegisters : Prop :=
  (∀ (x : Short) (s : State), Reads (.wexm x) s →
    let a := (view (.wexm x) s).uni (x.imm.getD 0) x.w.a
    let c := s.cur.setFrag { s.cur.frag with amask := a &&& s.cur.frag.fmask }
    ∃ t, exec (.wexm x) s = .next t ∧ OnlyCtx s t ∧ KeepsCtx s.cur t.cur ∧ t.cur.v = s.cur.v ∧ t.cur.s = s.cur.s ∧
      t.cur.p = s.cur.p ∧ t.cur.mode = s.cur.mode ∧ Passed c t.cur (Instr.size (.wexm x)) none) ∧
  (∀ (x : Short) (s : State), Reads (.wmode x) s →
    let a := (view (.wmode x) s).uni (x.imm.getD 0) x.w.a
    1 ≤ a.toNat % 8 → a.toNat % 8 ≤ 6 → a.toNat / 16 % 16 ≤ 8 → a.getLsbD 8 = false →
    ∃ t, exec (.wmode x) s = .next t ∧ OnlyCtx s t ∧ KeepsCtx s.cur t.cur ∧ t.cur.v = s.cur.v ∧ t.cur.s = s.cur.s ∧
      t.cur.p = s.cur.p ∧ t.cur.mode = a ∧ Passed s.cur t.cur (Instr.size (.wmode x)) none) ∧
  (∀ (x : Short) (s : State), Reads (.rdidx x) s →
    let c := view (.rdidx x) s
    let idx := c.src (x.imm.getD 0) x.w.a
    (∀ j, j < 32 → s.cur.exm.getLsbD j = true → (idx j).toNat < s.cur.acq) →
    ∃ t, exec (.rdidx x) s = .next t ∧ OnlyCtx s t ∧
      VecDone (.rdidx x) x.w s.cur.exm (fun j => s.cur.vreg (idx j).toNat j) 0 s t) ∧
  (∀ (x : Short) (s : State), Reads (.wridx x) s →
    let c := view (.wridx x) s
    let idx := c.src (x.imm.getD 0) x.w.a
    (∀ j, j < 32 → s.cur.exm.getLsbD j = true → (idx j).toNat < s.cur.acq) →
    ∃ t, exec (.wridx x) s = .next t ∧ OnlyCtx s t ∧ KeepsCtx s.cur t.cur ∧ t.cur.s = s.cur.s ∧ t.cur.p = s.cur.p ∧
      t.cur.mode = s.cur.mode ∧ Passed s.cur t.cur (Instr.size (.wridx x)) none ∧
      ∀ q j, j < 32 → t.cur.vreg q j =
        if s.cur.exm.getLsbD j = true ∧ q = (idx j).toNat then c.src (x.imm.getD 0) x.w.b j else s.cur.vreg q j) ∧
  (∀ (x : Short) (s : State), Reads (.nop x) s → ∃ t, exec (.nop x) s = .next t ∧ OnlyCtx s t ∧ Quiet (.nop x) s t) ∧
  (∀ (x : Short) (s : State), Reads (.racq x) s →
    let a := ((view (.racq x) s).uni (x.imm.getD 0) x.w.a).toNat
    let new := s.cur.acq + 16 * a
    new ≤ 128 → s.cur.kind = .group → s.cur.ended = false → s.cur.uid ≠ 0 →
    (∃ f, s.cur.frags.getD s.cur.fsel none = some f ∧ f.racq = none) → s.cur.racqs = [] → (∀ d ∈ s.others, d.racqs = []) →
    unitsOf new - unitsOf s.cur.acq ≤ s.freeUnits s.cur.loc.die s.cur.loc.core →
    ∃ t, exec (.racq x) s = .next t ∧ t = { s with cur := t.cur, uids := t.uids } ∧ t.cur.acq = new ∧ t.cur.s = s.cur.s ∧
      t.cur.p = s.cur.p ∧ t.cur.mode = s.cur.mode ∧ Passed s.cur t.cur (Instr.size (.racq x)) none ∧
      (∀ q j, j < 32 → q < s.cur.acq → t.cur.vreg q j = s.cur.vreg q j) ∧
      (a ≠ 0 → ∀ q j, j < 32 → s.cur.acq ≤ q → t.cur.vreg q j = 0)) ∧
  (∀ (x : Short) (s : State), Reads (.rrel x) s →
    let a := ((view (.rrel x) s).uni (x.imm.getD 0) x.w.a).toNat
    32 + 16 * a ≤ s.cur.acq → Apart s → s.cur.racqs = [] →
    ∃ t, exec (.rrel x) s = .next t ∧ ((∀ d ∈ s.others, d.racqs = []) → OnlyCtx s t) ∧ t.cur.acq = s.cur.acq - 16 * a ∧ t.cur.s = s.cur.s ∧ t.cur.p = s.cur.p ∧
      t.cur.mode = s.cur.mode ∧ Passed s.cur t.cur (Instr.size (.rrel x)) none ∧
      (∀ q j, j < 32 → q < s.cur.acq - 16 * a → t.cur.vreg q j = s.cur.vreg q j))

/-! ### Traps and system registers -/

/-- R60, R62, R153, R155, R156, R214, R311: `trap`, `svc`, `ill` and an unassigned word enter their traps, and so does `brk` unless
DBGCTL [0] lets it halt the group; a trap inside a handler, with a trap vector of 0, or in a control thread, one of a refused operand,
of a misaligned address or of `tret` too, ends the context and abandons its team. That `svc` tests its own vector alone, and enters its handler with TVEC 0 too, is the model's choice (log 52):
R155 makes a trap with TVEC 0 double, and R156 enters `svc` at SVEC. -/
def Obligations.TrapInstructions : Prop :=
  (∀ (x : Short) (s : State), Reads (.trap x) s → CanTrap s → s.cur.tvec ≠ 0 →
    ∃ t, exec (.trap x) s = .next t ∧
      Entered s t 0x10 0 ((x.imm.getD 0).setWidth 64) s.cur.exm s.cur.nextHdr s.cur.tvec ∧ t.cur.priv = s.cur.priv) ∧
  (∀ (x : Short) (s : State), Reads (.svc x) s → CanTrap s → s.cur.svec ≠ 0 → s.cur.ended = false →
    ∃ t, exec (.svc x) s = .next t ∧
      Entered s t 0x12 0 (((view (.svc x) s).uni (x.imm.getD 0) x.w.a).setWidth 64) s.cur.exm s.cur.nextHdr s.cur.svec ∧
      t.cur.priv = true) ∧
  (∀ (x : Short) (s : State), Reads (.brk x) s →
    (s.cur.dbgctl.getLsbD 0 = false → CanTrap s → s.cur.tvec ≠ 0 →
      ∃ t, exec (.brk x) s = .next t ∧ Entered s t 0x11 0 0 s.cur.exm
        (if s.cur.clause.pos + 1 < s.cur.clause.count then s.cur.clause.hdr + word64 (4 * (2 + s.cur.clause.pos)) else s.cur.nextHdr)
        s.cur.tvec ∧ t.cur.priv = s.cur.priv) ∧
    (s.cur.dbgctl.getLsbD 0 = true →
      ∃ t, exec (.brk x) s = .next t ∧ OnlyCtx s t ∧ t.cur.halted = true ∧ t.cur.v = s.cur.v ∧ t.cur.s = s.cur.s ∧
        t.cur.p = s.cur.p ∧ t.cur.mode = s.cur.mode ∧ Passed s.cur t.cur 1 none)) ∧
  (∀ (x : Short) (s : State), Reads (.ill x) s → CanTrap s → s.cur.tvec ≠ 0 →
    ∃ t, exec (.ill x) s = .next t ∧ Entered s t 1 1 0 s.cur.exm s.cur.instrPc s.cur.tvec) ∧
  (∀ (w : Word) (s : State), CanTrap s → s.cur.tvec ≠ 0 →
    ∃ t, exec (.unassignedOpcode w) s = .next t ∧ Entered s t 1 1 0 s.cur.exm s.cur.instrPc s.cur.tvec) ∧
  (∀ (w : Word) (s : State), s.cur.uid ≠ 0 → (∀ d ∈ s.others, d.uid ≠ s.cur.uid) →
    (s.cur.inh = true ∨ s.cur.tvec = 0 ∨ s.cur.kind = .thread) →
    Doubled s (exec (.unassignedOpcode w) s)) ∧
  (∀ (x : Short) (s : State), s.cur.uid ≠ 0 → (∀ d ∈ s.others, d.uid ≠ s.cur.uid) →
    let ends := fun (vec : Word64) => s.cur.inh = true ∨ vec = 0 ∨ s.cur.kind = .thread
    (∀ form ∈ ([.trap, .ill] : List (Short → Instr)), Reads (form x) s → ends s.cur.tvec → Doubled s (exec (form x) s)) ∧
    (Reads (.brk x) s → s.cur.dbgctl.getLsbD 0 = false → ends s.cur.tvec → Doubled s (exec (.brk x) s)) ∧
    (Reads (.svc x) s → ends s.cur.svec → Doubled s (exec (.svc x) s)) ∧
    (Reads (.tret x) s → s.cur.inh = false → s.cur.tvec = 0 ∨ s.cur.kind = .thread → Doubled s (exec (.tret x) s)) ∧
    (Reads (.tret x) s → s.cur.inh = true → s.cur.epc.toNat % 4 ≠ 0 ∨ 2 ^ 57 ≤ s.cur.epc.toNat → Doubled s (exec (.tret x) s))) ∧
  (∀ (i : Instr) (n : Enc) (r : Trap) (s : State), i.enc = some n → s.cur.checkOperands i.shape n = some r →
    s.cur.uid ≠ 0 → (∀ d ∈ s.others, d.uid ≠ s.cur.uid) → (s.cur.inh = true ∨ s.cur.tvec = 0 ∨ s.cur.kind = .thread) →
    Doubled s (exec i s)) ∧
  (∀ r ∈ alignRows, ∀ (x : Mem) (s : State) (j : Nat), Reads (r.form x) s →
    let c := view (r.form x) s
    (∀ k, k < 32 → (onD (r.form x) x s).getLsbD k = true → r.first x c k = true) →
    j < 32 → (onD (r.form x) x s).getLsbD j = true → r.aligned x (r.addr x c j) = false →
    s.cur.uid ≠ 0 → (∀ d ∈ s.others, d.uid ≠ s.cur.uid) → (s.cur.inh = true ∨ s.cur.tvec = 0 ∨ s.cur.kind = .thread) →
    Doubled s (exec (r.form x) s))

/-- R62, R153, R413: every instruction whose operands a check of order 2 or 3 refuses enters that trap at its own address
and has no other effect; a vector source at or above the acquired count is register-bound, with its number in TVAL. -/
def Obligations.OperandTraps : Prop :=
  (∀ (i : Instr) (n : Enc) (r : Trap) (s : State), i.enc = some n → s.cur.checkOperands i.shape n = some r → CanTrap s →
    s.cur.tvec ≠ 0 →
    ∃ t, exec i s = .next t ∧ Entered s t r.code r.detail r.tval (r.lanes.getD s.cur.exm) s.cur.instrPc s.cur.tvec) ∧
  (∀ e ∈ shortTable, ∀ (x : Short) (n : BitVec 7) (k : BitVec 5) (s : State), x.w.a = .v n → x.w.b = .const k →
    s.cur.acq ≤ n.toNat → CanTrap s → s.cur.tvec ≠ 0 →
    ∃ t, exec (e.1 x) s = .next t ∧ Entered s t 3 0 (word64 n.toNat) s.cur.exm s.cur.instrPc s.cur.tvec)

/-- R154: `tret` clears INH, takes LVL from TCAUSE, restores AMASK within FMASK, and goes on at EPC: in the saved clause
where EPC is as entry wrote it, at a header otherwise; outside a handler it raises illegal-instruction. -/
def Obligations.TrapReturn : Prop :=
  ∀ (x : Short) (s : State), Reads (.tret x) s →
    (CanTrap s → s.cur.tvec ≠ 0 →
      ∃ t, exec (.tret x) s = .next t ∧ Entered s t 1 1 0 s.cur.exm s.cur.instrPc s.cur.tvec) ∧
    (∀ sv, s.cur.inh = true → s.cur.epc.toNat % 4 = 0 → s.cur.epc.toNat < 2 ^ 57 → s.cur.saved = some sv →
      (s.cur.frags.getD s.cur.fsel none).isSome = true →
      ∃ t, exec (.tret x) s = .next t ∧ OnlyCtx s t ∧ t.cur.tcause = s.cur.tcause &&& 0x7FFFFFFF ∧
        t.cur.priv = s.cur.tcause.getLsbD 24 ∧ t.cur.saved = none ∧ t.cur.v = s.cur.v ∧ t.cur.s = s.cur.s ∧
        t.cur.p = s.cur.p ∧ t.cur.mode = s.cur.mode ∧ t.cur.epc = s.cur.epc ∧ t.cur.tvec = s.cur.tvec ∧
        t.cur.tval = s.cur.tval ∧ t.cur.tlanes = s.cur.tlanes ∧ t.cur.ctr = s.cur.ctr ∧
        (s.cur.epc = sv.epc → sv.clause.isOpen = true →
          t.cur.clause = sv.clause ∧ t.cur.frags = s.cur.frags.set s.cur.fsel
            (some { s.cur.frag with amask := sv.amask &&& s.cur.frag.fmask, pc := sv.clause.hdr })) ∧
        ((s.cur.epc ≠ sv.epc ∨ sv.clause.isOpen = false) →
          t.cur.clause = {} ∧ Lands (s.cur.setFrag { s.cur.frag with amask := sv.amask &&& s.cur.frag.fmask }) t.cur s.cur.epc) ∧
        ((s.cur.epc ≠ sv.epc ∨ sv.clause.isOpen = false) → s.cur.recipe = none → s.cur.frag.join = none →
          t.cur.clause = {} ∧ t.cur.frags = s.cur.frags.set s.cur.fsel
            (some { s.cur.frag with amask := sv.amask &&& s.cur.frag.fmask, pc := s.cur.epc })))

/-- R146, R158, R159: `rdsys` gives each system register's value; `wrsys` replaces the register and nothing else, SRSEL and
DBGCTL keeping their defined bits; a generator written with 0 takes its reset value; at user level, naming a supervisor
register raises the trap of code 5 with the register's number in DETAIL. -/
def Obligations.SystemRegisters : Prop :=
  (∀ r ∈ sysRows, ∀ (x : Short) (s : State), Reads (.rdsys x) s → x.w.b.toByte.toNat = r.num →
    (r.sup = true → s.cur.priv = true) →
    ∃ t, exec (.rdsys x) s = .next t ∧ OnlyCtx s t ∧
      (r.wide = true → Scal64Done (.rdsys x) x.w (r.value { s with cur := view (.rdsys x) s }) s t) ∧
      (r.wide = false → ScalDone (.rdsys x) x.w ((r.value { s with cur := view (.rdsys x) s }).setWidth 32) 0 s t)) ∧
  (∀ r ∈ sysWrites, ∀ (x : Short) (s : State), Reads (.wrsys x) s → x.w.b.toByte.toNat = r.num →
    (r.sup = true → s.cur.priv = true) →
    let c := view (.wrsys x) s
    let a := if r.wide then c.uni64 (x.imm.getD 0) x.w.a else (c.uni (x.imm.getD 0) x.w.a).setWidth 64
    ∃ t, exec (.wrsys x) s = .next t ∧ OnlyCtx s t ∧ KeepsCtx (r.put s.cur a) t.cur ∧ t.cur.v = s.cur.v ∧ t.cur.s = s.cur.s ∧
      t.cur.p = s.cur.p ∧ t.cur.mode = s.cur.mode ∧ Passed s.cur t.cur (Instr.size (.wrsys x)) none) ∧
  (∀ (x : Short) (s : State), Reads (.wrsys x) s → x.w.b.toByte.toNat = 0x12 → s.cur.priv = true →
    let a := (view (.wrsys x) s).uni64 (x.imm.getD 0) x.w.a
    ∃ t, exec (.wrsys x) s = .next t ∧ t = { s with cur := t.cur, gens := t.gens } ∧ Quiet (.wrsys x) s t ∧
      ∀ k, t.gen k = if k = genKey s.cur.loc (s.cur.srsel.toNat % 8) then (if a = 0 then genReset else a) else s.gen k) ∧
  (∀ form ∈ ([.rdsys, .wrsys] : List (Short → Instr)), ∀ (x : Short) (s : State), Reads (form x) s →
    x.w.b.toByte.toNat ∈ [0x10, 0x11, 0x12, 0x13] → s.cur.priv = false → CanTrap s → s.cur.tvec ≠ 0 →
    ∃ t, exec (form x) s = .next t ∧ Entered s t 5 x.w.b.toByte.toNat 0 s.cur.exm s.cur.instrPc s.cur.tvec)

/-! ### Frame tiles and barriers -/

/-- R25, R177, R201, R203, R207: `susp` at a declared point, its entry read anew, with its registers acquired and nothing in flight,
writes one row for each enabled lane with the lane's live registers, its monitor bound to it: in the lowest free rows of the pair's tile;
in a free tile, bound to the pair, where it has none; in spill slots where none is free; or, where the tile has too few free rows, after
the 32 oldest sleeping ones have gone to spill slots. Where none of these can be, it stalls. Those lanes leave the group; with no lane
enabled it only moves on. Forms and readings of the model: log 51. -/
def Obligations.Suspends : Prop :=
  ∀ (x : Short) (s : State) (pt' : Point), Reads (.susp x) s → HasTeam s →
    let p := (x.imm.getD 0).toNat
    (s.team s.cur.team).kern.named p = some pt' → s.cur.inh = false →
    let pt := s.pointNow (s.team s.cur.team) pt'
    let u := s.pointUse (s.team s.cur.team) pt'
    let T := u.team s.cur.team
    let n := (lanesOf s.cur.exm).length
    let sleeping := (T.inTile p).filter (fun r => !r.woke)
    let still := u.bindNext T.die T.core = u
    let Out' := fun (places : List Place) => ∃ t, exec (.susp x) s = .next t ∧ RowsWritten u t p pt places
    (∀ r ∈ pt.live, r < s.cur.acq) →
    (s.cur.idle = false → ∃ t, exec (.susp x) s = .next t ∧ Stays u t (.susp 0 0)) ∧
    (s.cur.idle = true → s.cur.exm = 0 → ∃ t, exec (.susp x) s = .next t ∧ OnlyCtx u t ∧ Quiet (.susp x) s t) ∧
    (s.cur.idle = true → s.cur.exm ≠ 0 → s.cur.uid ≠ 0 → (∀ d ∈ s.others, d.uid ≠ s.cur.uid) → (T.rows.map (·.age)).Nodup →
      (∀ r ∈ T.rows, r.age ≤ u.uids) → (u.mons.map (·.id)).Nodup →
      (∀ k, (T.pair p).tile = some k → n ≤ (T.freeRows p).length → Out' ((T.freeRows p).map .tile)) ∧
      (∀ k, still → (T.pair p).tile = none → u.freeTile T.die T.core = some k →
        ∃ t, exec (.susp x) s = .next t ∧ RowsWritten u t p pt ((List.range 64).map .tile) ∧ ((t.team s.cur.team).pair p).tile = some k) ∧
      (still → (T.pair p).tile = none → u.freeTile T.die T.core = none → 32 ≤ T.freeSpills.length → Out' (T.freeSpills.map .spill)) ∧
      (∀ k, still → (T.pair p).tile = some k → (T.freeRows p).length < n → 32 ≤ sleeping.length → 32 ≤ T.freeSpills.length →
        ∃ t places, exec (.susp x) s = .next t ∧ RowsWritten u t p pt places ∧ (∀ q ∈ places, ∃ k, k < 64 ∧ q = .tile k) ∧
          ∀ r ∈ sleeping, 32 ≤ sleeping.countP (fun q => decide (q.age < r.age)) ∨
            ∃ q ∈ (t.team s.cur.team).rows, q.age = r.age ∧ q.cols = r.cols ∧ ∃ k ∈ T.freeSpills, q.place = .spill k) ∧
      (still → ((∃ k, (T.pair p).tile = some k ∧ (T.freeRows p).length < n ∧ (sleeping.length < 32 ∨ T.freeSpills.length < 32)) ∨
          ((T.pair p).tile = none ∧ u.freeTile T.die T.core = none ∧ T.freeSpills.length < 32)) →
        ∃ t, exec (.susp x) s = .next t ∧ Stays u t (.susp p n)) ∧
      (∀ k, (T.pair p).tile = some k → n ≤ (T.freeRows p).length → (s.cur.frags.getD s.cur.fsel none).isSome = true →
        s.cur.joins.length ≤ 8 →
        ∃ t, exec (.susp x) s = .next t ∧
          ((∀ f, some f ∉ cutFrags s.cur.exm s.cur.frags) → (∀ r, some r ∉ cutJoins s.cur.exm s.cur.joins) →
            ∀ c, t.ctx s.cur.uid = some c → c.ended = true) ∧
          ((∃ f, some f ∈ cutFrags s.cur.exm s.cur.frags) ∨ (∃ r, some r ∈ cutJoins s.cur.exm s.cur.joins) →
            t.cur.clause = {} ∧ t.cur.v = s.cur.v ∧ t.cur.s = s.cur.s ∧
            (s.cur.frag.fmask &&& ~~~s.cur.exm = 0 → Left s.cur.exm s.cur.frags s.cur.joins t.cur.frags t.cur.joins) ∧
            (s.cur.frag.fmask &&& ~~~s.cur.exm ≠ 0 → ∃ d : Ctx, d.fsel = s.cur.fsel ∧ d.recipe = s.cur.recipe ∧
              Left s.cur.exm s.cur.frags s.cur.joins d.frags d.joins ∧ Lands d t.cur s.cur.nextHdr))))

/-- R204, R208, R209: `fwake` wakes the oldest B sleeping rows, `fthr` sets THRESH, `fflush` makes a load due where a row is
woken, in the tile or outside, `fstat` counts the sleeping rows, and `fxform` transforms a live column of every sleeping row.
Forms and readings of the model: log 42. -/
def Obligations.FrameInstructions : Prop :=
  (∀ (x : Short) (s : State) (pt : Point), Reads (.fwake x) s → HasTeam s → ((s.team s.cur.team).rows.map (·.age)).Nodup →
    let c := view (.fwake x) s
    let n := (c.uni (x.imm.getD 0) x.w.b).toNat
    (s.team s.cur.team).kern.named (c.uni (x.imm.getD 0) x.w.a).toNat = some pt →
    ∃ t, exec (.fwake x) s = .next t ∧ Quiet (.fwake x) s t ∧ sleepers t pt.id = sleepers s pt.id - n ∧
      ∀ r ∈ (t.team s.cur.team).rows, asleep pt.id r = true →
        n ≤ (s.team s.cur.team).rows.countP (fun q => asleep pt.id q && decide (q.age < r.age))) ∧
  (∀ (x : Short) (s : State) (pt : Point), Reads (.fthr x) s → HasTeam s →
    let c := view (.fthr x) s
    let n := (c.uni (x.imm.getD 0) x.w.b).toNat
    (s.team s.cur.team).kern.named (c.uni (x.imm.getD 0) x.w.a).toNat = some pt → 1 ≤ n → n ≤ 32 →
    ∃ t, exec (.fthr x) s = .next t ∧ t = { s with cur := t.cur, teams := t.teams } ∧ Quiet (.fthr x) s t ∧
      (t.team s.cur.team).pair pt.id = { (s.team s.cur.team).pair pt.id with thresh := some n }) ∧
  (∀ (x : Short) (s : State) (pt : Point), Reads (.fflush x) s → HasTeam s →
    (s.team s.cur.team).kern.named ((view (.fflush x) s).uni (x.imm.getD 0) x.w.a).toNat = some pt →
    ∃ t, exec (.fflush x) s = .next t ∧ t = { s with cur := t.cur, teams := t.teams } ∧ Quiet (.fflush x) s t ∧
      ((∃ r ∈ (s.team s.cur.team).rows, r.point = pt.id ∧ r.woke = true) →
        (t.team s.cur.team).pair pt.id = { (s.team s.cur.team).pair pt.id with flushDue := true }) ∧
      ((∀ r ∈ (s.team s.cur.team).rows, r.point = pt.id → r.woke = false) → OnlyCtx s t)) ∧
  (∀ (x : Short) (s : State) (pt : Point), Reads (.fstat x) s →
    (s.team s.cur.team).kern.named ((view (.fstat x) s).uni (x.imm.getD 0) x.w.a).toNat = some pt →
    ∃ t, exec (.fstat x) s = .next t ∧ OnlyCtx s t ∧ ScalDone (.fstat x) x.w (word (sleepers s pt.id)) 0 s t) ∧
  (∀ (x : Long) (s : State) (pt : Point) (j : Nat), Reads (.fxform x) s → HasTeam s →
    ((s.team s.cur.team).rows.map (·.age)).Nodup →
    let c := view (.fxform x) s
    let f := fun (r : Row) => columnOf x.m.subop.toNat (effRnd c.mode false x.m.rnd) (r.cols.getD j 0) (c.opB x 0)
    (s.team s.cur.team).kern.named (c.opA x 0).toNat = some pt → pt.live.findIdx? (· == x.w.dst.toNat) = some j →
    ∃ t, exec (.fxform x) s = .next t ∧ KeepsCtx s.cur t.cur ∧ t.cur.v = s.cur.v ∧ t.cur.s = s.cur.s ∧ t.cur.p = s.cur.p ∧
      t.cur.mode = s.cur.mode ||| joinFlags (((s.team s.cur.team).rows.filter (asleep pt.id)).map (fun r => (f r).2)) ∧
      Passed s.cur t.cur (Instr.size (.fxform x)) none ∧
      (t.team s.cur.team).rows = (s.team s.cur.team).rows.map (fun r =>
        if asleep pt.id r then { r with cols := r.cols.set j (f r).1 } else r))

/-- R213: barrier objects: `binit` writes the object, `arrive` counts down or turns the phase over and answers the phase it
met, and `bwait` goes on once the phase differs from B. R212: the team barrier: a fragment that the barrier let go moves on; the
last to arrive moves on, past the clause's end at the next header, and lets go every fragment of every resident group of the team that
waits there, its own group's too; any other waits. Forms and readings of the model: log 8. -/
def Obligations.Barriers : Prop :=
  (∀ (x : Short) (s : State), Reads (.binit x) s → HasTeam s →
    let c := view (.binit x) s
    let a := (c.uni (x.imm.getD 0) x.w.a).toNat
    let n := (c.uni (x.imm.getD 0) x.w.b).toNat
    a % 16 = 0 → a + 16 ≤ (s.team s.cur.team).kern.scratch → n ≠ 0 →
    ∃ t, exec (.binit x) s = .next t ∧ t = { s with cur := t.cur, teams := t.teams } ∧ Quiet (.binit x) s t ∧
      (t.team s.cur.team).rd a 4 = n ∧ (t.team s.cur.team).rd (a + 4) 4 = n ∧ (t.team s.cur.team).rd (a + 8) 8 = 0 ∧
      ∀ k, k < a ∨ a + 16 ≤ k → (t.team s.cur.team).bytes k 1 = (s.team s.cur.team).bytes k 1) ∧
  (∀ (x : Short) (s : State), Reads (.arrive x) s → HasTeam s →
    let u := s.team s.cur.team
    let a := ((view (.arrive x) s).uni (x.imm.getD 0) x.w.a).toNat
    let pending := u.rd (a + 4) 4
    let phase := u.rd (a + 8) 4
    a % 16 = 0 → a + 16 ≤ u.kern.scratch → u.abandoned = false → s.cur.counter 1 = 0 → pending ≠ 0 →
    ∃ t, exec (.arrive x) s = .next t ∧ t = { s with cur := t.cur, teams := t.teams } ∧
      ScalDone (.arrive x) x.w (word phase) 0 s t ∧ (t.team s.cur.team).rd a 4 = u.rd a 4 ∧
      (t.team s.cur.team).rd (a + 4) 4 = (if pending = 1 then u.rd a 4 else pending - 1) ∧
      (t.team s.cur.team).rd (a + 8) 4 = (if pending = 1 then (phase + 1) % 2 ^ 32 else phase)) ∧
  (∀ (x : Short) (s : State), Reads (.bwait x) s →
    let c := view (.bwait x) s
    let a := (c.uni (x.imm.getD 0) x.w.a).toNat
    let phase := (s.team s.cur.team).rd (a + 8) 4
    a % 16 = 0 → a + 16 ≤ (s.team s.cur.team).kern.scratch → (s.team s.cur.team).abandoned = false →
    (phase ≠ (c.uni (x.imm.getD 0) x.w.b).toNat →
      ∃ t, exec (.bwait x) s = .next t ∧ OnlyCtx s t ∧ Quiet (.bwait x) s t) ∧
    (phase = (c.uni (x.imm.getD 0) x.w.b).toNat → ∃ t, exec (.bwait x) s = .next t ∧ Stays s t .bwait)) ∧
  (∀ (x : Short) (s : State), Reads (.bar x) s → (s.team s.cur.team).abandoned = false → s.cur.kind = .group →
    s.cur.ended = false → (s.cur.frags.getD s.cur.fsel none).isSome = true → (∀ d ∈ s.others, d.uid ≠ s.cur.uid) →
    let n := ((view (.bar x) s).uni (x.imm.getD 0) x.w.a).toNat
    let b := s.cur.frag.bar.getD n
    let s1 := s.upd (fun c => c.setFrag { c.frag with bar := some b })
    let all := (s1.groupsOf s.cur.team).all (·.arrivedAt b)
    let opened := fun (fr : List (Option Frag)) => fr.map (Option.map (fun f => if f.bar = some b then { f with barGo := true } else f))
    let gone : Frag := { s.cur.frag with bar := none, barGo := false }
    (s.cur.frag.barGo = true →
      ∃ t, exec (.bar x) s = .next t ∧ OnlyCtx s t ∧ KeepsCtx s.cur t.cur ∧ t.cur.v = s.cur.v ∧ t.cur.s = s.cur.s ∧
        t.cur.p = s.cur.p ∧ t.cur.mode = s.cur.mode ∧ Passed (s.cur.setFrag gone) t.cur (Instr.size (.bar x)) none) ∧
    (s.cur.frag.barGo = false → b ≤ 15 → all = true →
      ∃ t, exec (.bar x) s = .next t ∧ t = { s with cur := t.cur, others := t.others } ∧ KeepsCtx s.cur t.cur ∧
        t.cur.v = s.cur.v ∧ t.cur.s = s.cur.s ∧ t.cur.p = s.cur.p ∧ t.cur.mode = s.cur.mode ∧
        Passed { s.cur with frags := (opened s.cur.frags).set s.cur.fsel (some gone) } t.cur (Instr.size (.bar x)) none ∧
        (Apart s → ∀ d ∈ s.others, t.ctx d.uid = some (if d.kind = .group ∧ d.team = s.cur.team ∧ d.ended = false
          then { d with frags := opened d.frags } else d))) ∧
    (s.cur.frag.barGo = false → b ≤ 15 → all = false →
      ∃ t, exec (.bar x) s = .next t ∧ OnlyCtx s t ∧ t.cur.stall = some .bar ∧ t.cur.clause = s.cur.clause ∧
        t.cur.v = s.cur.v ∧ t.cur.s = s.cur.s ∧ t.cur.p = s.cur.p ∧ t.cur.mode = s.cur.mode ∧ t.cur.joins = s.cur.joins ∧
        t.cur.frags = s.cur.frags.set s.cur.fsel (some { s.cur.frag with bar := some b })) ∧
    (s.cur.frag.bar = none → s.cur.frag.barGo = false → 15 < n → s.cur.inh = false → s.cur.tvec ≠ 0 →
      ∃ t, exec (.bar x) s = .next t ∧ Entered s t 2 0 0 s.cur.exm s.cur.instrPc s.cur.tvec))

/-! ### Control threads: the matrix array, the rings, collectives and launches -/

/-- R225, R313 to R316, R321, R326, R327, R329: reservations, with the format record that the hardware reads as a second agent;
releases, predicates, signatures and the matrix fence.
Forms and readings of the model: log 26. -/
def Obligations.MatrixRegisters : Prop :=
  (∀ (x : Eng) (s : State) (r : Nat), Reads (.mres x) s →
    let h := x.w.dst.toNat
    let kind := x.fld 9 8
    let a := ((view (.mres x) s).uni x.immW x.w.a).toNat
    let len := rangeLen r kind
    let u := State.fmtTouch { s with cur := view (.mres x) s } (s.fnOf s.cur) s.myImage (x.fld 7 0)
    ((s.quad (quadOf s)).rsvAt h).team = 0 → u.fmtRecord (s.fnOf s.cur) s.myImage (x.fld 7 0) = some r → fmtLegal r = true →
    (if kind = 1 then fmtKind r < 3 else fmtLegalA r = true) →
    (kind = 2 → a % 64 = 0 → a + len ≤ (s.team s.cur.team).kern.scratch →
      ∃ t, exec (.mres x) s = .next t ∧ OnlyQuad u t ∧ Quiet (.mres x) s t ∧
        (t.quad (quadOf s)).rsvAt h = { team := s.cur.team, kind, pri := x.fld 11 10, fmt := x.fld 7 0, fmtRec := r, blk := fmtBlock r, base := a, len, soff := rangeSoff r kind, zoff := rangeZoff r kind, time := s.time }) ∧
    (∀ k0, kind ≠ 2 → (s.quad (quadOf s)).freeUnits ((len + 4095) / 4096) = some k0 → s.cur.resSeq = 0 →
      (∀ d ∈ s.ctxs, d.uid = s.cur.uid ∨ d.resSeq = 0) →
      ∃ t, exec (.mres x) s = .next t ∧ t = { u with cur := t.cur, quads := t.quads, uids := t.uids } ∧ Quiet (.mres x) s t ∧
        (t.quad (quadOf s)).rsvAt h = { team := s.cur.team, kind, pri := x.fld 11 10, fmt := x.fld 7 0, fmtRec := r, blk := fmtBlock r, base := 4096 * k0, len, soff := rangeSoff r kind, zoff := rangeZoff r kind, time := s.time } ∧
        ∀ k, k < len → Cells.get 0 (t.quad (quadOf s)).obuf (4096 * k0 + k) = 0)) ∧
  (∀ (x : Eng) (s : State), Reads (.mrel x) s → s.cur.team ≠ 0 →
    let n := ((view (.mrel x) s).uni x.immW x.w.a).toNat
    let q := s.quad (quadOf s)
    (∀ sub, x.fld 1 0 = sub → ¬ Using s (quadOf s) (100 * sub + n)) →
    (x.fld 1 0 = 0 → n ≤ 15 → (q.rsvAt n).team = s.cur.team →
      ∃ t, exec (.mrel x) s = .next t ∧ OnlyQuad s t ∧ Quiet (.mrel x) s t ∧ (t.quad (quadOf s)).rsvAt n = {}) ∧
    (x.fld 1 0 = 1 → n ≤ 63 → (q.slotAt n).team = s.cur.team → q.filling n none = false →
      ∃ t, exec (.mrel x) s = .next t ∧ OnlyQuad s t ∧ Quiet (.mrel x) s t ∧ (t.quad (quadOf s)).slotAt n = {}) ∧
    (2 ≤ x.fld 1 0 → n ≤ 15 → (q.tileAt n).team = s.cur.team →
      ∃ t, exec (.mrel x) s = .next t ∧ OnlyQuad s t ∧ Quiet (.mrel x) s t ∧ (t.quad (quadOf s)).tileAt n = {})) ∧
  (∀ (x : Eng) (s : State), Reads (.mpred x) s →
    let c := view (.mpred x) s
    let n := (c.uni x.immW x.w.a).toNat
    let lo := (c.uni x.immW x.w.b).toNat
    let k := x.fld 1 0
    let v := (2 ^ n - 1) * 2 ^ lo
    lo + n ≤ (if k = 0 then 64 else if k = 1 then 128 else 384) →
    ∃ t, exec (.mpred x) s = .next t ∧ OnlyCtx s t ∧ t.cur.v = s.cur.v ∧ t.cur.s = s.cur.s ∧ t.cur.p = s.cur.p ∧
      t.cur.mode = s.cur.mode ∧ Passed s.cur t.cur (Instr.size (.mpred x)) none ∧
      t.cur.mrp = (if k = 0 then v else s.cur.mrp) ∧ t.cur.mcp = (if k = 1 then v else s.cur.mcp) ∧
      t.cur.mkp = (if 2 ≤ k then v else s.cur.mkp) ∧ t.cur.sig = s.cur.sig ∧ t.cur.ctr = s.cur.ctr) ∧
  (∀ (x : Eng) (s : State), Reads (.msig x) s →
    let c := view (.msig x) s
    let h := (c.uni x.immW x.w.a).toNat
    let w := (c.uni x.immW x.w.b).toNat
    let r := (s.quad (quadOf s)).rsvAt h
    (x.fld 0 0 = 0 → ∃ t, exec (.msig x) s = .next t ∧ OnlyCtx s t ∧ Scal64Done (.msig x) x.w s.cur.sig s t) ∧
    (x.fld 0 0 = 1 → h ≤ 15 → w ≤ 3 → ∃ t, exec (.msig x) s = .next t ∧ OnlyCtx s t ∧
      ScalDone (.msig x) x.w (if r.team = s.cur.team ∧ r.team ≠ 0 then word (match w with
        | 0 => 1 + r.kind * 2 + r.pri * 8 + r.fmt * 2 ^ 8 + r.blk * 2 ^ 16
        | 1 => r.base
        | 2 => r.len
        | _ => r.soff + r.zoff * 2 ^ 16) else 0) 0 s t)) ∧
  (∀ (x : Eng) (s : State), Reads (.mfence x) s → HasTeam s →
    ((∀ o ∈ s.ops, o.uid = s.cur.uid → 300 ∉ o.uses) →
      ∃ t, exec (.mfence x) s = .next t ∧ Quiet (.mfence x) s t ∧
        t = { s with cur := t.cur, teams := t.teams,
                     quads := s.quads.map (fun e => (e.1, { e.2 with
                       cache := e.2.cache.filter (fun k => k.team != s.cur.team),
                       rsv := e.2.rsv.map (fun r => (r.1, if r.2.team = s.cur.team then
                         { r.2 with unfenced := r.2.unfenced && s.copyingInto s.cur.team r.2.base r.2.len } else r.2)) })) } ∧
        (t.team s.cur.team).gen = ((s.team s.cur.team).gen + 1) % 2 ^ 16) ∧
    ((∃ o ∈ s.ops, o.uid = s.cur.uid ∧ 300 ∈ o.uses) → ∃ t, exec (.mfence x) s = .next t ∧ Stays s t .fence))

/-- R225, R312, R317, R322 to R324, R326: a load, a pass or a drain that no check refuses begins one operation on MX: the load
names its slot in its format, whose record the hardware reads as a second agent, and a command joins its thread's queue with the
predicates it captured and binds its tile. -/
def Obligations.MatrixCommands : Prop :=
  (∀ (x : Eng) (s : State) (r : Nat), Reads (.mldb x) s →
    let c := view (.mldb x) s
    let k := x.w.dst.toNat
    let a := c.uni64 x.immW x.w.a
    let b := if x.w.b = .v 0 then 0 else c.uni64 x.immW x.w.b
    let slot := (s.quad (quadOf s)).slotAt k
    let u := State.fmtTouch { s with cur := c } (s.fnOf s.cur) s.myImage (x.fld 7 0)
    u.fmtRecord (s.fnOf s.cur) s.myImage (x.fld 7 0) = some r → fmtLegal r = true → fmtLegalB r = true → a.toNat % 4096 = 0 →
    (x.w.b = .v 0 ↔ sideLen r = 0) → b.toNat % 64 = 0 → (slot.team = 0 ∨ slot.team = s.cur.team) → s.cur.counter 6 < 63 →
    ∃ t o, exec (.mldb x) s = .next t ∧ LastOp u t o ∧ o.ctr = 6 ∧ o.kind = .fill k ∧ o.uses = [] ∧
      Began (.mldb x) 6 0 s t ∧ t = { u with cur := t.cur, quads := t.quads, ops := t.ops, uids := t.uids } ∧
      (t.quad (quadOf s)).slotAt k = { slot with team := s.cur.team, fmt := x.fld 7 0, fmtRec := r } ∧
      (t.quad (quadOf s)).fills = (s.quad (quadOf s)).fills ++ [{ op := o.id, uid := s.cur.uid, team := s.cur.team, slot := k, tile := a, side := b, fmtRec := r }]) ∧
  (∀ (x : Eng) (s : State), Reads (.mpass x) s → s.noRoom = false →
    let c := view (.mpass x) s
    let h := (c.uni x.immW x.w.a).toNat
    let k := (c.uni x.immW x.w.b).toNat
    let n := x.w.dst.toNat
    let q := s.quad (quadOf s)
    s.passTrap x h k n = none →
    ∃ t o m, exec (.mpass x) s = .next t ∧ LastOp s t o ∧ o.ctr = 6 ∧ o.kind = .engine ∧ o.uses = [h, 100 + k, 200 + n] ∧
      Began (.mpass x) 6 0 s t ∧ t = { s with cur := t.cur, quads := t.quads, ops := t.ops, uids := t.uids } ∧
      (t.quad (quadOf s)).queue.getLast? = some m ∧ (t.quad (quadOf s)).queue.length = q.queue.length + 1 ∧
      m.op = o.id ∧ m.uid = s.cur.uid ∧ m.team = s.cur.team ∧ m.pass = true ∧ m.tile = n ∧ m.handle = h ∧ m.slot = k ∧
      m.rp = s.cur.mrp ∧ m.cp = s.cur.mcp ∧ m.kp = s.cur.mkp ∧ m.acc = decide (x.fld 2 1 = 1) ∧ m.sat = decide (x.fld 0 0 = 1) ∧
      m.ty = pathType (q.rsvAt h).fmtRec (q.slotAt k).fmtRec ∧ m.raced = (q.rsvAt h).unfenced ∧
      ((q.tileAt n).team = 0 → ((t.quad (quadOf s)).tileAt n).team = s.cur.team)) ∧
  (∀ (x : Eng) (s : State), Reads (.mdrain x) s → s.noRoom = false →
    let c := view (.mdrain x) s
    let a := (c.uni x.immW x.w.a).toNat
    let n := x.fld 7 4
    let toob := decide (x.fld 3 3 = 1)
    let q := s.quad (quadOf s)
    let m0 : Cmd := { op := s.uids + 1, uid := s.cur.uid, team := s.cur.team, pass := false, zero := decide (x.fld 0 0 = 1), out := x.fld 2 1, toob, tile := n, handle := if toob then a else 16, addr := a, pitch := (c.uni x.immW x.w.b).toNat, rp := s.cur.mrp, cp := s.cur.mcp, kp := s.cur.mkp, word := (encode (.mdrain x)).headD 0, desc := (encode (.mdrain x)).getD 1 0, issued := s.time }
    State.drainTrap { s with cur := c } m0 = none →
    ∃ t o m, exec (.mdrain x) s = .next t ∧ LastOp s t o ∧ o.ctr = 6 ∧ o.kind = .engine ∧
      o.uses = [200 + n, if toob then a else 300] ∧ Began (.mdrain x) 6 0 s t ∧
      t = { s with cur := t.cur, quads := t.quads, ops := t.ops, uids := t.uids } ∧
      (t.quad (quadOf s)).queue.getLast? = some m ∧ (t.quad (quadOf s)).queue.length = q.queue.length + 1 ∧
      m = { m0 with readyAt := m.readyAt })

/-- R225, R342, R347 to R349, R376: `board`, whose tables the hardware reads as a second agent, where its slice is let to the ring
head puts one board at the thread's stop and closes its point's gate, `unboard` leaves none of the
thread's boards on the ring, `itin` sets the partition's itinerary, and `lapq` answers the latest lap and the tile passing.
Forms and readings of the model: logs 11, 27. -/
def Obligations.RingInstructions : Prop :=
  (∀ (x : Eng) (s : State), Reads (.board x) s → s.cur.counter 6 < 63 →
    let c := view (.board x) s
    let l := (c.uni x.immW x.w.a).toNat
    let f := (c.uni x.immW x.w.b).toNat
    let r := x.fld 13 13
    let q := s.quad (quadOf s)
    let u := State.boardTouch { s with cur := c } (s.fnOf s.cur) ((s.part (partOf s)).mring r) l
    u.boardTrap x l f = none → portAllowed (s.connOf s.cur.loc.die (sliceOfCore s.cur.loc.core)) 12 = true → (q.boards.filter (fun b => b.ring == r)).length < 16 →
    ∃ t o b, exec (.board x) s = .next t ∧ LastOp u t o ∧ o.ctr = 6 ∧ o.kind = .fill (x.fld 12 7) ∧ Began (.board x) 6 0 s t ∧
      t = { u with cur := t.cur, quads := t.quads, teams := t.teams, ops := t.ops, uids := t.uids } ∧
      (t.quad (quadOf s)).boards = q.boards ++ [b] ∧ b.op = o.id ∧ b.uid = s.cur.uid ∧ b.team = s.cur.team ∧
      b.part = partOf s ∧ b.ring = r ∧ b.layer = l ∧ b.first = f ∧ b.count = x.fld 6 0 ∧ b.slot = x.fld 12 7 ∧
      b.pt = x.fld 18 14 ∧ b.reached = false ∧ b.tiles = List.replicate (x.fld 6 0) (.awaited false) ∧
      (x.fld 18 14 ≠ 0 → HasTeam s → ((t.team s.cur.team).pair (x.fld 18 14)).gateClosed = true)) ∧
  (∀ (x : Eng) (s : State), Reads (.unboard x) s →
    ∃ t, exec (.unboard x) s = .next t ∧ Passed s.cur t.cur (Instr.size (.unboard x)) none ∧
      ∀ b ∈ (t.quad (quadOf s)).boards, b.uid = s.cur.uid → b.ring = x.fld 13 13 → b.op = 0) ∧
  (∀ (x : Eng) (s : State), Reads (.itin x) s →
    let c := view (.itin x) s
    let i := (c.uni x.immW x.w.a).toNat
    let r := (c.uni x.immW x.w.b).toNat
    let g := x.fld 13 13
    let old := s.part (partOf s)
    let u : State := if i = 0xFFFF then { s with cur := c } else State.imgTouch { s with cur := c } (s.fnOf s.cur) s.myImage
    (i = 0xFFFF ∨ i < u.imgGet (s.fnOf s.cur) s.myImage 0x34 2) → r ≤ 16 →
    ∃ t, exec (.itin x) s = .next t ∧ t = { u with cur := t.cur, parts := t.parts } ∧ Quiet (.itin x) s t ∧
      (t.part (partOf s)).mring g
        = { itin := i, img := if i = 0xFFFF then 0 else s.myKernel.img, rate := if r = 0 then (old.mring g).rate else r } ∧
      (t.part (partOf s)).mring (1 - g) = old.mring (1 - g)) ∧
  (∀ (x : Eng) (s : State), Reads (.lapq x) s →
    let r := x.fld 13 13
    let here := ((s.ring r).passingTile (quadOf s)).filter (fun w => w.part == partOf s)
    let laps := if r = 0 then (s.part (partOf s)).laps else (s.part (partOf s)).lapsW
    let slow := ((s.ring r).part.map (fun p => decide (((s.part p).mring r).rate < (s.ring r).r))).getD false
    ∃ t, exec (.lapq x) s = .next t ∧ OnlyCtx s t ∧
      ScalDone (.lapq x) x.w (word ((if laps = 0 then 0 else (laps - 1) % 2 ^ 16) + ((here.map (·.layer)).getD 0xFFF) * 2 ^ 16
        + ((s.ring r).passingLap (quadOf s) == some (partOf s)).toNat * 2 ^ 28 + slow.toNat * 2 ^ 29)) 0 s t)

/-- R350 to R352, R358: `coll.tld` and `coll.tst` begin one access of 32 bytes, `coll.go` joins its group to the collective of
its register, and `gmemb` begins an operation on the tenant's membership, `gread` with STATUS 0 or 2.
Forms and readings of the model: log 30. -/
def Obligations.CollectiveInstructions : Prop :=
  (∀ (x : Eng) (s : State) (l : Leaf), Reads (.coll x) s →
    let a := (view (.coll x) s).uni64 x.immW x.w.a
    let load := decide (x.fld 1 0 = 0)
    let n := x.w.dst.toNat
    x.fld 1 0 ≠ 2 → a.toNat % 32 = 0 → a.toNat < 2 ^ 57 → s.tBusy s.cur.team n = false →
    s.access (s.mine a.toNat 32 (if load then .load else .store)) s.cur.failed = .ok l →
    s.cur.counter (if load then 0 else 1) < 63 →
    ∃ t o, exec (.coll x) s = .next t ∧ LastOp s t o ∧ Began (.coll x) (if load then 0 else 1) 0 s t ∧
      o.kind = (if load then .collLoad n else .store) ∧
      o.pieces.map (fun p => (p.act, p.len, p.data))
        = [(if load then .load else .store, 32, if load then [] else natLE 32 ((s.team s.cur.team).tAt n))]) ∧
  (∀ (x : Eng) (s : State), Reads (.coll x) s →
    let a := (view (.coll x) s).uni x.immW x.w.a
    let n := x.w.dst.toNat
    let u := State.goTouch { s with cur := view (.coll x) s } n
    x.fld 1 0 = 2 → s.objectTrap a = none → (∀ k, 1 ≤ k → k ≤ 5 → s.cur.counter k = 0) → u.goTrap n a.toNat = none →
    s.cur.counter 7 < 63 → (∀ k ∈ s.colls, k.id ≤ s.uids) →
    ∃ t o, exec (.coll x) s = .next t ∧ Began (.coll x) 7 0 s t ∧ Owns s t 7 o ∧
      ((∃ d ∈ s.groupsOf s.cur.team, d.uid ≠ s.cur.uid ∧ ∀ k, s.collOf s.cur.team n = some k → ∀ j ∈ k.joined, j.1 ≠ d.uid) →
        ∃ k ∈ t.colls, k.team = s.cur.team ∧ k.t = n ∧ (s.cur.uid, o.id) ∈ k.joined)) ∧
  (∀ (x : Eng) (s : State) (l : Leaf), Reads (.gmemb x) s →
    let c := view (.gmemb x) s
    let a := c.uni64 x.immW x.w.a
    let sub := x.fld 1 0
    let b := if sub < 2 then 0 else (c.uni x.immW x.w.b).toNat
    (sub ≠ 0 → s.cur.priv = true) → b ≤ 63 → a.toNat % 32 = 0 → a.toNat < 2 ^ 57 → s.cur.counter 7 < 63 →
    s.access { s.mine a.toNat 32 .store with toucher := Toucher.engine } s.cur.failed = .ok l →
    ∃ t o, exec (.gmemb x) s = .next t ∧ LastOp s t o ∧ Began (.gmemb x) 7 0 s t ∧ o.ctr = 7 ∧ o.kind = .member sub (2 ^ b) 0 ∧
      o.pieces.map (fun p => (p.act, p.phase, p.key, p.len)) = [(.load, .sent, memKey l.mt l.pa, 32)] ∧
      t = { s with cur := t.cur, uids := t.uids, ops := t.ops }) ∧
  (∀ (s : State) (o : Op) (p : Piece), s.op o.id = some o → o.kind = .member 0 1 0 → o.pieces = [p] →
    ∃ q, (s.memberGo o).op o.id = some q ∧ q.done = true ∧ q.kind = .member 0 1 (if (s.shard o.part).present then 0 else 2) ∧
      q.pieces.map (fun p => (p.act, p.phase, p.moved)) = [(.store, .sent, s.time)])

/-- R225, R230, R374, R375: a `launch` sends for its packet as weak loads of its group and waits until they have come; one whose packet
and arguments have come, and which no check refuses, writes and links the child in the lowest free TCB that hardware manages, and
moves on. Forms and readings of the model: logs 31, 47. -/
def Obligations.Launches : Prop :=
  (∀ (x : Eng) (s : State), Reads (.launch x) s →
    let u : State := { s with cur := view (.launch x) s }
    let rs := lineChunks (u.cur.uni64 x.immW x.w.a).toNat 64
    (∀ r ∈ rs, r.1 < 2 ^ 57) →
    ((∃ r ∈ rs, u.launchPart r = none) → (∀ r ∈ rs, ∃ l, s.access (s.mine r.1 r.2 .load) s.cur.failed = .ok l) →
      ∃ t o, exec (.launch x) s = .next t ∧ t.ops.getLast? = some o ∧ o.uid = s.cur.uid ∧ o.kind = .reads s.cur.fsel ∧
        o.counted = false ∧ o.pieces.map (fun p => (p.act, p.va, p.len)) = rs.map (fun r => (.load, word64 r.1, r.2)) ∧
        t.mem = s.mem ∧ t.cur = { s.cur with stall := some .reading, sample := t.cur.sample }) ∧
    ((∀ r ∈ rs, (u.launchPart r).isSome = true) → (∃ r ∈ rs, ∃ e, u.launchPart r = some e ∧ e.2.phase ≠ .replied) →
      ∃ t, exec (.launch x) s = .next t ∧ Stays s t .reading)) ∧
  (∀ (x : Eng) (s : State) (pk args : List Byte) (i : Nat), Reads (.launch x) s →
    let s2 : State := { s with cur := view (.launch x) s }
    let a := s2.cur.uni64 x.immW x.w.a
    let b := (s2.cur.uni x.immW x.w.b).toNat
    let g := fun off n => leNat (slice pk off n)
    let part := s2.partOf s2.cur
    let u := s2.imgTouch (s2.fnOf s2.cur) s2.myImage
    let p := s2.part part
    let krec := u.imgGet (s2.fnOf s2.cur) s2.myImage 0 8 + 64 * g 0 2
    a.toNat % 64 = 0 → s2.launchRead (lineChunks a.toNat 64) = .ok pk → g 2 1 ≤ 64 → g 8 8 % 4 = 0 →
    s2.launchRead (lineChunks (g 8 8) (4 * g 2 1)) = .ok args →
    b ≤ 63 → (s2.queue b).en = true → (s2.queue b).part = part → ((s2.queue b).sup = true → s2.cur.priv = true) →
    g 0 2 < u.imgGet (s2.fnOf s2.cur) s2.myImage 0x30 2 → 1 ≤ g 4 4 → g 4 4 ≤ 2 ^ 24 →
    g 3 1 = 0 → g 0x1C 4 = 0 → g 0x28 8 = 0 → g 0x30 8 = 0 → g 0x38 8 = 0 →
    (u.kernelAt (s2.fnOf s2.cur) krec).whole = true →
    areasFit (u.kernelAt (s2.fnOf s2.cur) krec) (g 4 4) (g 0x10 8) (g 0x18 4) (g 0x20 8) p.vwsize = true →
    let k := u.touchKernel (s2.fnOf s2.cur) krec
    i < p.count - p.hcnt → k.tcbGet part (p.hcnt + i) 0xE 1 = 0 →
    (∀ j, j < i → k.tcbGet part (p.hcnt + j) 0xE 1 ≠ 0) →
    ∃ t, exec (.launch x) s = .next t ∧ Passed s2.cur t.cur (Instr.size (.launch x)) none ∧
      t = { (k.tcbTouch part p.hcnt (i + 1)).linkChild part (s2.team s2.cur.team).tcb (p.hcnt + i) krec (g 4 4) b (g 2 1) args (g 0x10 8) (g 0x18 4) (g 0x20 8) with
            cur := t.cur } ∧
      t.cur.v = s2.cur.v ∧ t.cur.s = s2.cur.s ∧ t.cur.p = s2.cur.p ∧ t.cur.ctr = s2.cur.ctr)
/-! ### Events of contexts and operations -/

/-- R39, R42, R61, R132, R156, R199, R200: what becomes of a context between its instructions.
Forms and readings of the model: logs 6, 22, 32, 40. -/
def Obligations.ContextEvents : Prop :=
  (∀ (s : State) (l : Leaf), s.cur.uid ≠ 0 → s.cur.ended = false → s.cur.halted = false → s.cur.clause.isOpen = false →
    (s.cur.frags.getD s.cur.fsel none).isSome = true →
    let pc := s.cur.frag.pc
    let key := memKey l.mt l.pa
    let h := wordAtBytes (s.latest key 4) 0
    let n := bits h 3 0
    let ws := (List.range n).map (fun k => wordAtBytes (s.latest (key + 4) (4 * n)) (4 * k))
    pc.toNat % 4 = 0 → pc.toNat < 2 ^ 57 → s.fetchX pc.toNat 4 = .ok l → pc.toNat / 4096 = (pc.toNat + 4 * n) / 4096 →
    s.portStop s.cur.loc.die s.cur.loc.core pc.toNat (4 + 4 * n) l = none →
    headerOk s.cur.kind h ws = true →
    ∃ t, exec .clauseFetch s = .next t ∧ OnlyCtx s t ∧
      t.cur = { s.cur with clause := t.cur.clause, stall := none, failed := [] } ∧
      t.cur.clause = { isOpen := true, hdr := pc, count := n, cls := bits h 6 4, wait := bits h 14 7, yieldHint := bitAt h 15, susp := bitAt h 16, waiting := bits h 14 7 != 0, words := ws, splitv := s.cur.splitvNow }) ∧
  (∀ s : State, s.cur.clause.isOpen = true → s.cur.clause.waiting = true → s.cur.kind = .group → s.cur.copyErrs = [] →
    (∀ k, k < 8 → s.cur.clause.wait / 2 ^ k % 2 = 1 → s.cur.counter k = 0) →
    exec .clauseWaitPass s = .next { s with cur := { s.cur with clause := { s.cur.clause with waiting := false }, stall := none } }) ∧
  (∀ (s : State) (c : Ctx), s.ctx s.args.x = some c → c.uid ≠ 0 → c.ended = true → c.idle = true →
    ∃ t, exec .groupSlotFree s = .next t ∧ t.ctx s.args.x = none) ∧
  (∀ (s : State) (c : Ctx), s.ctx s.args.x = some c → c.halted = true → c.kind = .group → s.teamRuns (s.team c.team) = true →
    ∃ t, exec .debugResume s = .next t ∧ t = { s with cur := t.cur, others := t.others } ∧
      t.ctx s.args.x = some { c with halted := false }) ∧
  (∀ (s : State) (c : Ctx) (k : Nat) (r : Racq), Apart s → s.ctx s.args.x = some c → c.kind = .group → c.ended = false →
    (k, r) ∈ c.racqs → c.acq + 16 * r.want ≤ 128 →
    (∀ d ∈ s.onCore c.loc.die c.loc.core, ∀ e ∈ d.racqs, (d.uid = c.uid ∧ e = (k, r)) ∨ r.seq < e.2.seq ∨ d.ended = true) →
    unitsOf (c.acq + 16 * r.want) - unitsOf c.acq ≤ s.freeUnits c.loc.die c.loc.core →
    ∃ t d f, exec .racqGrant s = .next t ∧ t.ctx s.args.x = some d ∧ c.acq + 16 * r.want ≤ d.acq ∧
      d.frags.getD k none = some f ∧ f.racq = some { r with taken := true } ∧
      (c.racqs = [(k, r)] → d = { c with acq := c.acq + 16 * r.want, v := keepRegs c.v c.acq, frags := d.frags })) ∧
  (∀ s : State, Apart s →
    let gs := (s.onCore s.args.x s.args.y).filter (fun c => !c.ended)
    gs ≠ [] → (∀ c ∈ gs, c.racqs ≠ [] ∧ s.cyclesSince s.args.x (max c.racqSince c.lastIssue) 2048 = true) →
    s.cyclesSince s.args.x (Cells.get 0 s.sys.deadlock (coreNo s.args.x s.args.y)) 2048 = true →
    ∃ t, ∃ c ∈ gs, exec .registerDeadlock s = .next t ∧ (∀ d ∈ gs, d.born ≤ c.born) ∧
      ∀ d, t.ctx c.uid = some d → d.ended = true)

/-- R136, R141, R226, R229 to R231, R243, R249: a load, a store or an atomic performed at home, or one 8-byte part of a load or
store, its reply, a page reclassified, and retirement, which lowers its counter, raises LASTWCT, and writes a load's registers or an
atomic's old values, with BO where a bin clamped. Forms and readings of the model: logs 3, 10, 43. -/
def Obligations.HomeEvents : Prop :=
  (∀ (s : State) (o : Op) (p : Piece), Names s o p → p.act.isLoad = true → p.space = .home → p.owner = false →
    s.mayPerform o p = true → s.args.nats = [] →
    ∃ t q, exec .homeLoadPerform s = .next t ∧ Part s t q ∧ q.phase = .performed ∧
      q.got = p.keepTorn (s.readBytes p.key p.len) ∧ (p.torn = [] → q.got = s.readBytes p.key p.len) ∧
      q.expiry = s.time + 32 * 2 ^ o.lease ∧ t.mem = s.mem ∧
      (p.lease = true → s.time + 32 * 2 ^ o.lease ≤ t.latestLease (lineOf p.key))) ∧
  (∀ (s : State) (o : Op) (p : Piece) (k : Nat), Names s o p → p.act.isLoad = true → p.space = .home → p.owner = false →
    s.mayPerform o p = true → s.args.nats = [k] → 16 ≤ p.len → k < p.len / 8 → p.torn = [] →
    ∃ t q, exec .homeLoadPerform s = .next t ∧ Part s t q ∧ q.phase = .sent ∧ q.torn = [k] ∧
      slice q.got (8 * k) 8 = s.readBytes (p.key + 8 * k) 8 ∧ t.mem = s.mem) ∧
  (∀ (s : State) (o : Op) (p : Piece), Names s o p → p.act.isLoad = true → p.phase = .performed → p.moved ≠ s.time →
    o.kind ≠ .prefetch →
    ∃ t q, exec .loadReply s = .next t ∧ Part s t q ∧ q.phase = .replied ∧ q.got = p.got) ∧
  (∀ (s : State) (o : Op) (p : Piece), Names s o p → p.act = .store → (p.space = .home ∨ p.space = .host) → p.owner = false →
    s.mayPerform o p = true → s.args.nats = [] → p.torn = [] →
    ∃ t q, exec .homeStorePerform s = .next t ∧ Part s t q ∧ q.phase = .performed ∧ Wrote s t p.key (s.storeData o p).data ∧ s.time ≤ q.wct ∧
      s.latestLease (lineOf p.key) ≤ q.wct) ∧
  (∀ (s : State) (o : Op) (p : Piece) (k : Nat), Names s o p → p.act = .store → (p.space = .home ∨ p.space = .host) →
    p.owner = false → s.mayPerform o p = true → s.args.nats = [k] → 16 ≤ p.len → k < p.len / 8 → p.torn = [] →
    ∃ t q, exec .homeStorePerform s = .next t ∧ Part s t q ∧ q.phase = .sent ∧ q.torn = [k] ∧
      Wrote s t (p.key + 8 * k) (slice (s.storeData o p).data (8 * k) 8)) ∧
  (∀ (s : State) (o : Op) (p : Piece), Names s o p → p.act = .store → p.phase = .performed → p.acks = 0 → p.moved ≠ s.time →
    ∃ t q, exec .storeWctReply s = .next t ∧ Part s t q ∧ q.phase = .replied ∧ q.wct = p.wct) ∧
  (∀ (s : State) (o : Op) (p : Piece), Names s o p → p.act.isAtomic = true → p.space = .home → p.owner = false →
    s.mayPerform o p = true → s.args.nats = [] →
    let r := p.act.rmw (s.readBytes p.key p.len) p.data p.cmp
    ∃ t q, exec .homeAtomicPerform s = .next t ∧ Part s t q ∧ q.phase = .performed ∧ q.got = s.readBytes p.key p.len ∧
      (∀ bs, r.1 = some bs → Wrote s t p.key bs ∧ s.time ≤ q.wct ∧ s.latestLease (lineOf p.key) ≤ q.wct) ∧
      (r.1 = none → t.mem = s.mem) ∧ ∃ o', t.op s.args.x = some o' ∧ o'.bo = (o.bo || r.2)) ∧
  (∀ (s : State) (o : Op) (p : Piece), Names s o p → p.act.isAtomic = true → p.phase = .performed → p.acks = 0 →
    p.moved ≠ s.time →
    ∃ t q, exec .atomicReply s = .next t ∧ Part s t q ∧ q.phase = .replied ∧ q.got = p.got) ∧
  (∀ s : State, (∃ o ∈ s.ops, ∃ p ∈ o.pieces, p.held = some s.args.x) →
    ∃ t, exec .pageReclassify s = .next t ∧ (∀ o ∈ t.ops, ∀ p ∈ o.pieces, p.held ≠ some s.args.x) ∧
      ∀ l ∈ t.lines, ¬ (l.priv = true ∧ l.entry = s.args.x)) ∧
  (∀ (s : State) (o : Op) (c : Ctx), s.op s.args.x = some o → o.counted = true → s.complete o = true → s.oldest o = true →
    o.bad = none → s.ctx o.uid = some c →
    ∃ t d, exec .operationRetire s = .next t ∧ (∀ q ∈ t.ops, q.id ≠ s.args.x) ∧ t.ctx o.uid = some d ∧
      d.counter o.ctr = c.counter o.ctr - 1 ∧ (∀ k, k ≠ o.ctr → d.counter k = c.counter k) ∧
      d.lastwct = max c.lastwct (o.pieces.foldl (fun m p => max m p.wct) o.wct) ∧
      (∀ dst n sx scalar, o.kind = .load dst 0 n sx scalar → d.v = c.v ∧ d.s = c.s) ∧
      (∀ dst regs n sx p, o.kind = .load dst regs n sx true → regs ≠ 0 → c.ended = false → o.pieces = [p] → p.phase = .replied →
        d.v = c.v ∧ ∀ q, d.sreg q = if dst ≤ q ∧ q < dst + (loadWords n sx p.got).length then (loadWords n sx p.got).getD (q - dst) 0
          else c.sreg q) ∧
      (o.kind = .engine → c.ended = false → d.mode = c.mode ∧ d.v = c.v ∧ d.s = c.s ∧ d.sig = o.sig.getD c.sig) ∧
      (∀ dst regs, o.kind = .atomic dst regs → c.ended = false → (o.pieces.map (·.lane)).Nodup → (∀ p ∈ o.pieces, p.lane < 32) →
        d.mode = (if o.bo then c.mode ||| fBO else c.mode) ∧ d.s = c.s ∧ (regs = 0 → d.v = c.v) ∧
        ∀ p ∈ o.pieces, p.phase = .replied → ∀ k, k < regs → d.vreg (dst + k) p.lane = word (leNat (slice p.got (4 * k) 4))) ∧
      (∀ dst regs n sx, o.kind = .load dst regs n sx false → regs ≠ 0 → c.ended = false → (o.pieces.map (·.lane)).Nodup →
        (∀ p ∈ o.pieces, p.lane < 32) → ∀ p ∈ o.pieces, p.phase = .replied → ∀ k, k < (loadWords n sx p.got).length →
          d.vreg (dst + k) p.lane = (loadWords n sx p.got).getD k 0))

/-- R79, R87 to R89, R244 to R247: what an atomic writes over the old value, whatever MODE holds: each integer operation at both
widths, each float operation rounded by RNE, and a compare-and-swap, which writes nothing where its compare fails; and binned values:
the split of a contribution in its lane, rounded to the grid of u = 2^(Emax − 71), clamped at 72 bits, with its flags, the addition of
its digits to the three bins, each clamped by itself with BO, past which a NaN marker stays, and the total as FP32. -/
def Obligations.AtomicAndBinnedValues : Prop :=
  (∀ w ∈ [4, 8], ∀ (o c op : Nat) (cmp : List Byte), o < 2 ^ (8 * w) → c < 2 ^ (8 * w) → op ≤ 10 →
    let m : Int := 2 ^ (8 * w)
    let sg := fun (x : Nat) => if (x : Int) < m / 2 then (x : Int) else x - m
    let new : Nat := match op with
      | 0 => (o + c) % 2 ^ (8 * w)
      | 1 => (max (-(m / 2)) (min (m / 2 - 1) (sg o + sg c)) % m).toNat
      | 2 => (max 0 (min (m - 1) (o + sg c))).toNat
      | 3 => if sg o ≤ sg c then o else c
      | 4 => min o c
      | 5 => if sg o ≤ sg c then c else o
      | 6 => max o c
      | 7 => Nat.land o c
      | 8 => Nat.lor o c
      | 9 => Nat.xor o c
      | _ => c
    (Act.int op).rmw (natLE w o) (natLE w c) cmp = (some (natLE w new), false)) ∧
  (∀ (o c op : Nat) (cmp : List Byte), o < 2 ^ 32 → c < 2 ^ 32 → op ≤ 4 →
    let plus := fun (f : Fmt) (x y : Nat) => (f.round .rne false 0 ((f.read x).exact.add false (f.read y).exact)).code
    let pair := fun (f : Fmt) => plus f (o % 65536) (c % 65536) + 65536 * plus f (o / 65536) (c / 65536)
    let new : Nat := match op with
      | 0 => plus fp32 o c
      | 1 => pair bf16
      | 2 => pair fp16
      | 3 => (fp32.minMax false false o c).code
      | _ => (fp32.minMax true false o c).code
    (Act.flt op).rmw (natLE 4 o) (natLE 4 c) cmp = (some (natLE 4 new), false)) ∧
  (∀ old data cmp : List Byte, Act.cas.rmw old data cmp = (if old = cmp then some data else none, false)) ∧
  (∀ (b d : Nat → Int) (nan : Bool) (data cmp : List Byte), (∀ i, -2 ^ 63 ≤ b i ∧ b i < 2 ^ 63) →
    let bytes := fun (b : Nat → Int) => natLE 8 (b 0 % 2 ^ 64).toNat ++ natLE 8 (b 1 % 2 ^ 64).toNat ++ natLE 8 (b 2 % 2 ^ 64).toNat
    let m : Int := 2 ^ 63 - 1
    let out := fun i => m < b i + d i ∨ b i + d i < -m
    let r := (Act.bin nan (d 0) (d 1) (d 2)).rmw (bytes b) data cmp
    (b 0 = -2 ^ 63 → r = (some (bytes b), false)) ∧
    (b 0 ≠ -2 ^ 63 → nan = true → r = (some (bytes (fun i => if i = 0 then -2 ^ 63 else b i)), false)) ∧
    (b 0 ≠ -2 ^ 63 → nan = false → r.1 = some (bytes (fun i => max (-m) (min m (b i + d i)))) ∧
      (r.2 = true ↔ out 0 ∨ out 1 ∨ out 2)) ∧
    ∀ emax : Nat,
      (b 0 = -2 ^ 63 → binRead emax (bytes b) = ⟨0x7FC00000, 0, 0⟩) ∧
      (b 0 ≠ -2 ^ 63 → ∃ e, binRead emax (bytes b) = fp32.round .rne false 0 e ∧ finite e = true ∧
        valueOf e = ((b 0 * 2 ^ 48 + b 1 * 2 ^ 24 + b 2 : Int) : Rat) * (2 : Rat) ^ ((emax : Int) - 198) ∧
        (valueOf e = 0 → e = .zero false))) ∧
  (∀ f ∈ [fp32, bf16, fp16], ∀ emax code : Nat, code < 2 * f.signW →
    let u : Rat := (2 : Rat) ^ ((emax : Int) - 198)
    let x := f.read code
    let digits := fun (q : Nat) =>
      let sg : Int := if f.signOf code then -1 else 1
      (false, sg * (q / 2 ^ 48 : Nat), sg * (q / 2 ^ 24 % 2 ^ 24 : Nat), sg * (q % 2 ^ 24 : Nat))
    (x.isNan = true → binSplit f emax code = ((true, 0, 0, 0), fIV)) ∧
    (∀ g, x = .inf g → binSplit f emax code = (digits (2 ^ 72 - 1), fBO)) ∧
    (finite x.exact = true → ∃ q : Nat, IntRound .rne 0 (mag (valueOf x.exact) / u) q ∧
      (q < 2 ^ 72 → binSplit f emax code = (digits q, if (q : Rat) * u = mag (valueOf x.exact) then 0 else fNX)) ∧
      (2 ^ 72 ≤ q → binSplit f emax code = (digits (2 ^ 72 - 1),
        fBO ||| if ((2 ^ 72 - 1 : Nat) : Rat) * u = mag (valueOf x.exact) then 0 else fNX)))) ∧
  (∀ (c : Ctx) (x : Mem) (j : Nat), x.d.subop.toNat ≤ 2 →
    c.binSplitOf x j = binSplit ([fp32, bf16, fp16].getD x.d.subop.toNat fp32) ((c.src x.immW x.d.e j).toNat / 256 % 256)
      (c.src x.immW x.d.c j).toNat)

/-- R148, R238, R239, R253 to R255, R260: a copied block, host completions, monitors and their wakes, and home migration.
Forms and readings of the model: logs 3, 10, 41, 43. -/
def Obligations.CopyHostAndMonitorEvents : Prop :=
  (∀ (s : State) (o : Op) (tag : Nat) (ls : List CopyLane) (e : Word) (a : Word64) (l : CopyLane), s.op s.args.x = some o →
    o.kind = .copy tag ls e a → ls.find? (fun m => m.lane == s.args.y) = some l → l.phase = .sent → l.wait = none →
    l.moved ≠ s.time → s.args.nats = [] → l.n ≤ 32 → l.torn = [] →
    (l.dstGlobal = false → l.srcGlobal = false → l.got = [] → s.args.ok = true →
      ∃ t q, exec .copyLaneTransfer s = .next t ∧ t = { s with ops := t.ops } ∧ t.op s.args.x = some q ∧
        q.kind = .copy tag (ls.map (fun m => if m.lane == l.lane then { l with moved := s.time, got := (List.range l.n).map (fun i => (i, ((s.team o.team).bytes (l.src.toNat + i) 1).headD 0)) } else m)) e a) ∧
    (∀ b : Nat → Byte, (∀ i, i < l.n → l.got.find? (·.1 == i) = some (i, b i)) → s.args.ok = false →
      (∀ k ∈ ls, k.lane ≤ l.lane ∨ k.torn = []) →
      let bs := (List.range 32).map (fun i => if i < l.n then b i else 0)
      (l.dstGlobal = false → l.srcGlobal = false → Known s o.team →
        ∃ t q, exec .copyLaneTransfer s = .next t ∧ (t.team o.team).bytes l.dst.toNat 32 = bs ∧ t.mem = s.mem ∧
          t.op s.args.x = some q ∧ ∃ m ∈ q.lanes, m.lane = l.lane ∧ m.phase = .replied) ∧
      (∀ d src, l.dstGlobal = true → l.place = some (d, src) → (∀ i, i < 32 → s.loopOn o.id l.who (d + i) = false) →
        ∃ t q, exec .copyLaneTransfer s = .next t ∧ Wrote s t d bs ∧ t.op s.args.x = some q ∧ s.time ≤ q.wct ∧
          ∃ m ∈ q.lanes, m.lane = l.lane ∧ m.phase = .replied))) ∧
  (∀ (s : State) (o : Op) (p : Piece), Names s o p → p.space = .host → p.act = .load → s.mayPerform o p = true →
    o.kind ≠ .prefetch → s.args.ok = true → s.args.nats = [] → p.torn = [] →
    ∃ t q, exec .hostReadCompletion s = .next t ∧ Part s t q ∧ q.phase = .replied ∧ q.got = s.readBytes p.key p.len) ∧
  (∀ (s : State) (o : Op) (p : Piece), Names s o p → p.space = .host → p.act.isAtomic = true → p.act.direct = true →
    s.mayPerform o p = true → s.args.ok = true →
    let r := p.act.rmw (s.readBytes p.key p.len) p.data p.cmp
    ∃ t q, exec .hostAtomicCompletion s = .next t ∧ Part s t q ∧ q.phase = .performed ∧ q.got = s.readBytes p.key p.len ∧
      (∀ bs, r.1 = some bs → Wrote s t p.key bs) ∧ (r.1 = none → t.mem = s.mem)) ∧
  (∀ (s : State) (m : Mon), s.mons.find? (fun k => k.id == s.args.x && k.phase = .arming && k.held.isNone && k.moved != s.time) = some m →
    (s.mons.filter (fun k => k.phase = .armed && k.slice == m.slice)).length < 16384 →
    exec .monitorRegister s = .next { s with mons := s.mons.map (fun k =>
      if k.id == m.id then (if s.monTrue m then { m with phase := .waking, cause := none, moved := s.time } else { m with phase := .armed, moved := s.time }) else k) }) ∧
  (∀ (s : State) (m : Mon), s.mons.find? (fun k => k.id == s.args.x && k.phase = .waking && k.moved != s.time) = some m → m.row = none →
    exec .wakeRecord s = .next { s with mons := s.mons.map (fun k =>
      if k.id == m.id then { k with phase := .acking, fired := true, moved := s.time } else k) }) ∧
  (∀ (s : State) (m : Mon), s.mons.find? (fun k => k.id == s.args.x && k.phase = .acking && k.moved != s.time) = some m → m.row = none → m.uid ≠ 0 →
    m.cause = none →
    exec .wakeAck s = .next { s with mons := s.mons.map (fun k => if k.id == m.id then { k with phase := .done } else k) }) ∧
  (∀ (s : State) (l : Leaf), s.pageLeaf s.args.x s.args.y = some l → l.mt = 0 → 2 ≤ l.cls → s.sys.migration = none →
    let key := l.pa / 2 ^ l.homeBits * 2 ^ l.homeBits
    let u := s.shareAll key (2 ^ l.homeBits)
    ∃ t, exec .homeMigrationPass s = .next t ∧ t.mem = (u.copyLines key s.args.value.toNat (pageLines key l.homeBits)).mem ∧
      t.sys.migration = some (s.args.x, l.entry2.getD l.entry, s.args.z % 8, s.args.value.toNat, 1) ∧ t.sys.migLines = []) ∧
  (∀ (s : State) (l : Leaf) (fn e die new n : Nat), s.sys.migration = some (fn, e, die, new, n) →
    s.pageLeaf fn s.args.y = some l → l.entry2.getD l.entry = e →
    let key := l.pa / 2 ^ l.homeBits * 2 ^ l.homeBits
    let size := 2 ^ l.homeBits
    let u := s.shareAll key size
    let apart := fun (a n : Nat) (b m : Nat) => a + n ≤ b ∨ b + m ≤ a
    8 ≤ n ∨ (u.sys.migLines.eraseDups.filter (fun x => (pageLines key l.homeBits).contains x)).length ≤ 64 →
    ∃ t, exec .homeMigrationSwitch s = .next t ∧ t.sys.migration = none ∧ t.sys.migLines = [] ∧
      (apart key size new size → apart e 8 new size → apart e 8 key size →
        (∀ x ∈ u.sys.migLines, key ≤ x * 128 → x * 128 < key + size → ∀ o, o < 128 →
          t.byteAt (new + (x * 128 - key) + o) = u.byteAt (x * 128 + o)) ∧
        (∀ x, key ≤ x * 128 → x * 128 < key + size → u.latestLease x ≤ t.latestLease (lineOf (new + (x * 128 - key)))) ∧
        (∀ m ∈ t.mons, m.key < key ∨ key + size ≤ m.key) ∧
        fld (t.readLE e 8) 15 13 = die % 8 ∧ fld (t.readLE e 8) 63 28 = new / 4096 % 2 ^ 36 ∧
        fld (t.readLE e 8) 12 0 = fld (u.readLE e 8) 12 0 ∧ fld (t.readLE e 8) 27 16 = fld (u.readLE e 8) 27 16) ∧
      (∀ x ∈ t.tlb, x.leaf.entry ≠ e ∧ x.leaf.entry2 ≠ some e) ∧
      ∀ x ∈ t.lines, ¬ (l.pa / 2 ^ l.homeBits * 2 ^ l.homeBits ≤ x.line * 128 ∧
        x.line * 128 < l.pa / 2 ^ l.homeBits * 2 ^ l.homeBits + 2 ^ l.homeBits))

/-- R177, R205 to R207, R264, R275 to R278, R283, R287: rows return where no `susp` needs their place, loads and replay groups
form by the points as they then stand, a walk begins, reads its entries one after another, and answers its access with its leaf, the
one merged of sixteen, or a missing entry, and a page request is written to its ring. Forms and readings of the model: logs 3, 7, 13, 21, 32. -/
def Obligations.FrameAndWalkEvents : Prop :=
  (∀ (s : State) (r : Row) (k n : Nat) (ns : List Nat), (s.team s.args.x).outside s.args.y = some r → (s.team s.args.x).out = false →
    s.args.y ≠ 0 → ((s.team s.args.x).pair s.args.y).tile = some k → (s.team s.args.x).freeRows s.args.y = n :: ns →
    s.suspNeeds s.args.x s.args.y ≤ ns.length → Known s s.args.x →
    ∃ t, ∃ q ∈ (t.team s.args.x).rows, exec .rowReturn s = .next t ∧ q = { r with place := .tile n }) ∧
  (∀ (s : State) (w : Nat) (pt : Point), (s.team s.args.x).waket s.args.y = some w →
    s.pointOf (s.team s.args.x) s.args.y = some pt → w + pt.flush ≤ s.time → Known s s.args.x →
    ∃ t, exec .flushTimeout s = .next t ∧ t = { s with teams := t.teams } ∧
      (t.team s.args.x).pair s.args.y = { (s.team s.args.x).pair s.args.y with flushDue := true }) ∧
  (∀ (s : State) (pt : Point) (w : Nat) (loc : Loc) (g : Nat),
    let u := s.team s.args.x
    let now := s.pointNow u pt
    let rows := (sortBy (fun (a b : Row) => decide ((a.tileRow.getD 0) ≤ (b.tileRow.getD 0))) ((u.inTile s.args.y).filter (·.woke))).take 32
    let m := lowMask rows.length &&& ~~~(maskOf (fun k => (rows[k]?).any (·.bad)))
    m ≠ 0 → s.teamRuns u = true → u.kern.named s.args.y = some pt → u.waket s.args.y = some w → s.newLoc u.die u.core = some loc →
    s.newGrpid s.args.x = some g → s.loadDue u s.args.y = true → s.loadFirst u w = true →
    unitsOf (u.kern.loadAcq now) ≤ s.freeUnits u.die u.core → Apart s → Known s s.args.x →
    ∃ t c, exec .tileLoad s = .next t ∧ t.ctx (s.uids + 1) = some c ∧ c.team = s.args.x ∧ c.grpid = g ∧ c.loc = loc ∧
      c.acq = u.kern.loadAcq now ∧
      c.frags = some { pc := now.start.1, fmask := m, amask := m } :: List.replicate 7 none ∧
      (∀ r ∈ rows, ∀ q ∈ (t.team s.args.x).rows, q.age ≠ r.age)) ∧
  (∀ (s : State) (r : Row) (rs : List Row) (loc : Loc),
    let u := s.team s.args.x
    let rows := r :: rs
    let m := maskOf (fun k => rows.any (fun q => q.lane == k)) &&& ~~~(maskOf (fun k => rows.any (fun q => q.bad && q.lane == k)))
    m ≠ 0 → s.teamRuns u = true → u.zeroRows s.args.y = rows → s.newLoc u.die u.core = some loc →
    (∀ c ∈ s.ctxs, c.kind = .group → c.team = s.args.x → c.grpid ≠ s.args.y) →
    s.loadFirst u (rows.foldl (fun k q => min k q.wakeTime) r.wakeTime) = true →
    unitsOf u.kern.acq ≤ s.freeUnits u.die u.core → Apart s → Known s s.args.x →
    ∃ t c, exec .checkpointLoad s = .next t ∧ t.ctx (s.uids + 1) = some c ∧ c.team = s.args.x ∧ c.grpid = s.args.y ∧
      c.frags = some { pc := u.kern.entry, fmask := m, amask := m } :: List.replicate 7 none ∧
      (t.team s.args.x).zeroRows s.args.y = []) ∧
  (∀ (s : State) (f : Frame) (fs : List Frame) (loc : Loc) (g : Nat),
    let u := s.team f.team
    let m := maskOf (fun k => (f :: fs).any (fun q => q.lane == k))
    s.frames.filter (fun q => q.issue == s.args.x && q.woken) = f :: fs → s.newLoc u.die u.core = some loc →
    s.newGrpid f.team = some g → s.teamRuns u = true → unitsOf f.acq ≤ s.freeUnits u.die u.core → Apart s →
    ∃ t c, exec .replayGroupLoad s = .next t ∧ t.ctx (s.uids + 1) = some c ∧ c.clause = f.clause ∧ c.mode = f.mode ∧
      c.priv = f.priv ∧ c.grpid = g ∧ c.s = f.s ∧ c.tvec = 0 ∧
      c.frags = some { pc := f.clause.hdr, fmask := m, amask := m } :: List.replicate 7 none ∧
      ∀ q ∈ t.frames, ¬ (q.issue = s.args.x ∧ q.woken = true)) ∧
  (∀ (s : State) (c : Ctx) (va : Word64) (len : Nat) (want : Want), s.ctx s.args.x = some c → c.ended = false →
    (c.frags.getD c.fsel none).isSome = true → c.nextAccess s.args.y = some (va, len, want) → va.toNat < 2 ^ 57 →
    (want = .bin ∨ va.toNat % len = 0) → s.args.z < 2 → s.access (s.missOf c va.toNat len want) c.failed = .busy →
    ∃ t, exec .translationWalk s = .next t ∧ t = { s with walkers := t.walkers, misses := t.misses } ∧
      t.pending (s.missOf c va.toNat len want) = true) ∧
  (∀ (s : State) (w : Walker) (lvl : Nat) (st2 : Bool) (key : Nat), AtWalker s w →
    s.nextRead w.first w.seen = some (lvl, st2, key) →
    (∀ e ∈ s.walks, ¬ (e.die = w.first.die ∧ e.level = lvl ∧ e.stage2 = st2 ∧ e.addr = key)) →
    let e : WalkEntry := { die := w.first.die, level := lvl, stage2 := st2, addr := key, entry := s.homeEntry key,
                           poisoned := !tableAbsent key && s.poisoned key 8 }
    exec .translationWalk s
      = .next { s with walkers := s.walkers.map (fun u => if u = w then { w with seen := w.seen ++ [e], moved := s.time } else u) }) ∧
  (∀ (s : State) (w : Walker) (l : Leaf), AtWalker s w → WalkDone s w → s.args.ok = false → s.poison = [] →
    let m := w.first
    s.walkOn w.seen m.fn m.die m.va = .leaf l → s.unchanged w.seen l = true →
    s.leafCheck m.fn m.die m.core m.va m.len l m.want m.priv = .ok l → m.toucher = .core → m.want ≠ .fetch →
    ∃ t k, exec .translationWalk s = .next t ∧ Walks s t w (.leaf k) ∧ m.served k = true ∧ k.pa = l.pa ∧
      (l.cls = 0 → k.cls = 1 ∧ k.owner = coreNo m.die m.core) ∧
      ∃ e ∈ t.tlb, e.level = 1 ∧ e.place = coreNo m.die m.core ∧ e.fn = m.fn ∧ e.base = m.va ∧ e.leaf = k ∧ e.since = s.time + 1) ∧
  (∀ (s : State) (w : Walker) (k : Leaf), AtWalker s w → WalkDone s w → s.args.ok = true →
    let m := w.first
    (∀ l, s.walkOn w.seen m.fn m.die m.va = .leaf l → s.unchanged w.seen l = true) →
    s.mergedLeaf m.fn m.die m.va = some k → s.leafCheck m.fn m.die m.core m.va m.len k m.want m.priv = .ok k → m.toucher = .core →
    ∃ t, exec .translationWalk s = .next t ∧ Walks s t w (.leaf { k with a := true, d := k.d || m.want.writes }) ∧
      ∀ i < 16, fld (t.readLE (k.entry + 8 * i) 8) 26 26 = 1) ∧
  (∀ (s : State) (w : Walker) (lvl page : Nat) (st2 prq : Bool), AtWalker s w → WalkDone s w → s.args.ok = false →
    s.walkOn w.seen w.first.fn w.first.die w.first.va = .missing lvl st2 prq page →
    let r : Walked := { miss := w.first, res := .missing lvl st2 prq page, since := s.time + 1 }
    exec .translationWalk s = .next { s with walkers := s.walkers.filter (fun v => !v.covers w.first), walked := s.walked ++ [r] }) ∧
  (∀ (s : State) (r : PageReq) (tag : Nat), s.requests.find? (fun q => q.id == s.args.x && q.tag.isNone) = some r →
    r.stage2 = false → s.freeTag r.fn false = some tag →
    (((s.fn r.fn).prqtail + 1) % 2 ^ (s.fn r.fn).prqsize ≠ (s.fn r.fn).prqhead % 2 ^ (s.fn r.fn).prqsize) →
    ∃ t, exec .pageRequestWrite s = .next t ∧
      (t.fn r.fn).prqtail = ((s.fn r.fn).prqtail + 1) % 2 ^ (s.fn r.fn).prqsize ∧
      ∀ q ∈ t.requests, q.id = r.id → q.tag = some tag)

/-! ### Commands and the shard group -/

/-- R280, R281, R290, R293, R296, R299, R411: a command that must wait is taken and the head moves past it; one ends by writing
STATUS; what each command does, EVICT while `abin` requests are in flight. Forms and readings of the model: logs 3, 23, 55. -/
def Obligations.CommandEvents : Prop :=
  (∀ (s : State) (fn st : Nat),
    let f := s.fn fn
    let next := (f.pcqhead + 1) % 2 ^ f.pcqsize
    let taken := (s.cmdTaken fn s.args.y).isSome
    (s.cmdDone fn st).byteAt (memKey 2 (f.pcqbase.toNat + 32 * s.cmdSlot fn + 1)) = BitVec.ofNat 8 st ∧
    (taken = true → ((s.cmdDone fn st).fn fn).pcqhead = f.pcqhead ∧ (s.cmdTake fn) = s ∧
      (s.cmdDone fn st).cmdTaken fn s.args.y = none) ∧
    (taken = false → ((s.cmdDone fn st).fn fn).pcqhead = next ∧ ((s.cmdTake fn).fn fn).pcqhead = next ∧
      (s.cmdTake fn).sys.commands = s.sys.commands ++ [(fn, f.pcqhead, s.cmdBytes fn f.pcqhead)] ∧ (s.cmdTake fn).mem = s.mem)) ∧
  (∀ s : State, s.cmdHas s.args.x = true →
    (s.cmdGet s.args.x 0 1 = 0 ∨ 8 ≤ s.cmdGet s.args.x 0 1) →
    exec .cmdRefused s = .next (s.cmdDone s.args.x 1)) ∧
  (∀ (s : State) (v : Nat), AtHead s s.args.x 1 → s.cmdTarget s.args.x = some v → s.cmdGet s.args.x 0x10 8 % 2 = 0 →
    let first := s.cmdGet s.args.x 8 8 / 4096 * 4096
    let n := s.cmdGet s.args.x 4 4
    s.inFlight v (fun va => n = 0 || (first ≤ va && va < first + 4096 * n)) = false →
    ∃ u : State, exec .cmdInval s = .next (u.cmdDone s.args.x 0x80) ∧ u = { s with tlb := u.tlb, walks := [], walked := u.walked, walkers := u.walkers } ∧
      (∀ e ∈ u.tlb, e ∈ s.tlb ∧ (e.fn = v → n ≠ 0 ∧ e.leaf.meets e.base first n = false)) ∧
      (∀ e ∈ u.walked, e ∈ s.walked ∧ (e.miss.fn = v → n ≠ 0 ∧ ∃ l, e.res = .leaf l ∧ l.meets e.miss.va first n = false)) ∧
      ∀ w ∈ u.walkers, w.first.fn = v → w.seen = []) ∧
  (∀ (s : State) (v : Nat), AtHead s s.args.x 1 → s.cmdTarget s.args.x = some v → s.cmdGet s.args.x 0x10 8 % 2 = 1 →
    (s.inFlight v (fun _ => true) = false →
      ∃ u : State, exec .cmdInval s = .next (u.cmdDone s.args.x 0x80) ∧ u = { s with tlb := u.tlb, walks := [], walked := u.walked, walkers := u.walkers } ∧
        (∀ e ∈ u.tlb, e ∈ s.tlb ∧ (e.fn = v → e.leaf.entry2 = none)) ∧
        (∀ e ∈ u.walked, e ∈ s.walked ∧ (e.miss.fn = v → ∃ l, e.res = .leaf l ∧ l.entry2 = none)) ∧
        ∀ w ∈ u.walkers, w.first.fn = v → w.seen = []) ∧
    (s.inFlight v (fun _ => true) = true → exec .cmdInval s = .next (s.cmdTake s.args.x))) ∧
  (∀ (s : State) (v page : Nat) (l : Leaf), AtHead s s.args.x 2 → OnPage s s.args.x v page l → l.gps = 0 → l.mt = 0 → 2 ≤ l.cls →
    let at' := s.cmdGet s.args.x 0x10 8
    let u := s.vtouch v at' 64
    u.atlasBad v at' page l.bits = false →
    exec .cmdShard s = .next (pageDone ((u.adopt v at' page 1).serveDeferred
      (fun d => d.fn == v && d.page == page && d.reduce.isNone && (u.adopt v at' page 1).fnHere v)
      State.serveRequest) s.args.x v page l.bits)) ∧
  (∀ (s : State) (v page : Nat) (l : Leaf), AtHead s s.args.x 3 → OnPage s s.args.x v page l → l.gps = 3 →
    let u := s.atlasTouch v page
    Nat.land (u.agOwners v page) (u.groupOf v).members = u.agOwners v page →
    exec .cmdDrop s = .next (pageDone (u.moveGps v page 1) s.args.x v page l.bits)) ∧
  (∀ (s : State) (v page : Nat) (l : Leaf), AtHead s s.args.x 4 → OnPage s s.args.x v page l → l.gps = 0 → l.mt = 0 → 2 ≤ l.cls →
    let at' := s.cmdGet s.args.x 0x10 8
    let u := s.vtouch v at' 64
    u.atlasBad v at' page l.bits = false → s.args.ok = false →
    exec .cmdPartial s = .next (pageDone ((u.adopt v at' page 4).serveDeferred
      (fun d => d.fn == v && d.page == page && d.reduce.isSome && (u.adopt v at' page 4).atlasHere v)
      (fun s d => s.reduceArrive d.fn d.member d.page (d.reduce.getD []))) s.args.x v page l.bits)) ∧
  (∀ (s : State) (v page : Nat) (l : Leaf), AtHead s s.args.x 5 → l.gps = 4 →
    s.cmdTarget s.args.x = some v → s.pageLeaf v (s.cmdGet s.args.x 8 8) = some l →
    page = s.cmdGet s.args.x 8 8 / 2 ^ l.bits * 2 ^ l.bits →
    s.inFlightOf v (fun p => !p.isBin) (fun a => page ≤ a && a < page + 2 ^ l.bits) = false →
    exec .cmdEvict s = .next (pageDone ((s.atlasSet v page 0x28 8 (s.cmdGet s.args.x 0x10 8)).evictPage v page)
      s.args.x v page l.bits)) ∧
  (∀ (s : State) (v page : Nat) (l : Leaf), AtHead s s.args.x 6 → OnPage s s.args.x v page l →
    ((l.gps = 1 ∨ l.gps = 6) →
      exec .cmdLocal s = .next (pageDone ((s.zeroOthers v page).moveGps v page 0) s.args.x v page l.bits)) ∧
    ((l.gps = 3 ∨ l.gps = 4) → exec .cmdLocal s = .next (pageDone ((s.finishArrivals v page).moveGps v page 0) s.args.x v page l.bits))) ∧
  (∀ (s : State) (v : Nat) (r : PageReq), AtHead s s.args.x 7 → s.cmdTarget s.args.x = some v →
    let arg := s.cmdGet s.args.x 4 4
    fld arg 31 16 < 2 →
    s.requests.find? (fun q => q.fn == v && q.stage2 == (s.cmdGet s.args.x 2 2 != 0xFFFF) && q.tag = some (fld arg 15 0)) = some r →
    exec .cmdPreply s = .next ((s.answer r (fld arg 16 16 = 1)).cmdDone s.args.x 0x80))

/-- R264, R265, R292 to R294, R357, R361, R402, R408: messages between the members of a shard group; an arrival is added whole,
or stands and is added value by value. Forms and readings of the model: logs 3, 10, 13, 38, 42. -/
def Obligations.GroupMessages : Prop :=
  (∀ s : State,
    let d : Deferred := { fn := s.args.x, member := s.args.y, page := s.args.value.toNat, version := s.args.z, stripes := s.args.nats }
    let u := (s.atlasTouch d.fn d.page).vtouch d.fn d.page (s.agBytes d.fn d.page)
    let own := d.stripes.filter (fun i => (u.stripesOf d.fn d.page (s.groupOf d.fn).self).contains i)
    (s.fnHere d.fn = true → d.version = (s.groupOf d.fn).version → s.gpsOf d.fn d.page < 4 → u.poison = [] →
      exec .stripeRequest s = .next (u.send (.reply d.fn d.member d.page d.version .stripes (own.map (fun i => (i, u.readStripe d.fn d.page i)))))) ∧
    (s.fnHere d.fn = false → s.deferred.length < 1024 →
      exec .stripeRequest s = .next { s with deferred := s.deferred ++ [d] }) ∧
    (s.fnHere d.fn = false → 1024 ≤ s.deferred.length →
      exec .stripeRequest s = .next { s with outbox := s.outbox ++ [.busy d.fn d.member d.page] })) ∧
  (∀ s : State, s.gpsOf s.args.x s.args.value.toNat = 2 → s.agPend s.args.x s.args.value.toNat / 2 ^ s.args.y % 2 = 1 →
    s.args.z + 1000 ≤ s.time →
    exec .stripeRequestResend s
      = .next { s with outbox := s.outbox ++ [.request s.args.x s.args.y s.args.value.toNat (s.groupOf s.args.x).version (s.stripesOf s.args.x s.args.value.toNat s.args.y)] }) ∧
  (∀ s : State, s.gpsOf s.args.x s.args.value.toNat = 2 → s.agPend s.args.x s.args.value.toNat / 2 ^ s.args.y % 2 = 1 →
    s.args.z = (s.groupOf s.args.x).version →
    (s.args.reply = .stripes →
      exec .stripeReply s = .next (s.takeStripes s.args.x s.args.y s.args.value.toNat s.args.stripes)) ∧
    (s.args.reply = .notMember → exec .stripeReply s = .next (s.ask s.args.x s.args.value.toNat s.args.y)) ∧
    ((s.args.reply = .notPresent ∨ s.args.reply = .poisoned) →
      exec .stripeReply s = .next (s.orphan s.args.x s.args.value.toNat))) ∧
  (∀ (s : State) (g : Gather), s.args.z = 0 →
    s.gathers.find? (fun g => g.fn == s.args.x && g.page == s.args.value.toNat && !g.slow
      && g.start + 1000 * (s.groupOf s.args.x).timeout ≤ s.time) = some g →
    ∃ t, exec .peerSlow s = .next t ∧ ∀ k ∈ t.gathers, k.fn = s.args.x → k.page = s.args.value.toNat → k.slow = true) ∧
  (∀ s : State,
    let part := s.partOfFn s.args.x
    let g := s.shard part
    g.present = true →
    (s.args.ok = true → ∃ t, exec .heartbeat s = .next t ∧ t = { s with shards := t.shards } ∧
      (t.shard part).heardAt s.args.y = s.time) ∧
    (s.args.ok = false → g.lastBeat + 100000 ≤ s.time → s.sys.links ≠ 0 →
      ∃ t, exec .heartbeat s = .next t ∧ t.outbox = s.outbox ++ [.heartbeat s.args.x] ∧ (t.shard part).lastBeat = s.time)) ∧
  (∀ s : State,
    let g := s.groupOf s.args.x
    s.args.y ≠ g.self → g.round = none → g.present = true → g.latestMembers / 2 ^ s.args.y % 2 = 1 →
    g.heardAt s.args.y + 1000 * g.timeout ≤ s.time → s.args.ok = true →
    exec .memberSilenceTimeout s = .next (s.propose s.args.x (maskDrop g.latestMembers s.args.y))) ∧
  (∀ s : State,
    let part := s.partOfFn s.args.x
    let g := s.shard part
    let mask := s.args.value.toNat
    let r : Round := { proposer := s.args.y, start := s.time, version := s.args.z, mask, accepted := Nat.lor 0 (Nat.lor (2 ^ g.self) (2 ^ s.args.y)) }
    g.present = true → s.args.z = g.latest + 1 → g.round = none → mask / 2 ^ g.self % 2 = 1 →
    exec .agreementProposal s = .next (((s.setShard part { g with round := some r }).sendAll g.self (Nat.lor mask g.latestMembers)
      (fun _ => .accept s.args.x s.args.z s.args.y)).tryCommit s.args.x)) ∧
  (∀ (s : State) (r : Round),
    let part := s.partOfFn s.args.x
    let g := s.shard part
    g.round = some r → r.version = s.args.z → r.proposer = s.args.value.toNat →
    exec .agreementAccept s = .next ((s.setShard part
      { g with round := some { r with accepted := Nat.lor r.accepted (2 ^ s.args.y) } }).tryCommit s.args.x)) ∧
  (∀ s : State,
    (s.atlasHere s.args.x = true → (s.gpsOf s.args.x s.args.value.toNat = 4 ∨ s.gpsOf s.args.x s.args.value.toNat = 5) →
      (s.args.z = 0 →
        exec .reduceStripeArrival s = .next (s.addStripes s.args.x s.args.y s.args.value.toNat s.args.stripes)) ∧
      (s.args.z = 1 → exec .reduceStripeArrival s = .next { s with arrivals := s.arrivals ++ [⟨s.args.x, s.args.y,
        s.args.value.toNat, s.arrivedUnits s.args.x s.args.value.toNat s.args.stripes⟩] }) ∧
      (∀ a, s.args.z = 2 → s.arrivals.find? (fun a => a.fn == s.args.x && a.member == s.args.y && a.page == s.args.value.toNat) = some a →
        exec .reduceStripeArrival s = .next (s.addSome a s.args.nats))) ∧
    (s.atlasHere s.args.x = false → s.args.z < 2 → s.deferred.length < 1024 → exec .reduceStripeArrival s = .next { s with
      deferred := s.deferred ++ [{ fn := s.args.x, member := s.args.y, page := s.args.value.toNat, reduce := some s.args.stripes }] })) ∧
  (∀ s : State, s.gpsOf s.args.x s.args.value.toNat = 5 →
    exec .reduceAcknowledgement s = .next ((s.atlasSet s.args.x s.args.value.toNat 0x18 8
      (maskDrop (s.agPend s.args.x s.args.value.toNat) s.args.y)).reduceCheck s.args.x s.args.value.toNat))

/-! ### The matrix array, rings and collectives -/

/-- R317, R319, R322 to R326, R331: fills, grants, passes, drains and the end of a team. A pass over a range in the scratchpad reads
the bytes stored there, where the operand cache holds no other value of them. A pass and a drain join their flags to their thread's
MODE, and a pass has the signature of R329: CRC-64/ECMA-182 over its words, format records, masks, A's and B's admitted codes and side
bytes, and its entries before and after.
Forms and readings of the model: logs 3, 24, 25, 39. -/
def Obligations.MatrixEvents : Prop :=
  (∀ (s s1 : State) (f : Fill) (bs : List Byte),
    (s.quad s.args.z).fills.find? (fun g => g.op == s.args.x && g.slot == s.args.y) = some f →
    f.wait = none → s.args.nats = [] → s.fillFirst s.args.z f.slot f.op = true → s.teamRuns (s.team f.team) = true →
    s.pull (s.fillMiss f) f.failed f.ranges = .ok s1 bs →
    ∃ t, exec .mldbFillComplete s = .next t ∧
      (t.quad s.args.z).slotAt f.slot
        = ((s1.quad s.args.z).slotAt f.slot).filled f.fmtRec ((keepEarlier f.got bs).take 49152) ((keepEarlier f.got bs).drop 49152)
            (.memory f.tile f.side) ∧
      (∀ o ∈ t.ops, o.id = f.op → o.done = true) ∧ ∀ g ∈ (t.quad s.args.z).fills, ¬ (g.op = f.op ∧ g.slot = f.slot)) ∧
  (∀ s : State,
    let q := s.quad s.args.x
    q.running = none → (∃ m ∈ q.queue, q.headReady m = true ∧ s.mayGrant q m = true) →
    ∃ t, ∃ m ∈ q.queue, exec .arrayGrant s = .next t ∧ q.headReady m = true ∧ s.mayGrant q m = true ∧
      (t.quad s.args.x).running = some m.op ∧ t = { s with quads := t.quads }) ∧
  (∀ (s : State) (m : Cmd),
    let q := s.quad s.args.x
    let r := q.rsvAt m.handle
    let slot := q.slotAt m.slot
    let u := s.team m.team
    let byteA := fun k => (Cells.get 0 (if r.kind = 2 then u.scratch else q.obuf) (r.base + k)).toNat
    let old := fun (i j : Nat) => if m.acc then Cells.get 0 (q.tileAt m.tile).acc (128 * i + j) else 0
    let tileB := fun k => (Cells.get 0 slot.tile k).toNat
    let sideB := fun k => (Cells.get 0 slot.side k).toNat
    let entry := fun (i j : Nat) => passEntry m.ty m.acc m.sat m.kp (rowA r.fmtRec byteA byteA m.kp i) (colB slot.tileRec tileB sideB j)
      (old i j)
    let sides := fun (f : Nat) (side : Nat → Nat) (at' : Nat → Nat) (zero : Nat → Nat) =>
      ((List.range (groupsPerRow f)).filter (fun g => (bitsOf m.kp 384).any (fun k => k / fmtBlock f == g))).flatMap
        (fun g => sideBytes f side (at' g) (zero g))
    let nA := groupsPerRow r.fmtRec
    let nB := groupsPerRow slot.tileRec
    q.current = some m → m.pass = true → slot.full = true → s.args.nats = [] → s.args.stripes = [] →
    (r.kind = 2 → ∀ e ∈ q.cache, e.team = u.id → e.handle = m.handle → e.gen = u.gen →
      e.data = blockBytes u r.base r.fmtRec e.block) →
    ∃ t, exec .mpassComplete s = .next t ∧ (t.quad s.args.x).running = none ∧ (∀ k ∈ (t.quad s.args.x).queue, k.op ≠ m.op) ∧
      ((t.quad s.args.x).tileAt m.tile).ty = m.ty ∧
      (∀ i j, j < 128 → Cells.get 0 ((t.quad s.args.x).tileAt m.tile).acc (128 * i + j)
        = if (i, j) ∈ m.entries then (entry i j).1 else Cells.get 0 (q.tileAt m.tile).acc (128 * i + j)) ∧
      t.ctx m.uid = (s.ctx m.uid).map (fun c => { c with mode := c.mode ||| joinFlags (m.entries.map (fun e => (entry e.1 e.2).2)) }) ∧
      ∀ o ∈ t.ops, o.id = m.op → o.done = true ∧ o.sig = some (crc64
        (natLE 4 m.word.toNat ++ natLE 4 m.desc.toNat ++ natLE 4 r.fmtRec ++ natLE 4 slot.tileRec ++
          natLE 8 m.rp ++ natLE 16 m.cp ++ natLE 48 m.kp ++
          (bitsOf m.rp 64).flatMap (fun i => (bitsOf m.kp 384).flatMap (fun k =>
            natLE (if elemBits r.fmtRec = 16 then 2 else 1) (codeA r.fmtRec byteA i k))) ++
          (bitsOf m.rp 64).flatMap (fun i => sides r.fmtRec byteA
            (fun g => if isBe r.fmtRec then rangeSoff r.fmtRec 0 + 8 * i + g else rangeSoff r.fmtRec 0 + 2 * (i * nA + g))
            (fun g => rangeZoff r.fmtRec 0 + i * nA + g)) ++
          (bitsOf m.cp 128).flatMap (fun j => (bitsOf m.kp 384).flatMap (fun k => natLE 1 (codeB slot.tileRec tileB j k))) ++
          (bitsOf m.cp 128).flatMap (fun j => sides slot.tileRec sideB
            (fun g => if isBe slot.tileRec then 8 * j + g else 2 * (nB * j + g)) (fun g => 256 * nB + nB * j + g)) ++
          m.entries.flatMap (fun e => natLE 4 (old e.1 e.2).toNat ++ natLE 4 (entry e.1 e.2).1.toNat)))) ∧
  (∀ (s : State) (m : Cmd),
    let q := s.quad s.args.x
    let old := fun (e : Nat × Nat) => if (q.tileAt m.tile).ty = .none then 0 else Cells.get 0 (q.tileAt m.tile).acc (128 * e.1 + e.2)
    q.current = some m → m.pass = false → s.args.ok = false →
    ∃ t, exec .mdrainComplete s = .next t ∧
      t.ctx m.uid = (s.ctx m.uid).map (fun c => { c with mode := c.mode ||| joinFlags (m.entries.map (fun e => (m.drained (old e)).2)) }) ∧ (t.quad s.args.x).running = none ∧ (∀ k ∈ (t.quad s.args.x).queue, k.op ≠ m.op) ∧
      (∀ i j, j < 128 → Cells.get 0 ((t.quad s.args.x).tileAt m.tile).acc (128 * i + j)
        = if m.zero = true ∧ (i, j) ∈ m.entries then 0 else Cells.get 0 (q.tileAt m.tile).acc (128 * i + j)) ∧
      (m.toob = true → s.teamEnded m.team = false → (t.quad s.args.x).obuf = m.entries.foldl (fun b e =>
        putRest b m.wrote ((q.rsvAt m.handle).base + m.offsetOf e) (m.drained (old e)).1) q.obuf) ∧
      (m.toob = false → (t.quad s.args.x).obuf = q.obuf)) ∧
  (∀ (m : Cmd) (x : Word),
    let f := if m.out = 1 then bf16 else fp16
    let v := (fp32.read x.toNat).exact
    let r := f.round .rne false 0 v
    (m.out = 0 → m.drained x = (natLE 4 x.toNat, 0)) ∧
    (m.out ≠ 0 → finite v = true → valueOf v = 0 → m.drained x = (natLE 2 0, 0)) ∧
    (m.out ≠ 0 → ¬ (finite v = true ∧ valueOf v = 0) → m.drained x = (natLE 2 r.code, r.flags))) ∧
  (∀ (s : State) (u : Team), s.teams.find? (fun t => t.id == s.args.x) = some u → u.out = false → s.teamQuiet u = true →
    s.args.x ≠ 0 →
    ∃ t, exec .teamRetire s = .next t ∧ (∀ w ∈ t.teams, w.id ≠ s.args.x) ∧
      ∀ k, ((t.quad (quadNo u.die u.core)).rsvAt k).team ≠ s.args.x ∧ ((t.quad (quadNo u.die u.core)).slotAt k).team ≠ s.args.x ∧
        ((t.quad (quadNo u.die u.core)).tileAt k).team ≠ s.args.x)

/-- R322: one entry of a pass. On the integer path it is the exact sum of the admitted products, with the old entry where the pass
accumulates, clamped to I32 with the flag SA under SAT, and otherwise taken modulo 2^32. On the float path each block of 48 terms
has a leaf, which is a NaN where a term is one or infinities of both signs meet, otherwise an infinity where a term is one, and
otherwise the exact sum, whose zero is +0; the leaves are rounded once to FP32 by RNE and added in the fixed tree, and then to the
old entry where the pass accumulates. The signature's CRC-64 goes bit by bit over each byte, from 0 (R329). -/
def Obligations.PassSums : Prop :=
  (crc64 [] = 0 ∧ ∀ (bs : List Byte) (b : Byte), crc64 (bs ++ [b])
    = Nat.rec (crc64 bs ^^^ (b.setWidth 64 <<< 56))
        (fun _ (c : Word64) => if c.toNat < 2 ^ 63 then c <<< 1 else (c <<< 1) ^^^ 0x42F0E1EBA9EA3693) 8) ∧
  (∀ (f g : Nat → Int) (kp : Nat) (acc sat : Bool) (old : Word),
    let t := (((List.range 384).filter (bitOf kp)).map (fun k => f k * g k)).sum + if acc then old.toInt else 0
    passEntry .i32 acc sat kp ((List.range 384).map (fun k => exactInt (f k))) ((List.range 384).map (fun k => exactInt (g k))) old
      = if sat = true ∧ 2 ^ 31 ≤ t then (0x7FFFFFFF, fSA)
        else if sat = true ∧ t < -2 ^ 31 then (0x80000000, fSA)
        else (BitVec.ofInt 32 t, 0)) ∧
  (∀ (a b : Nat → Exact) (kp : Nat) (acc sat : Bool) (old : Word),
    (∀ k, finite (a k) = true ∨ (∃ i, a k = .inf i) ∨ ∃ i, a k = .nan i) →
    (∀ k, finite (b k) = true ∨ (∃ i, b k = .inf i) ∨ ∃ i, b k = .nan i) →
    let term := fun k => (a k).mul (b k)
    let block := fun j => ((List.range 48).map (48 * j + ·)).filter (bitOf kp)
    let rnd := fun (x : Exact) => fp32.round .rne false 0 x
    let val := fun (code : Nat) => (fp32.read code).exact
    let plus := fun (x y : Nat × Word) =>
      let r := rnd ((val x.1).add false (val y.1))
      (r.code, x.2 ||| y.2 ||| r.flags)
    ∃ leaf : Nat → Exact,
      (∀ j, j < 8 →
        let ends := (∃ k ∈ block j, term k = .inf false) ∧ ∃ k ∈ block j, term k = .inf true
        let bad := ends ∨ ∃ k ∈ block j, ∃ i, term k = .nan i
        (bad → leaf j = .nan (decide (ends ∨ ∃ k ∈ block j, term k = .nan true))) ∧
        (¬ bad → ∀ i, (∃ k ∈ block j, term k = .inf i) → leaf j = .inf i) ∧
        ((∀ k ∈ block j, finite (term k) = true) →
          let sum := ((block j).map (fun k => valueOf (a k) * valueOf (b k))).sum
          finite (leaf j) = true ∧ valueOf (leaf j) = sum ∧ (sum = 0 → leaf j = .zero false))) ∧
      let q := fun (j : Nat) => let r := rnd (leaf j); (r.code, r.flags)
      let r := plus (plus (plus (q 0) (q 1)) (plus (q 2) (q 3))) (plus (plus (q 4) (q 5)) (plus (q 6) (q 7)))
      let r := if acc then plus r (old.toNat, 0) else r
      passEntry .f32 acc sat kp ((List.range 384).map a) ((List.range 384).map b) old = (BitVec.ofNat 32 r.1, r.2))

/-- R302, R314, R318, R319, R339: the values of A and B in a pass, each from its place: element (k, n) of a tile and element (m, k)
of a range, with the scale and the zero point of their group; and a 16-bit A, whose admitted elements of a block are each rounded to
the nearest multiple of 2^(emax − 14), ties to even, or are NaN where one of them is no finite number.  That every NaN element is quiet,
so that it sets no IV, a signalling E5M2 or 16-bit code's too, is the model's reading (log 25, DEDUCED). -/
def Obligations.OperandValues : Prop :=
  (∀ (r : Nat) (elem side : Nat → Nat) (row k kp : Nat), (∀ i, elem i < 256) → (∀ i, side i < 256) → k < 384 →
    3 ≤ fmtKind r → fmtKind r ≤ 10 → (fmtKind r = 7 ∨ fmtKind r = 8 → groupLen r ≠ 0) →
    let half := fmtKind r = 6 ∨ fmtKind r = 8
    let code := if half then elem (192 * row + k / 2) / 16 ^ (k % 2) % 16 else elem (384 * row + k)
    let be := fmtKind r = 9 ∨ fmtKind r = 10
    let ng := 384 / groupLen r
    let g := k / groupLen r
    let soff := if half then 12288 else 24576
    (colB r elem side row).length = 384 ∧ (rowA r elem side kp row).length = 384 ∧
    (∃ v, (colB r elem side row)[k]? = some v ∧
      OperandIs (fmtKind r) code
        (if be then side (8 * row + k / 48) else side (2 * (ng * row + g)) + 256 * side (2 * (ng * row + g) + 1))
        (side (256 * ng + ng * row + g)) v) ∧
    ∃ v, (rowA r elem side kp row)[k]? = some v ∧
      OperandIs (fmtKind r) code
        (if be then side (24576 + 8 * row + k / 48)
          else side (soff + 2 * (row * ng + g)) + 256 * side (soff + 2 * (row * ng + g) + 1))
        (side (soff + 128 * ng + row * ng + g)) v) ∧
  (∀ e ∈ ([(1, 5, 10), (2, 8, 7)] : List (Nat × Nat × Nat)), ∀ (r : Nat) (elem side : Nat → Nat) (row kp j : Nat),
    fmtKind r = e.1 → (∀ i, elem i < 256) → j < 8 →
    let code := fun k => elem (768 * row + 2 * k) + 256 * elem (768 * row + 2 * k + 1)
    let terms := ((List.range 48).map (48 * j + ·)).filter (bitOf kp)
    let expo := fun k => code k / 2 ^ e.2.2 % 2 ^ e.2.1
    let value := fun k => codeValue e.2.1 e.2.2 (code k)
    let odd := ∃ k ∈ terms, expo k = 2 ^ e.2.1 - 1
    (rowA r elem side kp row).length = 384 ∧
    (odd → ∀ k ∈ terms, (rowA r elem side kp row)[k]? = some (.nan false)) ∧
    (¬ odd → (∀ k ∈ terms, value k = 0) → ∀ k ∈ terms, (rowA r elem side kp row)[k]? = some (.zero false)) ∧
    (¬ odd → ∀ top, (∀ k ∈ terms, value k ≠ 0 → max 1 (expo k) ≤ top) → (∃ k ∈ terms, value k ≠ 0 ∧ max 1 (expo k) = top) →
      let unit : Rat := 2 ^ top / 2 ^ (2 ^ (e.2.1 - 1) - 1) / 2 ^ 14
      ∀ k ∈ terms, ∃ v, ∃ n : Int, (rowA r elem side kp row)[k]? = some v ∧ finite v = true ∧ valueOf v = n * unit ∧
        2 * (n * unit - value k) ≤ unit ∧ 2 * (value k - n * unit) ≤ unit ∧
        (2 * (n * unit - value k) = unit ∨ 2 * (value k - n * unit) = unit → n % 2 = 0)))

/-- R334, R335, R338, R342 to R344, R346, R376: laps go to the eligible partition of most credit, tiles are emitted in order,
boards reach their stop with empty slots, or with none where their slice may not use the ring head's port, a stop sees each end
of a tile after the stop before it, a good tile of an attempting board fills its slot, and a buffer too full slows the ring once
at a tile boundary. That a board tests its port again as it reaches its stop, and at a forbidden one captures nothing and owes the
trap as its operation ends, is the model's choice (log 11). Forms and readings of the model: logs 3, 27. -/
def Obligations.RingEvents : Prop :=
  (∀ s : State,
    let r := s.args.x % 2
    let g := s.ring r
    let got := fun p => (s.part p).ringCredit r + (s.part p).mwgt
    g.order.length ≤ g.pos → g.slowDue = false →
    ((∃ p, p < 64 ∧ (s.part p).eligible r = true) →
      ∃ t p, exec .lapBoundary s = .next t ∧ p < 64 ∧ (s.part p).eligible r = true ∧ (t.ring r).part = some p ∧
        (t.ring r).pos = 0 ∧ (t.ring r).lapId = g.lapId + 1 ∧ (t.ring r).itin = ((s.part p).mring r).itin ∧
        ((g.slowed && !g.calm) = false → (t.ring r).r = ((s.part p).mring r).rate) ∧
        (t.ring r).calm = g.bufs.all (fun e => decide (e.2 ≤ 98304)) ∧
        ∀ k, k < 64 → (s.part k).eligible r = true → got k ≤ got p) ∧
    ((∀ p, p < 64 → (s.part p).eligible r = false) →
      ∃ t, exec .lapBoundary s = .next t ∧ t.ring r = { g with part := none, order := [], pos := 0 })) ∧
  (∀ (s : State) (e : Nat × Nat),
    let r := s.args.x % 2
    let g := s.ring r
    g.order[g.pos]? = some e → fld (s.fn (s.fnOfPart (g.part.getD 0))).tctl.toNat 0 0 = 1 → g.slowDue = false → s.args.nats = [] →
    ∃ t w, exec .tileEmit s = .next t ∧ (t.ring r).wire = g.wire ++ [w] ∧ (t.ring r).pos = g.pos + 1 ∧
      (t.ring r).seq = g.seq + 1 ∧ w.seq = g.seq ∧ w.lap = g.lap ∧ w.part = g.part.getD 0 ∧ w.layer = e.1 ∧ w.tile = e.2 ∧
      w.reason ≤ 3 ∧ (w.reason ≠ 0 → w.bytes = [] ∧ w.side = [])) ∧
  (∀ (s : State) (b : Board),
    let q := s.quad s.args.z
    q.boards.find? (fun k => k.op == s.args.x && k.slot == s.args.y) = some b → b.reached = false →
    (∀ j, j < b.count → s.fillFirst s.args.z (b.slot + j) b.op = true) → s.teamRuns (s.team b.team) = true →
    let slice := s.connOf (s.args.z / 32) (s.args.z % 32 / 4)
    (portAllowed slice 12 = true → b.tiles.any (·.awaits) = true →
      ∃ t, ∃ k ∈ (t.quad s.args.z).boards, exec .boardReachStop s = .next t ∧
        k = { b with reached := true, after := Cells.get 0 (s.ring b.ring).passed s.args.z } ∧
        ∀ j, j < b.count → b.tiles.getD j .captured ≠ .captured → ((t.quad s.args.z).slotAt (b.slot + j)).full = false) ∧
    (portAllowed slice 12 = false → b.op ≠ 0 →
      ∃ t, exec .boardReachStop s = .next t ∧ ∀ o ∈ t.ops, o.id = b.op → o.done = true ∧ o.owes.isSome = true)) ∧
  (∀ s : State,
    let n := s.args.x % 256
    let r := s.args.y % 2
    let g := s.ring r
    let k := Cells.get 0 g.passed n
    (∀ w, s.args.z = 0 → k % 2 = 0 → k / 2 < g.seq → g.wire.find? (fun w => w.seq == k / 2) = some w →
      ((n = w.head ∨ k < Cells.get 0 g.passed (stopBefore r n)) →
        exec .tileSighting s = .next (s.setRing r { g with passed := Cells.set 0 g.passed n (k + 1) })) ∧
      (n ≠ w.head → Cells.get 0 g.passed (stopBefore r n) ≤ k → exec .tileSighting s = .next s)) ∧
    (∀ w, s.args.z ≠ 0 → g.passingTile n = some w → n ≠ w.head → Cells.get 0 g.passed (stopBefore r n) ≤ k →
      exec .tileSighting s = .next s) ∧
    (∀ w, s.args.z ≠ 0 → s.args.stripes = [] → g.passingTile n = some w →
      (n = w.head ∨ k < Cells.get 0 g.passed (stopBefore r n)) →
      ∃ t, exec .tileSighting s = .next t ∧ Cells.get 0 (t.ring r).passed n = k + 1 ∧
        ∀ b, (s.quad n).boards.filter (fun b => b.attempts r w && s.teamRuns (s.team b.team)) = [b] → w.reason = 0 → s.args.ok = true → w.fmt = b.fmt →
          Cells.get 0 g.bufs n - s.args.value.toNat + 49152 ≤ 196608 →
          ((t.quad n).slotAt (b.slot + (w.tile - b.first))).full = true ∧
          ((t.quad n).slotAt (b.slot + (w.tile - b.first))).tile = Cells.setMany 0 [] 0 w.bytes)) ∧
  (∀ s : State,
    let g := s.ring (s.args.x % 2)
    (g.slowAt ≠ some g.seq → (∃ e ∈ g.bufs, 147456 < e.2) → exec .ringRateSlow s = .next (s.setRing (s.args.x % 2)
      { g with r := min 16 (2 * g.r), slowed := true, calm := false, brimmed := false, slowAt := some g.seq })) ∧
    ((g.slowAt = some g.seq ∨ (g.brimmed = false ∧ ∀ e ∈ g.bufs, e.2 ≤ 147456)) → exec .ringRateSlow s = .next s))

/-- R350, R353 to R356: a collective that has started: the switches' answer, another member's data, completion with STATUS in
its register, and the arrival on its object. Forms and readings of the model: logs 3, 10, 29. -/
def Obligations.CollectiveEvents : Prop :=
  (∀ (s : State) (c : Coll), s.coll s.args.x = some c → c.started = true → c.complete = false → c.link = none →
    exec .switchSlotRequest s = .next ((s.setColl { c with link := some (!s.args.ok) }).collPlace c.id)) ∧
  (∀ (s : State) (c : Coll), s.coll s.args.x = some c → c.started = true → c.complete = false → s.args.y < 64 →
    c.members / 2 ^ s.args.y % 2 = 1 → s.args.y ≠ c.self → (∀ e ∈ c.data, e.1 ≠ s.args.y) → s.args.z = 0 →
    exec .collectiveDataArrival s
      = .next ((s.setColl { c with data := c.data ++ [(s.args.y, s.args.bytes)] }).collPlace c.id)) ∧
  (∀ (s : State) (c : Coll), s.coll s.args.x = some c → c.started = true → c.complete = false → collKind c.desc ≠ 5 → c.err = 0 →
    c.placed = true → c.acks = 0 → c.t < 8 → Known s c.team →
    ∃ t, exec .collectiveComplete s = .next t ∧
      (t.team c.team).tAt c.t / 2 ^ 224 = 1 + (if c.link = some true then 2 else 0) + (if c.bo then 4 else 0) ∧
      (∀ o ∈ t.ops, (∃ j ∈ c.joined, j.2 = o.id) → o.done = true) ∧
      ∃ k ∈ t.colls, k.id = c.id ∧ k.complete = true ∧ k.owed = 1) ∧
  (∀ (s : State) (c : Coll), s.coll s.args.x = some c → c.complete = true → c.owed = 1 → c.wct < s.time → Known s c.team →
    ∃ t, exec .collectiveArrive s = .next t ∧ (∀ k ∈ t.colls, k.id ≠ c.id) ∧
      t.team c.team = (s.team c.team).engineArrive c.obj)

/-! ### Launches, partitions and firmware -/

/-- R225, R368, R370 to R372: QSUB, reading as a second agent, submits a TCB of the supervisor's part of the pool in
state 0, a dispatcher places the next cluster of its chosen queue, and a grid whose teams are gone ends. That a cluster is placed
by the kernel record that its grid recorded at its first cluster is the model's choice (log 51).
Forms and readings of the model: logs 3, 32. -/
def Obligations.LaunchEvents : Prop :=
  (∀ s : State,
    let n := s.args.x % 64
    let i := s.args.value.toNat % 2 ^ 13
    let q := s.queue n
    let fn := s.fnOfPart q.part
    let u := fun (err : Nat) => (s.setQueue n { q with index := i, qerr := err }).tcbTouch q.part i 1
    (i < (s.part q.part).hcnt → s.tcbGet q.part i 0xE 1 = 0 →
      exec .qsub s = .next (((u 0).touchKernel fn ((u 0).tcbGet q.part i 0 8)).submit q.part i)) ∧
    ((s.part q.part).hcnt ≤ i → exec .qsub s = .next (u 1)) ∧
    (i < (s.part q.part).hcnt → s.tcbGet q.part i 0xE 1 ≠ 0 → exec .qsub s = .next (u 2))) ∧
  (∀ (s : State) (n tcb : Nat) (rest : List Nat) (d sl r : Nat),
    let part := s.args.x
    let k := ((s.gridOf part tcb).map (·.kern)).getD (s.kernelAt (s.fnOfPart part) (s.tcbGet part tcb 0 8))
    s.partRuns part = true → (∀ g ∈ s.grids, g.part = part → g.again = []) → (s.part part).chosen = some n →
    (s.queue n).fifo = tcb :: rest → s.findLine part k [] = some (d, sl, r) →
    ∃ t, exec .clusterPlace s = .next t ∧ t.teams.length = s.teams.length + k.teams ∧ (t.part part).chosen = none) ∧
  (∀ (s : State) (g : Grid), s.gridOf s.args.x s.args.y = some g → g.total ≤ g.next → g.again = [] →
    (∀ u ∈ s.teams, ¬ (u.part = s.args.x ∧ u.tcb = s.args.y)) → g.maxWct < s.time →
    ∃ t, exec .gridEnd s = .next t ∧ ∀ h ∈ t.grids, ¬ (h.part = s.args.x ∧ h.tcb = s.args.y))

/-- R366, R377 to R383, R386, R408: quanta, halts, swaps and the watchdog; slices lent, recalled and returned; and the carve-out.  A
swap-out waits for a free vault unit (log 33), and PDEBT wraps at 32 bits (log 46).
Forms and readings of the model: logs 3, 32. -/
def Obligations.PartitionEvents : Prop :=
  (∀ s : State,
    let p := s.part s.args.x
    p.state = 1 → s.sys.heat = .run → p.quant ≠ 0 → 1 < (s.rota s.args.x).length →
    p.quantStart + 1000 * (p.quant - p.quantCut) ≤ s.time →
    ∃ t, exec .quantumExpiry s = .next t ∧ (t.part s.args.x).state = 2 ∧ (t.part s.args.x).haltAt = some s.time) ∧
  (∀ (s : State) (h at' : Nat),
    let p := s.part s.args.x
    let late := (p.drained.filter (fun e => h + 234000 < e.2)).length
    let excess := (at' - h - 234000) / 1000 * late
    p.state = 2 → p.haltAt = some h → p.haltedAt = none → s.haltTime s.args.x = some at' →
    ((p.thermal = true ∨ at' ≤ h + 234000) →
      exec .partitionHalted s = .next (s.setPart s.args.x { p with haltedAt := some at' })) ∧
    (p.thermal = false → ∃ t, exec .partitionHalted s = .next t ∧ (t.part s.args.x).haltedAt = some at' ∧
      (t.part s.args.x).debt = if excess = 0 then p.debt else (p.debt + excess) % 2 ^ 32)) ∧
  (∀ s : State,
    let p := s.part s.args.x
    let units := s.freeAmong s.args.nats
    (p.state = 2 → s.sys.heat = .run → p.haltedAt.isSome = true → p.thermal = false → units ≠ 0 →
      ∃ t, exec .swapOut s = .next t ∧ (t.part s.args.x).state = 3 ∧ (∀ u ∈ t.teams, u.part = s.args.x → u.out = true) ∧
        t.sys.shadow = Nat.lor s.sys.shadow units ∧ (t.part s.args.x).shadow = Nat.lor p.shadow units ∧
        ∀ e ∈ t.tlb, (s.fn e.fn).part ≠ some s.args.x) ∧
    (p.state = 2 → units = 0 → exec .swapOut s = .next s) ∧
    (p.state = 3 → s.sys.heat = .run → exec .swapOut s = .next (s.setPart s.args.x { p with state := 4, haltAt := none }))) ∧
  (∀ s : State, s.sys.heat = .run →
    ((s.part s.args.x).state = 4 → s.nextInRota s.args.x = some s.args.x →
      (∀ p ∈ s.rota s.args.x, (s.part p).state = 4 ∨ (s.part p).state = 0) →
      exec .swapIn s = .next (s.setPart s.args.x { s.part s.args.x with state := 5 })) ∧
    ((s.part s.args.x).state = 5 → (s.part s.args.x).thermal = false → s.args.y = 0 → s.args.nats = [] →
      ∃ t, exec .swapIn s = .next t ∧ (t.part s.args.x).state = 1 ∧ (t.part s.args.x).quantStart = s.time ∧
        (t.part s.args.x).shadow = 0) ∧
    ((s.part s.args.x).state = 5 → (s.part s.args.x).thermal = true →
      ∃ t, exec .swapIn s = .next t ∧ (t.part s.args.x).state = 1 ∧ (t.part s.args.x).quantStart = s.time ∧
        (t.part s.args.x).quantCut = 0 ∧ (t.part s.args.x).debt = (s.part s.args.x).debt)) ∧
  (∀ (s : State) (h : Nat),
    let p := s.part s.args.x
    s.args.z = 0 → p.state = 2 → p.haltAt = some h → p.haltedAt = none → p.thermal = false → p.watched = false →
    h + 1000000 ≤ s.time → Apart s →
    ∃ t, exec .watchdogExpiry s = .next t ∧ (t.part s.args.x).watched = true ∧
      ∀ c ∈ t.ctxs, (∃ u ∈ s.partTeams s.args.x, s.teamEnded u.id = false ∧ c.team = u.id) → c.ended = true) ∧
  (∀ (s : State) (lender : Nat),
    let k := s.args.x % 64
    ((List.range 64).filter (fun p => (s.part p).slices / 2 ^ k % 2 = 1)).find? (fun p => (s.part p).state = 1) = some lender →
    (∀ u ∈ s.teams, u.out = true ∨ u.die ≠ k / 8 ∨ sliceOfCore u.core ≠ k % 8) →
    ¬ (s.args.y < 64 ∧ (s.part s.args.y).slices / 2 ^ k % 2 = 1) →
    (∀ l ∈ s.sys.loans, l.die ≠ k / 8 ∨ l.slice ≠ k % 8) → (s.part s.args.y).slices / 2 ^ (8 * (k / 8)) % 256 ≠ 0 →
    Cells.get 0 s.sys.sliceSeen k + 10000 ≤ s.time → (s.part lender).quantStart + 10000 ≤ s.time →
    exec .sliceLend s = .next { s with sys := { s.sys with loans := s.sys.loans ++ [{ die := k / 8, slice := k % 8, lender, borrower := s.args.y, start := s.time }] } }) ∧
  (∀ (s : State) (l : Loan), s.sys.loans.find? (fun l => 8 * l.die + l.slice == s.args.x % 64 && l.recallAt.isNone) = some l →
    (s.fitsOnlyWith l = true →
      ∃ t, exec .sliceRecall s = .next t ∧ ∃ m ∈ t.sys.loans, m = { l with recallAt := some s.time }) ∧
    ((∀ m ∈ s.sys.loans, s.fitsOnlyWith m = false) → exec .sliceRecall s = .next s)) ∧
  (∀ (s : State) (l : Loan) (c d : Nat), s.sys.loans.find? (fun l => 8 * l.die + l.slice == s.args.x % 64) = some l →
    l.recallAt = some c → l.drainedAt = some d → (s.loanTeams l = [] ∨ (s.sys.heat = .run ∧ s.freeAmong s.args.nats ≠ 0)) →
    let excess := (d - c - 234000) / 1000
    ∃ t, exec .recallReturn s = .next t ∧ (∀ m ∈ t.sys.loans, ¬ (m.die = l.die ∧ m.slice = l.slice)) ∧
      (t.part l.borrower).debt = (if excess = 0 then (s.part l.borrower).debt else ((s.part l.borrower).debt + excess) % 2 ^ 32) ∧
      (s.loanTeams l ≠ [] → t.sys.shadow = Nat.lor s.sys.shadow (s.freeAmong s.args.nats))) ∧
  (∀ s : State,
    let n := s.args.x % 8
    let d := s.die n
    let target := s.args.value.toNat % 16
    let used := fun (i : Nat) => s.sys.shadow.testBit (4 * n + i) = true ∨ ∃ p, p < 64 ∧ (s.part p).vault.testBit (4 * n + i) = true
    (d.goal = d.cur → target ≤ 4 → d.cur ≤ target →
      exec .ccarveWrite s = .next (s.setDie n { d with target, goal := target, cstat := if target = d.cur then 0 else 1 })) ∧
    (d.goal = d.cur → target ≤ 4 → target < d.cur → (∀ i, target ≤ i → i < d.cur → i < 4 → ¬ used i) →
      exec .ccarveWrite s = .next (s.setDie n { d with target, goal := target, cur := target, cstat := 0 })) ∧
    (d.goal = d.cur → target ≤ 4 → (∃ i, target ≤ i ∧ i < d.cur ∧ i < 4 ∧ used i) →
      exec .ccarveWrite s = .next (s.setDie n { d with target, cstat := 2 })) ∧
    (d.goal = d.cur → 4 < target → exec .ccarveWrite s = .next (s.setDie n { d with target, cstat := 3 })) ∧
    (d.goal ≠ d.cur → exec .ccarveWrite s = .next (s.setDie n { d with target, cstat := 4 }))) ∧
  (∀ s : State,
    let n := s.args.x % 8
    let d := s.die n
    d.goal ≠ d.cur →
    ∃ t, exec .carveComplete s = .next t ∧ t.die n = { d with cur := d.goal, cstat := 0 } ∧
      ∀ k o, k < 4 → d.cur ≤ k → k < d.goal → o < 2 ^ 25 → t.byteAt (memKey 1 ((4 * n + k) * 2 ^ 25) + o) = 0)

/-- R10, R279, R366, R376, R379, R386, R398, R399, R401, R406, R409: the mailbox's operations end with STATUS 0 and the request
taken, and one that names a unit of shadow storage with STATUS 1; a register write takes effect where its writer may make it,
and a read gives what was written; before bring-up has finished it gives all ones.  That a request of another OP is refused with
STATUS 1 is the model's choice (log 46). Forms and readings of the model: logs 3, 34, 35. -/
def Obligations.SupervisorEvents : Prop :=
  (∀ s : State, Asked s 1 → s.args.x < 64 →
    ((s.part s.args.x).state = 0 ∨ (s.part s.args.x).state = 4 ∨
      (((s.part s.args.x).state = 2 ∨ (s.part s.args.x).state = 6) ∧ (s.part s.args.x).haltedAt.isSome = true)) →
    s.slicesFit s.args.x s.args.value.toNat = true → Nat.land s.args.value2.toNat s.sys.shadow = 0 →
    ∃ t, exec .fwmboxSetPartition s = .next t ∧ Cells.get 0 t.sys.fwmbox 14 = 0 ∧ Cells.get 0 t.sys.fwmbox 15 = 0 ∧
      (t.part s.args.x).slices = s.args.value.toNat ∧ (t.part s.args.x).quant = s.args.y % 2 ^ 32 ∧
      (t.part s.args.x).powner = s.args.z % 64 ∧ (t.part s.args.x).vault = s.args.value2.toNat % 2 ^ 32) ∧
  (∀ s : State, Asked s 2 → s.args.x ≤ 64 → s.args.y < 64 →
    ∃ t, exec .fwmboxBindFunction s = .next t ∧ Cells.get 0 t.sys.fwmbox 14 = 0 ∧ Cells.get 0 t.sys.fwmbox 15 = 0 ∧
      (t.fn s.args.x).part = some s.args.y) ∧
  (∀ (s : State) (l : Loan), Asked s 3 →
    s.sys.loans.find? (fun l => 8 * l.die + l.slice == s.args.x % 64 && l.recallAt.isNone) = some l →
    ∃ t, exec .fwmboxRecall s = .next t ∧ Cells.get 0 t.sys.fwmbox 14 = 0 ∧ Cells.get 0 t.sys.fwmbox 15 = 0 ∧
      ∃ m ∈ t.sys.loans, m = { l with recallAt := some s.time }) ∧
  (∀ s : State, Asked s 4 → (s.die (s.args.x % 8)).goal = (s.die (s.args.x % 8)).cur → s.args.y % 16 ≤ 4 →
    (s.die (s.args.x % 8)).cur ≤ s.args.y % 16 →
    ∃ t, exec .fwmboxCarve s = .next t ∧ Cells.get 0 t.sys.fwmbox 14 = 0 ∧ Cells.get 0 t.sys.fwmbox 15 = 0 ∧
      (t.die (s.args.x % 8)).target = s.args.y % 16) ∧
  (∀ s : State, Asked s 5 →
    ∃ t, exec .fwmboxRemap s = .next t ∧ Cells.get 0 t.sys.fwmbox 14 = 0 ∧ Cells.get 0 t.sys.fwmbox 15 = 0 ∧
      t.sys.remaps = s.sys.remaps ++ [(s.args.x % 8, s.args.y)] ∧ (ringFull (s.fn 0).evqhead (s.fn 0).evqtail (s.fn 0).evqsize = true → t.mem = s.mem)) ∧
  (∀ s : State, Asked s 1 → Nat.land s.args.value2.toNat s.sys.shadow ≠ 0 → exec .fwmboxSetPartition s = .next (s.mailDone 1)) ∧
  (∀ (s : State) (op : Nat), Asked s op → (op = 0 ∨ 5 < op) →
    ∀ i ∈ [Instr.fwmboxSetPartition, .fwmboxBindFunction, .fwmboxRecall, .fwmboxCarve, .fwmboxRemap], exec i s = .next (s.mailDone 1)) ∧
  (∀ (s : State) (st : Nat), Cells.get 0 (s.mailDone st).sys.fwmbox 14 = BitVec.ofNat 32 st ∧ Cells.get 0 (s.mailDone st).sys.fwmbox 15 = 0) ∧
  (∀ s : State,
    let r := s.args.reg
    let v := s.args.value.toNat
    (s.args.x = 0 → s.args.y = 0x1_0000 →
      exec .registerWrite s = .next { s with sys := { s.sys with hostatt := v % 4 } }) ∧
    (∀ k ≤ 64, (s.args.x = k ∧ s.args.y = 0x24 ∨ s.args.x = 0 ∧ 1 ≤ k ∧ s.args.y = 0x20_0000 + 0x1000 * k + 0x24) →
      ∃ t, exec .registerWrite s = .next t ∧ t = { s with fns := t.fns } ∧
        (∀ j, t.fn j = if j = k then { s.fn k with pcqtail := v % 2 ^ 32 } else s.fn j) ∧
        (s.sys.booted = true → t.readBar s.args.x s.args.y = v % 2 ^ 32)) ∧
    (∀ k ≤ 64, s.args.x = k → s.args.y = 0x100 →
      ∃ t, exec .registerWrite s = .next t ∧ t = { s with fns := t.fns } ∧
        ∀ j, t.fn j = if j = k then { s.fn k with evqbase := s.args.value } else s.fn j) ∧
    (∀ p < 64, (s.args.x = 0 ∧ s.args.y = 0x10_0000 + 0x1000 * p + 0x30 ∨
        1 ≤ s.args.x ∧ s.args.x ≤ 64 ∧ (s.fn s.args.x).part = some p ∧ s.args.y = 0x1030) →
      ∃ t, exec .registerWrite s = .next t ∧ t = { s with parts := t.parts } ∧
        (∀ j, t.part j = if j = p then { s.part p with psvec := s.args.value } else s.part j) ∧
        (s.sys.booted = true → t.readBar s.args.x s.args.y = v)) ∧
    (s.args.x = firmware → r.index < 64 → r.block = 5 → s.sliceIdle r.index = true →
      exec .registerWrite s = .next { s with connmat := Cells.set 0x3FFF s.connmat r.index (v % 2 ^ 14) }) ∧
    (∀ k < 8, s.readReg ⟨8, k, 0⟩ = (s.die k).target + 2 ^ 4 * (s.die k).cur + 2 ^ 8 * (s.die k).cstat) ∧
    (1 ≤ s.args.x → s.args.x ≤ 64 → 0x1000 ≤ s.args.y → ((s.fn s.args.x).part = none ∨ 0x2000 ≤ s.args.y) →
      exec .registerWrite s = .next s ∧ (s.sys.booted = true → s.readBar s.args.x s.args.y = 0)) ∧
    (∀ fn off, s.sys.booted = false → s.readBar fn off = 2 ^ 64 - 1))

/-- R388, R390 to R392, R395, R396, R402: errors are counted, poison marks a line, a replay takes the oldest sample, and links
go down and up. Forms and readings of the model: logs 3, 10, 15, 36. -/
def Obligations.ReliabilityEvents : Prop :=
  (∀ s : State,
    let stack := s.args.x % 8
    let bank := rowKey stack s.args.y s.args.z 0
    let bits := (filterBits (rowKey stack s.args.y s.args.z s.args.value.toNat)).map (fun b => 2 ^ 16 * stack + b)
    ∃ t, exec .correctedDramError s = .next t ∧
      Cells.get 0 t.sys.bankrep bank = min (Cells.get 0 s.sys.bankrep bank + 1) 65535 ∧
      Cells.get 0 t.sys.life (100 + stack) = min (Cells.get 0 s.sys.life (100 + stack) + 1) (2 ^ 64 - 1) ∧
      (∀ b ∈ bits, Cells.get false t.sys.filter b = true) ∧
      ((∀ b ∈ bits, Cells.get false s.sys.filter b = true) → t.sys.log = s.sys.log)) ∧
  (∀ s : State, exec .errorFilterClear s = .next { s with sys := { s.sys with filter := [] } }) ∧
  (∀ s : State,
    let k := 200 + 16 * (s.args.x % 8) + s.args.y % 16
    ∃ t, exec .sramCorrectedError s = .next t ∧ t = { s with sys := { s.sys with life := t.sys.life } } ∧
      ∀ j, Cells.get 0 t.sys.life j
        = if j = k then min (Cells.get 0 s.sys.life k + 1) (2 ^ 64 - 1) else Cells.get 0 s.sys.life j) ∧
  (∀ (s : State) (line : Nat), s.args.site = .memory line →
    ∃ t, exec .uncorrectableError s = .next t ∧ t = { s with poison := t.poison } ∧ line ∈ t.poison ∧
      ∀ l, l ≠ line → (l ∈ t.poison ↔ l ∈ s.poison)) ∧
  (∀ (s : State) (c : Ctx) (off : Nat), s.args.site = .scratch c.uid off → s.ctx c.uid = some c → c.ended = false → Apart s → c.uid ≠ 0 →
    ∃ t, exec .uncorrectableError s = .next t ∧ (∀ d, t.ctx c.uid = some d → d.ended = true) ∧
      ∀ u ∈ t.teams, u.id = c.team → u.abandoned = true) ∧
  (∀ (s : State) (p : Sample) (ps : List Sample), s.sys.samples = p :: ps →
    ((s.args.x / 32 = p.quad / 32 ∧ s.args.x / 4 ≠ p.quad / 4 ∧ (s.quad s.args.x).retired = false) ∨
      (s.args.x / 32 = (p.quad / 32 + 1) % 8 ∧ ∀ k, k / 32 = p.quad / 32 → k / 4 ≠ p.quad / 4 → (s.quad k).retired = true)) →
    s.args.x ≠ s.args.y → s.args.y ≠ p.quad → s.args.y < 256 →
    (s.args.value = p.sig → exec .surveyorReplay s = .next { s with sys := { s.sys with samples := ps } }) ∧
    (s.args.value ≠ p.sig →
      let bad := if p.sig = s.args.value2 then s.args.x else p.quad
      ∃ t, exec .surveyorReplay s = .next t ∧ t.sys.samples = ps ∧ (t.quad bad).suspects = (s.quad bad).suspects + 1 ∧
        ((s.quad bad).suspects = 1 → (t.quad bad).retired = true))) ∧
  (∀ s : State, ∃ t, exec .linkDown s = .next t ∧ t = { s with sys := { s.sys with links := t.sys.links } } ∧
    ∀ j, t.sys.links.testBit j = (s.sys.links.testBit j && j != s.args.x % 16)) ∧
  (∀ s : State, ∃ t, exec .linkUp s = .next t ∧ t = { s with sys := { s.sys with links := t.sys.links } } ∧
    ∀ j, t.sys.links.testBit j = (s.sys.links.testBit j || j == s.args.x % 16))

/-- R2, R401, R403 to R405, R407 to R409: bring-up with what the configuration image says, attestation with the key of first
boot, the power arbiter with its excursions, the calm that follows each, and the thermal machine with its events.  That a period
that R407 rules out (above 4,000 W, of an excursion beyond 1 ms, or in the calm after one) does not occur is the model's choice (log 4); the slots of the images, the header before a body under SM3, and what a configuration's body says are the
model's (log 53). Forms and readings of the model: logs 3, 10, 12, 37. -/
def Obligations.PowerEvents : Prop :=
  (∀ (s : State) (i : FirmwareImage), s.sys.powered = false → s.args.images = [] → s.sys.config = some i →
    ∃ t, exec .powerOn s = .next t ∧ t.sys.remaps = s.sys.remaps ++ Config.remapList i.body ∧
      (∀ n ∈ Config.retireList i.body, n < 256 → (t.quad n).retired = true) ∧
      (∀ d units, d < 8 → (Config.carveOut i.body)[d]? = some units → (s.die d).goal = (s.die d).cur →
        (s.die d).cur ≤ units % 16 → units % 16 ≤ 4 → (t.die d).target = units % 16)) ∧
  (∀ s : State, s.sys.powered = false → s.args.images = [] → s.sys.config = none →
    (s.sys.attKey.isSome = true → exec .powerOn s
      = .next { s with sys := { s.sys with powered := true, booted := false, filter := [], log := [], logSeq := 0 } }) ∧
    (s.sys.attKey = none → ∃ t d, exec .powerOn s = .next t ∧ t.sys.attKey = some (d, Config.attestPublic d))) ∧
  (∀ (s : State) (i : FirmwareImage), s.sys.powered = false → s.args.images = [i] →
    let good := Config.signatureValid (Config.sm3 (natLE 4 i.slot ++ natLE 4 i.version ++ i.body)) i.sig
      && decide (Cells.get 0 s.sys.rollback i.slot ≤ i.version) && (i.slot == 0 || s.sys.images.any (·.slot == 0))
    ∃ t, exec .powerOn s = .next t ∧ t.sys.powered = true ∧
      (good = true → i ∈ t.sys.images ∧ Cells.get 0 t.sys.rollback i.slot = i.version) ∧
      (good = false → t.sys.images = s.sys.images ∧ t.sys.rollback = s.sys.rollback)) ∧
  (∀ s : State, s.sys.powered = true → exec .bringUpComplete s = .next { s with sys := { s.sys with booted := true } }) ∧
  (∀ (s : State) (d : BitVec 256) (q : BitVec 512), s.sys.attKey = some (d, q) → exec .attestationRequest s
    = .next { s with sys := { s.sys with attest := Config.sign d (s.sys.images.flatMap (fun i => Config.sm3 (natLE 4 i.slot ++ natLE 4 i.version ++ i.body))) } }) ∧
  (∀ s : State, s.sys.arbiter + 10000 ≤ s.time →
    ((List.range 8).map (fun d => s.args.nats.getD d 0)).foldl (· + ·) 0 ≤ s.sys.pbudget →
    let watts := s.args.value.toNat
    (watts ≤ s.sys.pbudget →
      ∃ t, exec .powerArbiterPeriod s = .next t ∧ t.sys.arbiter = s.time ∧ t.sys.excursion = none ∧
        ∀ d, d < 8 → (t.die d).share = s.args.nats.getD d 0 ∧
          (t.die d).clock = (if (s.die d).hot then 16
            else max 16 (min 32 (min (s.args.nats.getD (8 + d) (s.die d).clock) ((s.die d).clock + 1))))) ∧
    (∀ b, watts ≤ s.sys.pbudget → s.sys.excursion = some b →
      ∃ t, exec .powerArbiterPeriod s = .next t ∧ t.sys.calmUntil = s.sys.arbiter + 9 * (s.sys.arbiter - b)) ∧
    (∀ b, s.sys.pbudget < watts → watts ≤ 4000 → s.sys.excursion = some b →
      (s.time ≤ b + 1000000 → ∃ t, exec .powerArbiterPeriod s = .next t ∧ t.sys.excursion = some b ∧ t.sys.arbiter = s.time ∧
        (t.fn 0).msix = (s.fn 0).msix) ∧
      (b + 1000000 < s.time → exec .powerArbiterPeriod s = .next s)) ∧
    (s.sys.pbudget < watts → s.sys.excursion = none → s.sys.arbiter < s.sys.calmUntil → exec .powerArbiterPeriod s = .next s) ∧
    (s.sys.pbudget < watts → watts ≤ 4000 → s.sys.excursion = none → s.sys.calmUntil ≤ s.sys.arbiter →
      s.time ≤ s.sys.arbiter + 1000000 →
      ∃ t, exec .powerArbiterPeriod s = .next t ∧ t.sys.arbiter = s.time ∧ t.sys.excursion = some s.sys.arbiter ∧ Raised s t 8) ∧
    (s.sys.pbudget < watts → 4000 < watts → exec .powerArbiterPeriod s = .next s)) ∧
  (∀ s : State, 105 ≤ s.args.y → (s.die (s.args.x % 8)).hot = false →
    ∃ t, exec .thermalThrottle s = .next t ∧
      t.die (s.args.x % 8) = { s.die (s.args.x % 8) with temp := s.args.y, clock := 16, hot := true } ∧ Raised s t 8) ∧
  (∀ s : State, s.args.y < 100 → (s.die (s.args.x % 8)).hot = true →
    ∃ t, exec .thermalUnthrottle s = .next t ∧
      t.die (s.args.x % 8) = { s.die (s.args.x % 8) with temp := s.args.y, hot := false }) ∧
  (∀ s : State, 115 ≤ s.args.y → s.sys.heat = .run →
    ∃ t, exec .thermalStop s = .next t ∧ t.sys.heat = .halting ∧ (t.die (s.args.x % 8)).temp = s.args.y ∧
      ((s.die (s.args.x % 8)).hot = true → Raised s t 8) ∧
      ((s.die (s.args.x % 8)).hot = false → (t.die (s.args.x % 8)).clock = 16 ∧ (t.die (s.args.x % 8)).hot = true ∧
        (ringFull (s.fn 0).evqhead (s.fn 0).evqtail (s.fn 0).evqsize = false →
          ∃ k, (t.fn 0).msix = (s.fn 0).msix ++ List.replicate (k + 1) 7)) ∧
      ∀ p, p < 64 → ((s.part p).state = 1 ∨ (s.part p).state = 5) → (t.part p).state = 2 ∧ (t.part p).thermal = true) ∧
  (∀ s : State, s.sys.heat = .halting → (∀ p, p < 64 → (s.part p).state = 2 → (s.part p).haltedAt.isSome = true) →
    ∃ t, exec .thermalClockStop s = .next t ∧ t.sys.heat = .stopped ∧
      ∀ p, p < 64 → (s.part p).state = 2 → (t.part p).state = 6) ∧
  (∀ s : State, s.sys.heat = .stopped → (∀ d, d < 8 → s.args.nats.getD d 95 < 95) →
    ∃ t, exec .thermalRestart s = .next t ∧ t.sys.heat = .run ∧ Raised s t 8 ∧
      (∀ p, p < 64 → (s.part p).state = 6 → (t.part p).state = 5) ∧
      ∀ d, d < 8 → (t.die d).clock = 16 ∧ (t.die d).hot = false ∧ (t.die d).temp = s.args.nats.getD d 95)

/-! ### Reset, decoding, the step and its invariant -/

/-- R27, R279, R336, R366, R370, R388, R393, R400, R401, R407: the reset values the spec states.  Memory has the canonical form of the
model's own memory (log 2), and the names that it gives to contexts are apart (log 3).
CONNMAT = 0x3FFF, which allows every port, and the value of every generator are the model's choices, where the spec gives no
reset value (log 1, DESIGN CHOICE). -/
def Obligations.ResetState : Prop :=
  let s := State.reset
  s.ctxs = [] ∧ s.teams = [] ∧ s.ops = [] ∧ s.grids = [] ∧ Sound s ∧ Apart s ∧ (∀ k, s.gen k = genReset) ∧
  (∀ k, (s.fn k).tctl = 0 ∧ (s.fn k).pcqsize = 4 ∧ (s.fn k).prqsize = 4 ∧ (s.fn k).evqsize = 4 ∧ (s.fn k).cwaymask = 0xFFFF ∧
    (s.fn k).part = none) ∧
  (∀ k, (s.part k).slices = 0 ∧ (s.part k).state = 0 ∧ (s.part k).mrec.itin = 0xFFFF ∧ (s.part k).mrecW.itin = 0xFFFF ∧
    (s.part k).mrec.rate = 1 ∧ (s.part k).mrecW.rate = 1 ∧ (s.part k).mwgt = 1 ∧ (s.part k).mpfa = 0) ∧
  (∀ k, (s.queue k).en = false ∧ (s.queue k).fifo = []) ∧ (∀ d sl, s.connOf d sl = 0x3FFF) ∧
  s.sys.svK = 20 ∧ s.sys.svEnp = false ∧ s.sys.svEnw = false ∧ s.sys.bankthr = 16 ∧ s.sys.pbudget = 3200 ∧
  s.sys.hostatt = 0 ∧ s.sys.log = []

/-- R44 to R59: words written out from the encoding tables, one of each layout, decode to the instructions they stand for:
`radd s8, v16`, `bfe.sx v5, v1, 4, 8`, `lmad.n32 v12, s0, v3, 48` with its literal, `racq 1`, and `mpred.mrp s4`. -/
def Obligations.DecodeSamples : Prop :=
  decode [0x88081000] = .ok (.radd { w := { nowb := false, dst := 8, a := .v 16, b := .v 0 }, imm := none }) 1 ∧
  decode [0x230501A4, 0x001000A8] = .ok (.bfe {
    w := { nowb := false, dst := 5, a := .v 1, b := .const 4 },
    m := { c := .const 8, rnd := .mode, sat := false, pred := 0, pneg := false, ty := .dflt, subop := 1 }, imm := none }) 2 ∧
  decode [0x390CC003, 0x000C008F, 0x30] = .ok (.lmad {
    w := { nowb := false, dst := 12, a := .s 0, b := .v 3 },
    m := { c := .special .imm, rnd := .mode, sat := false, pred := 0, pneg := false, ty := .n32, subop := 0 },
    imm := some 0x30 }) 3 ∧
  decode [0xCB00A100] = .ok (.racq { w := { nowb := false, dst := 0, a := .const 1, b := .v 0 }, imm := none }) 1 ∧
  decode [0xE500C4A0, 0] = .ok (.mpred { w := { nowb := false, dst := 0, a := .s 4, b := .const 0 }, d := 0, imm := none }) 2

/-- R40, R61, R62, R308: with no turn pending, the turn of a context inside a clause is the meaning of the instruction its
clause's words decode to, with the work unit that a closed clause may be; words that order 1 refuses raise
illegal-instruction.  A step is that turn one nanosecond later, of a thread, or of a group alone on its pipe.  An event at the
head of the turn list is its meaning with the arguments it names, and what follows from it. Forms and readings of the model: logs 3, 4, 6. -/
def Obligations.StepRunsDecoded : Prop :=
  (∀ s : State, s.turns = [] → s.cur.live = true → s.cur.owedTrap = none → s.replyDue s.cur = false →
    s.cur.clause.isOpen = true → s.cur.clause.waiting = false →
    let ws := s.cur.clause.words.drop s.cur.clause.pos
    let s1 := s.tick
    let illegal : Out := .next (s1.raise illegalInstruction)
    (∀ i n, decode ws = .ok i n → i.enc.isSome = true → i.shape.cls = s.cur.clause.cls →
      (s.cur.kind = .group ∨ threadMay (bits (ws.headD 0) 31 24) i = true) → Steps s (exec i s1)) ∧
    (∀ w n, decode ws = .ok (.unassignedOpcode w) n → Steps s illegal) ∧
    (∀ e, decode ws = .err e → Steps s illegal) ∧
    (∀ i n, decode ws = .ok i n → i.enc.isSome = true →
      (i.shape.cls ≠ s.cur.clause.cls ∨ (s.cur.kind = .thread ∧ threadMay (bits (ws.headD 0) 31 24) i = false)) →
      Steps s illegal)) ∧
  (∀ (s : State) (i : Instr) (args : EventArgs) (ts : List Turn), s.turns = .event i args :: ts → isAgentEvent i = true →
    let u := { s with turns := ts }
    (isMessage i = true → step s = Out.onNext State.follow (exec i { u with args })) ∧
    (isMessage i = false → step s = Out.onNext State.follow (exec i { u.tick with args })))

/-- R44 to R60: decoding and encoding agree: a well-formed instruction's words, followed by any others, decode to it, and
words that decode to an instruction are its words. -/
def Obligations.DecodeEncode : Prop :=
  (∀ (i : Instr) (rest : List Word), i.wf = true → (i.enc.isSome = true ∨ ∃ w, i = .unassignedOpcode w) →
    decode (encode i ++ rest) = .ok i (encode i).length) ∧
  (∀ (ws : List Word) (i : Instr) (n : Nat), decode ws = .ok i n → encode i = ws.take n ∧ n ≤ ws.length)

/-- The model's choice (log 3): the names that it gives to contexts stay apart: no two contexts have one name, none is 0, and none is above the
last that was given, so that the next name given is new. -/
def Obligations.StepKeepsNames : Prop := ∀ s t : State, Apart s → step s = .next t → Apart t

/-- The model's choice (log 2): every step keeps the canonical form of memory, so that equal memories are equal data. -/
def Obligations.StepKeepsMemory : Prop := ∀ s t : State, Sound s → step s = .next t → Sound t
end

