-- ==== Sys2Proof/Laws/Cells.lean ====
section
/-! SUPPORT. Sparse tables: reading after writing, and the canonical form that every memory operation keeps. -/

namespace Sys2Proof.Machine

variable {α : Type}

@[simp] theorem Cells.get_nil (d : α) (k : Nat) : Cells.get d [] k = d := rfl

theorem Cells.get_cons (d : α) (j : Nat) (v : α) (m : Cells α) (k : Nat) :
    Cells.get d ((j, v) :: m) k = if j = k then v else Cells.get d m k := rfl

/-- A key that no entry has reads as the default. -/
theorem Cells.get_of_above (d : α) (m : Cells α) (k : Nat) (h : ∀ e ∈ m, k < e.1) : Cells.get d m k = d := by
  induction m with
  | nil => rfl
  | cons e m ih =>
    have h1 := h e (by simp)
    have : e.1 ≠ k := by omega
    obtain ⟨j, v⟩ := e
    simp only [Cells.get_cons]
    rw [if_neg this]
    exact ih (fun x hx => h x (by simp [hx]))

theorem Cells.get_erase (d : α) (m : Cells α) (k j : Nat) :
    Cells.get d (m.erase k) j = if j = k then d else Cells.get d m j := by
  induction m with
  | nil => simp [Cells.erase]
  | cons e m ih =>
    obtain ⟨i, v⟩ := e
    unfold Cells.erase
    split
    · subst_vars
      rw [ih, Cells.get_cons]
      by_cases h : j = i
      · simp [h]
      · simp [h, Ne.symm h]
    · rw [Cells.get_cons, ih, Cells.get_cons]
      by_cases h : j = k
      · subst h; simp [*]
      · simp [h]

theorem Cells.get_insert (d : α) (m : Cells α) (k j : Nat) (v : α) (h : ∀ e ∈ m, e.1 ≠ k) :
    Cells.get d (Cells.insert m k v) j = if j = k then v else Cells.get d m j := by
  induction m with
  | nil => simp [Cells.insert, Cells.get_cons, eq_comm]
  | cons e m ih =>
    obtain ⟨i, w⟩ := e
    have hi : i ≠ k := h (i, w) (by simp)
    have ih := ih (fun x hx => h x (by simp [hx]))
    unfold Cells.insert
    split
    · simp [Cells.get_cons, eq_comm]
    · rw [Cells.get_cons, ih, Cells.get_cons]
      by_cases hj : j = k
      · subst hj; simp [hi]
      · simp [hj]

theorem Cells.erase_ne (m : Cells α) (k : Nat) : ∀ e ∈ m.erase k, e.1 ≠ k := by
  induction m with
  | nil => simp [Cells.erase]
  | cons e m ih =>
    obtain ⟨i, v⟩ := e
    unfold Cells.erase
    split
    · exact ih
    · intro x hx
      simp only [List.mem_cons] at hx
      rcases hx with rfl | hx
      · assumption
      · exact ih x hx

theorem Cells.mem_of_mem_erase (m : Cells α) (k : Nat) : ∀ e ∈ m.erase k, e ∈ m := by
  induction m with
  | nil => simp [Cells.erase]
  | cons e m ih =>
    obtain ⟨i, v⟩ := e
    unfold Cells.erase
    split
    · intro x hx; exact List.mem_cons_of_mem _ (ih x hx)
    · intro x hx
      simp only [List.mem_cons] at hx ⊢
      exact hx.imp id (ih x)

variable [DecidableEq α]

/-- Reading after a write. -/
theorem Cells.get_set (d : α) (m : Cells α) (k j : Nat) (v : α) :
    Cells.get d (Cells.set d m k v) j = if j = k then v else Cells.get d m j := by
  unfold Cells.set
  split
  · rw [Cells.get_erase]; subst_vars; rfl
  · rw [Cells.get_insert _ _ _ _ _ (Cells.erase_ne m k), Cells.get_erase]
    split <;> rfl

@[simp] theorem Cells.get_set_same (d : α) (m : Cells α) (k : Nat) (v : α) :
    Cells.get d (Cells.set d m k v) k = v := by simp [Cells.get_set]

theorem Cells.get_set_ne (d : α) (m : Cells α) (k j : Nat) (v : α) (h : j ≠ k) :
    Cells.get d (Cells.set d m k v) j = Cells.get d m j := by simp [Cells.get_set, h]

theorem Cells.wf_cons (d : α) (k : Nat) (v : α) (m : Cells α) :
    Cells.wf d ((k, v) :: m) = true ↔ (∀ e ∈ m, k < e.1) ∧ v ≠ d ∧ Cells.wf d m = true := by
  simp only [Cells.wf, Bool.and_eq_true, List.all_eq_true, decide_eq_true_eq, bne_iff_ne, ne_eq, and_assoc]

theorem Cells.wf_erase (d : α) (m : Cells α) (k : Nat) (h : Cells.wf d m = true) :
    Cells.wf d (m.erase k) = true := by
  induction m with
  | nil => exact h
  | cons e m ih =>
    obtain ⟨i, v⟩ := e
    rw [Cells.wf_cons] at h
    unfold Cells.erase
    split
    · exact ih h.2.2
    · rw [Cells.wf_cons]
      exact ⟨fun x hx => h.1 x (Cells.mem_of_mem_erase m k x hx), h.2.1, ih h.2.2⟩

omit [DecidableEq α] in
theorem Cells.mem_insert (m : Cells α) (k : Nat) (v : α) (e : Nat × α) (h : e ∈ Cells.insert m k v) :
    e = (k, v) ∨ e ∈ m := by
  induction m with
  | nil => simpa [Cells.insert] using h
  | cons x m ih =>
    obtain ⟨i, w⟩ := x
    unfold Cells.insert at h
    split at h
    · simpa using h
    · simp only [List.mem_cons] at h ⊢
      rcases h with h | h
      · exact .inr (.inl h)
      · exact (ih h).imp id .inr

theorem Cells.wf_insert (d : α) (m : Cells α) (k : Nat) (v : α) (hv : v ≠ d) (h : Cells.wf d m = true)
    (hk : ∀ e ∈ m, e.1 ≠ k) : Cells.wf d (Cells.insert m k v) = true := by
  induction m with
  | nil => simp [Cells.insert, Cells.wf, hv]
  | cons x m ih =>
    obtain ⟨i, w⟩ := x
    have hi : i ≠ k := hk (i, w) (by simp)
    have hm := (Cells.wf_cons d i w m).1 h
    unfold Cells.insert
    split
    · rename_i hki
      rw [Cells.wf_cons]
      refine ⟨fun e he => ?_, hv, h⟩
      simp only [List.mem_cons] at he
      rcases he with rfl | he
      · exact hki
      · exact Nat.lt_trans hki (hm.1 e he)
    · rw [Cells.wf_cons]
      refine ⟨fun e he => ?_, hm.2.1, ih hm.2.2 (fun e he => hk e (by simp [he]))⟩
      rcases Cells.mem_insert m k v e he with rfl | he
      · show i < k
        omega
      · exact hm.1 e he

/-- A write keeps the canonical form. -/
theorem Cells.wf_set (d : α) (m : Cells α) (k : Nat) (v : α) (h : Cells.wf d m = true) :
    Cells.wf d (Cells.set d m k v) = true := by
  unfold Cells.set
  split
  · exact Cells.wf_erase d m k h
  · exact Cells.wf_insert d _ k v ‹_› (Cells.wf_erase d m k h) (Cells.erase_ne m k)

theorem Cells.wf_setMany (d : α) (vs : List α) : ∀ (m : Cells α) (k : Nat), Cells.wf d m = true →
    Cells.wf d (Cells.setMany d m k vs) = true := by
  induction vs with
  | nil => intro m k h; exact h
  | cons v vs ih => intro m k h; exact ih _ _ (Cells.wf_set d m k v h)

/-- Reading after a write of several values. -/
theorem Cells.get_setMany (d : α) (vs : List α) : ∀ (m : Cells α) (k j : Nat),
    Cells.get d (Cells.setMany d m k vs) j
      = if k ≤ j ∧ j < k + vs.length then vs.getD (j - k) d else Cells.get d m j := by
  induction vs with
  | nil => intro m k j; rw [Cells.setMany, if_neg (by simp only [List.length_nil]; omega)]
  | cons v vs ih =>
    intro m k j
    rw [Cells.setMany, ih, Cells.get_set]
    by_cases h1 : j = k
    · subst h1
      rw [if_neg (by omega), if_pos rfl, if_pos (by simp)]
      simp
    · simp only [h1, if_false, List.length_cons]
      by_cases h2 : k + 1 ≤ j ∧ j < k + 1 + vs.length
      · rw [if_pos h2, if_pos (by omega)]
        obtain ⟨n, hn⟩ : ∃ n, j - k = n + 1 := ⟨j - k - 1, by omega⟩
        have : j - (k + 1) = n := by omega
        rw [hn, this]; simp
      · rw [if_neg h2, if_neg (by omega)]

omit [DecidableEq α] in
theorem Cells.clear_sub (m : Cells α) (k n : Nat) : ∀ e ∈ Cells.clear m k n, e ∈ m := by
  intro e he
  exact (List.mem_filter.1 he).1

theorem Cells.wf_clear (d : α) (m : Cells α) (k n : Nat) (h : Cells.wf d m = true) :
    Cells.wf d (Cells.clear m k n) = true := by
  induction m with
  | nil => exact h
  | cons e m ih =>
    obtain ⟨i, v⟩ := e
    rw [Cells.wf_cons] at h
    simp only [Cells.clear, List.filter_cons]
    split
    · rw [Cells.wf_cons]
      exact ⟨fun x hx => h.1 x (Cells.clear_sub m k n x hx), h.2.1, ih h.2.2⟩
    · exact ih h.2.2

/-! ### The package's memory -/

theorem State.byteAt_writeBytes (s : State) (key : Nat) (bs : List Byte) (a : Nat) :
    (s.writeBytes key bs).byteAt a = if key ≤ a ∧ a < key + bs.length then bs.getD (a - key) 0 else s.byteAt a :=
  Cells.get_setMany 0 bs s.mem key a

/-- Every memory operation keeps the canonical form: stores of bytes, and of numbers. -/
theorem State.writeBytes_wf (s : State) (key : Nat) (bs : List Byte) (h : Memory.wf s.mem = true) :
    Memory.wf (s.writeBytes key bs).mem = true :=
  Cells.wf_setMany 0 bs s.mem key h

theorem State.writeLE_wf (s : State) (key n x : Nat) (h : Memory.wf s.mem = true) :
    Memory.wf (s.writeLE key n x).mem = true :=
  State.writeBytes_wf s key _ h

/-- Reset lists nothing. -/
theorem State.reset_wf : Memory.wf State.reset.mem = true := rfl

end Sys2Proof.Machine
end

