-- ==== Sys2Proof/Laws/State.lean ====
section
/-! SUPPORT. One lemma per field per update of a state or a context, each true by rfl. -/

namespace Sys2Proof.Machine

/-! ### `State.upd` -/

@[simp] theorem State.upd_time (s : State) (f : Ctx → Ctx) : (s.upd f).time = s.time := rfl
@[simp] theorem State.upd_args (s : State) (f : Ctx → Ctx) : (s.upd f).args = s.args := rfl
@[simp] theorem State.upd_turns (s : State) (f : Ctx → Ctx) : (s.upd f).turns = s.turns := rfl
@[simp] theorem State.upd_free (s : State) (f : Ctx → Ctx) : (s.upd f).free = s.free := rfl
@[simp] theorem State.upd_uids (s : State) (f : Ctx → Ctx) : (s.upd f).uids = s.uids := rfl
@[simp] theorem State.upd_cur (s : State) (f : Ctx → Ctx) : (s.upd f).cur = f s.cur := rfl
@[simp] theorem State.upd_others (s : State) (f : Ctx → Ctx) : (s.upd f).others = s.others := rfl
@[simp] theorem State.upd_teams (s : State) (f : Ctx → Ctx) : (s.upd f).teams = s.teams := rfl
@[simp] theorem State.upd_gens (s : State) (f : Ctx → Ctx) : (s.upd f).gens = s.gens := rfl
@[simp] theorem State.upd_mem (s : State) (f : Ctx → Ctx) : (s.upd f).mem = s.mem := rfl
@[simp] theorem State.upd_poison (s : State) (f : Ctx → Ctx) : (s.upd f).poison = s.poison := rfl
@[simp] theorem State.upd_lines (s : State) (f : Ctx → Ctx) : (s.upd f).lines = s.lines := rfl
@[simp] theorem State.upd_leases (s : State) (f : Ctx → Ctx) : (s.upd f).leases = s.leases := rfl
@[simp] theorem State.upd_mons (s : State) (f : Ctx → Ctx) : (s.upd f).mons = s.mons := rfl
@[simp] theorem State.upd_ops (s : State) (f : Ctx → Ctx) : (s.upd f).ops = s.ops := rfl
@[simp] theorem State.upd_fns (s : State) (f : Ctx → Ctx) : (s.upd f).fns = s.fns := rfl
@[simp] theorem State.upd_tlb (s : State) (f : Ctx → Ctx) : (s.upd f).tlb = s.tlb := rfl
@[simp] theorem State.upd_walks (s : State) (f : Ctx → Ctx) : (s.upd f).walks = s.walks := rfl
@[simp] theorem State.upd_walkers (s : State) (f : Ctx → Ctx) : (s.upd f).walkers = s.walkers := rfl
@[simp] theorem State.upd_misses (s : State) (f : Ctx → Ctx) : (s.upd f).misses = s.misses := rfl
@[simp] theorem State.upd_walked (s : State) (f : Ctx → Ctx) : (s.upd f).walked = s.walked := rfl
@[simp] theorem State.upd_prefs (s : State) (f : Ctx → Ctx) : (s.upd f).prefs = s.prefs := rfl
@[simp] theorem State.upd_requests (s : State) (f : Ctx → Ctx) : (s.upd f).requests = s.requests := rfl
@[simp] theorem State.upd_parts (s : State) (f : Ctx → Ctx) : (s.upd f).parts = s.parts := rfl
@[simp] theorem State.upd_queues (s : State) (f : Ctx → Ctx) : (s.upd f).queues = s.queues := rfl
@[simp] theorem State.upd_grids (s : State) (f : Ctx → Ctx) : (s.upd f).grids = s.grids := rfl
@[simp] theorem State.upd_frames (s : State) (f : Ctx → Ctx) : (s.upd f).frames = s.frames := rfl
@[simp] theorem State.upd_shards (s : State) (f : Ctx → Ctx) : (s.upd f).shards = s.shards := rfl
@[simp] theorem State.upd_atlas (s : State) (f : Ctx → Ctx) : (s.upd f).atlas = s.atlas := rfl
@[simp] theorem State.upd_gathers (s : State) (f : Ctx → Ctx) : (s.upd f).gathers = s.gathers := rfl
@[simp] theorem State.upd_deferred (s : State) (f : Ctx → Ctx) : (s.upd f).deferred = s.deferred := rfl
@[simp] theorem State.upd_outbox (s : State) (f : Ctx → Ctx) : (s.upd f).outbox = s.outbox := rfl
@[simp] theorem State.upd_connmat (s : State) (f : Ctx → Ctx) : (s.upd f).connmat = s.connmat := rfl
@[simp] theorem State.upd_quads (s : State) (f : Ctx → Ctx) : (s.upd f).quads = s.quads := rfl
@[simp] theorem State.upd_rings (s : State) (f : Ctx → Ctx) : (s.upd f).rings = s.rings := rfl
@[simp] theorem State.upd_colls (s : State) (f : Ctx → Ctx) : (s.upd f).colls = s.colls := rfl
@[simp] theorem State.upd_sys (s : State) (f : Ctx → Ctx) : (s.upd f).sys = s.sys := rfl

/-! ### `State.hold` -/

@[simp] theorem State.hold_time (s : State) (w : Stall) : (s.hold w).time = s.time := rfl
@[simp] theorem State.hold_args (s : State) (w : Stall) : (s.hold w).args = s.args := rfl
@[simp] theorem State.hold_turns (s : State) (w : Stall) : (s.hold w).turns = s.turns := rfl
@[simp] theorem State.hold_free (s : State) (w : Stall) : (s.hold w).free = s.free := rfl
@[simp] theorem State.hold_uids (s : State) (w : Stall) : (s.hold w).uids = s.uids := rfl
@[simp] theorem State.hold_cur (s : State) (w : Stall) : (s.hold w).cur = { s.cur with stall := some w } := rfl
@[simp] theorem State.hold_others (s : State) (w : Stall) : (s.hold w).others = s.others := rfl
@[simp] theorem State.hold_teams (s : State) (w : Stall) : (s.hold w).teams = s.teams := rfl
@[simp] theorem State.hold_gens (s : State) (w : Stall) : (s.hold w).gens = s.gens := rfl
@[simp] theorem State.hold_mem (s : State) (w : Stall) : (s.hold w).mem = s.mem := rfl
@[simp] theorem State.hold_poison (s : State) (w : Stall) : (s.hold w).poison = s.poison := rfl
@[simp] theorem State.hold_lines (s : State) (w : Stall) : (s.hold w).lines = s.lines := rfl
@[simp] theorem State.hold_leases (s : State) (w : Stall) : (s.hold w).leases = s.leases := rfl
@[simp] theorem State.hold_mons (s : State) (w : Stall) : (s.hold w).mons = s.mons := rfl
@[simp] theorem State.hold_ops (s : State) (w : Stall) : (s.hold w).ops = s.ops := rfl
@[simp] theorem State.hold_fns (s : State) (w : Stall) : (s.hold w).fns = s.fns := rfl
@[simp] theorem State.hold_tlb (s : State) (w : Stall) : (s.hold w).tlb = s.tlb := rfl
@[simp] theorem State.hold_walks (s : State) (w : Stall) : (s.hold w).walks = s.walks := rfl
@[simp] theorem State.hold_walkers (s : State) (w : Stall) : (s.hold w).walkers = s.walkers := rfl
@[simp] theorem State.hold_misses (s : State) (w : Stall) : (s.hold w).misses = s.misses := rfl
@[simp] theorem State.hold_walked (s : State) (w : Stall) : (s.hold w).walked = s.walked := rfl
@[simp] theorem State.hold_prefs (s : State) (w : Stall) : (s.hold w).prefs = s.prefs := rfl
@[simp] theorem State.hold_requests (s : State) (w : Stall) : (s.hold w).requests = s.requests := rfl
@[simp] theorem State.hold_parts (s : State) (w : Stall) : (s.hold w).parts = s.parts := rfl
@[simp] theorem State.hold_queues (s : State) (w : Stall) : (s.hold w).queues = s.queues := rfl
@[simp] theorem State.hold_grids (s : State) (w : Stall) : (s.hold w).grids = s.grids := rfl
@[simp] theorem State.hold_frames (s : State) (w : Stall) : (s.hold w).frames = s.frames := rfl
@[simp] theorem State.hold_shards (s : State) (w : Stall) : (s.hold w).shards = s.shards := rfl
@[simp] theorem State.hold_atlas (s : State) (w : Stall) : (s.hold w).atlas = s.atlas := rfl
@[simp] theorem State.hold_gathers (s : State) (w : Stall) : (s.hold w).gathers = s.gathers := rfl
@[simp] theorem State.hold_deferred (s : State) (w : Stall) : (s.hold w).deferred = s.deferred := rfl
@[simp] theorem State.hold_outbox (s : State) (w : Stall) : (s.hold w).outbox = s.outbox := rfl
@[simp] theorem State.hold_connmat (s : State) (w : Stall) : (s.hold w).connmat = s.connmat := rfl
@[simp] theorem State.hold_quads (s : State) (w : Stall) : (s.hold w).quads = s.quads := rfl
@[simp] theorem State.hold_rings (s : State) (w : Stall) : (s.hold w).rings = s.rings := rfl
@[simp] theorem State.hold_colls (s : State) (w : Stall) : (s.hold w).colls = s.colls := rfl
@[simp] theorem State.hold_sys (s : State) (w : Stall) : (s.hold w).sys = s.sys := rfl

/-! ### `State.setFn` -/

@[simp] theorem State.setFn_time (s : State) (n : Nat) (f : Fn) : (s.setFn n f).time = s.time := rfl
@[simp] theorem State.setFn_args (s : State) (n : Nat) (f : Fn) : (s.setFn n f).args = s.args := rfl
@[simp] theorem State.setFn_turns (s : State) (n : Nat) (f : Fn) : (s.setFn n f).turns = s.turns := rfl
@[simp] theorem State.setFn_free (s : State) (n : Nat) (f : Fn) : (s.setFn n f).free = s.free := rfl
@[simp] theorem State.setFn_uids (s : State) (n : Nat) (f : Fn) : (s.setFn n f).uids = s.uids := rfl
@[simp] theorem State.setFn_cur (s : State) (n : Nat) (f : Fn) : (s.setFn n f).cur = s.cur := rfl
@[simp] theorem State.setFn_others (s : State) (n : Nat) (f : Fn) : (s.setFn n f).others = s.others := rfl
@[simp] theorem State.setFn_teams (s : State) (n : Nat) (f : Fn) : (s.setFn n f).teams = s.teams := rfl
@[simp] theorem State.setFn_gens (s : State) (n : Nat) (f : Fn) : (s.setFn n f).gens = s.gens := rfl
@[simp] theorem State.setFn_mem (s : State) (n : Nat) (f : Fn) : (s.setFn n f).mem = s.mem := rfl
@[simp] theorem State.setFn_poison (s : State) (n : Nat) (f : Fn) : (s.setFn n f).poison = s.poison := rfl
@[simp] theorem State.setFn_lines (s : State) (n : Nat) (f : Fn) : (s.setFn n f).lines = s.lines := rfl
@[simp] theorem State.setFn_leases (s : State) (n : Nat) (f : Fn) : (s.setFn n f).leases = s.leases := rfl
@[simp] theorem State.setFn_mons (s : State) (n : Nat) (f : Fn) : (s.setFn n f).mons = s.mons := rfl
@[simp] theorem State.setFn_ops (s : State) (n : Nat) (f : Fn) : (s.setFn n f).ops = s.ops := rfl
@[simp] theorem State.setFn_fns (s : State) (n : Nat) (f : Fn) : (s.setFn n f).fns = Cells.set {} s.fns n f := rfl
@[simp] theorem State.setFn_tlb (s : State) (n : Nat) (f : Fn) : (s.setFn n f).tlb = s.tlb := rfl
@[simp] theorem State.setFn_walks (s : State) (n : Nat) (f : Fn) : (s.setFn n f).walks = s.walks := rfl
@[simp] theorem State.setFn_walkers (s : State) (n : Nat) (f : Fn) : (s.setFn n f).walkers = s.walkers := rfl
@[simp] theorem State.setFn_misses (s : State) (n : Nat) (f : Fn) : (s.setFn n f).misses = s.misses := rfl
@[simp] theorem State.setFn_walked (s : State) (n : Nat) (f : Fn) : (s.setFn n f).walked = s.walked := rfl
@[simp] theorem State.setFn_prefs (s : State) (n : Nat) (f : Fn) : (s.setFn n f).prefs = s.prefs := rfl
@[simp] theorem State.setFn_requests (s : State) (n : Nat) (f : Fn) : (s.setFn n f).requests = s.requests := rfl
@[simp] theorem State.setFn_parts (s : State) (n : Nat) (f : Fn) : (s.setFn n f).parts = s.parts := rfl
@[simp] theorem State.setFn_queues (s : State) (n : Nat) (f : Fn) : (s.setFn n f).queues = s.queues := rfl
@[simp] theorem State.setFn_grids (s : State) (n : Nat) (f : Fn) : (s.setFn n f).grids = s.grids := rfl
@[simp] theorem State.setFn_frames (s : State) (n : Nat) (f : Fn) : (s.setFn n f).frames = s.frames := rfl
@[simp] theorem State.setFn_shards (s : State) (n : Nat) (f : Fn) : (s.setFn n f).shards = s.shards := rfl
@[simp] theorem State.setFn_atlas (s : State) (n : Nat) (f : Fn) : (s.setFn n f).atlas = s.atlas := rfl
@[simp] theorem State.setFn_gathers (s : State) (n : Nat) (f : Fn) : (s.setFn n f).gathers = s.gathers := rfl
@[simp] theorem State.setFn_deferred (s : State) (n : Nat) (f : Fn) : (s.setFn n f).deferred = s.deferred := rfl
@[simp] theorem State.setFn_outbox (s : State) (n : Nat) (f : Fn) : (s.setFn n f).outbox = s.outbox := rfl
@[simp] theorem State.setFn_connmat (s : State) (n : Nat) (f : Fn) : (s.setFn n f).connmat = s.connmat := rfl
@[simp] theorem State.setFn_quads (s : State) (n : Nat) (f : Fn) : (s.setFn n f).quads = s.quads := rfl
@[simp] theorem State.setFn_rings (s : State) (n : Nat) (f : Fn) : (s.setFn n f).rings = s.rings := rfl
@[simp] theorem State.setFn_colls (s : State) (n : Nat) (f : Fn) : (s.setFn n f).colls = s.colls := rfl
@[simp] theorem State.setFn_sys (s : State) (n : Nat) (f : Fn) : (s.setFn n f).sys = s.sys := rfl

/-! ### `State.setPart` -/

@[simp] theorem State.setPart_time (s : State) (n : Nat) (p : Part) : (s.setPart n p).time = s.time := rfl
@[simp] theorem State.setPart_args (s : State) (n : Nat) (p : Part) : (s.setPart n p).args = s.args := rfl
@[simp] theorem State.setPart_turns (s : State) (n : Nat) (p : Part) : (s.setPart n p).turns = s.turns := rfl
@[simp] theorem State.setPart_free (s : State) (n : Nat) (p : Part) : (s.setPart n p).free = s.free := rfl
@[simp] theorem State.setPart_uids (s : State) (n : Nat) (p : Part) : (s.setPart n p).uids = s.uids := rfl
@[simp] theorem State.setPart_cur (s : State) (n : Nat) (p : Part) : (s.setPart n p).cur = s.cur := rfl
@[simp] theorem State.setPart_others (s : State) (n : Nat) (p : Part) : (s.setPart n p).others = s.others := rfl
@[simp] theorem State.setPart_teams (s : State) (n : Nat) (p : Part) : (s.setPart n p).teams = s.teams := rfl
@[simp] theorem State.setPart_gens (s : State) (n : Nat) (p : Part) : (s.setPart n p).gens = s.gens := rfl
@[simp] theorem State.setPart_mem (s : State) (n : Nat) (p : Part) : (s.setPart n p).mem = s.mem := rfl
@[simp] theorem State.setPart_poison (s : State) (n : Nat) (p : Part) : (s.setPart n p).poison = s.poison := rfl
@[simp] theorem State.setPart_lines (s : State) (n : Nat) (p : Part) : (s.setPart n p).lines = s.lines := rfl
@[simp] theorem State.setPart_leases (s : State) (n : Nat) (p : Part) : (s.setPart n p).leases = s.leases := rfl
@[simp] theorem State.setPart_mons (s : State) (n : Nat) (p : Part) : (s.setPart n p).mons = s.mons := rfl
@[simp] theorem State.setPart_ops (s : State) (n : Nat) (p : Part) : (s.setPart n p).ops = s.ops := rfl
@[simp] theorem State.setPart_fns (s : State) (n : Nat) (p : Part) : (s.setPart n p).fns = s.fns := rfl
@[simp] theorem State.setPart_tlb (s : State) (n : Nat) (p : Part) : (s.setPart n p).tlb = s.tlb := rfl
@[simp] theorem State.setPart_walks (s : State) (n : Nat) (p : Part) : (s.setPart n p).walks = s.walks := rfl
@[simp] theorem State.setPart_walkers (s : State) (n : Nat) (p : Part) : (s.setPart n p).walkers = s.walkers := rfl
@[simp] theorem State.setPart_misses (s : State) (n : Nat) (p : Part) : (s.setPart n p).misses = s.misses := rfl
@[simp] theorem State.setPart_walked (s : State) (n : Nat) (p : Part) : (s.setPart n p).walked = s.walked := rfl
@[simp] theorem State.setPart_prefs (s : State) (n : Nat) (p : Part) : (s.setPart n p).prefs = s.prefs := rfl
@[simp] theorem State.setPart_requests (s : State) (n : Nat) (p : Part) : (s.setPart n p).requests = s.requests := rfl
@[simp] theorem State.setPart_parts (s : State) (n : Nat) (p : Part) : (s.setPart n p).parts = Cells.set {} s.parts n p := rfl
@[simp] theorem State.setPart_queues (s : State) (n : Nat) (p : Part) : (s.setPart n p).queues = s.queues := rfl
@[simp] theorem State.setPart_grids (s : State) (n : Nat) (p : Part) : (s.setPart n p).grids = s.grids := rfl
@[simp] theorem State.setPart_frames (s : State) (n : Nat) (p : Part) : (s.setPart n p).frames = s.frames := rfl
@[simp] theorem State.setPart_shards (s : State) (n : Nat) (p : Part) : (s.setPart n p).shards = s.shards := rfl
@[simp] theorem State.setPart_atlas (s : State) (n : Nat) (p : Part) : (s.setPart n p).atlas = s.atlas := rfl
@[simp] theorem State.setPart_gathers (s : State) (n : Nat) (p : Part) : (s.setPart n p).gathers = s.gathers := rfl
@[simp] theorem State.setPart_deferred (s : State) (n : Nat) (p : Part) : (s.setPart n p).deferred = s.deferred := rfl
@[simp] theorem State.setPart_outbox (s : State) (n : Nat) (p : Part) : (s.setPart n p).outbox = s.outbox := rfl
@[simp] theorem State.setPart_connmat (s : State) (n : Nat) (p : Part) : (s.setPart n p).connmat = s.connmat := rfl
@[simp] theorem State.setPart_quads (s : State) (n : Nat) (p : Part) : (s.setPart n p).quads = s.quads := rfl
@[simp] theorem State.setPart_rings (s : State) (n : Nat) (p : Part) : (s.setPart n p).rings = s.rings := rfl
@[simp] theorem State.setPart_colls (s : State) (n : Nat) (p : Part) : (s.setPart n p).colls = s.colls := rfl
@[simp] theorem State.setPart_sys (s : State) (n : Nat) (p : Part) : (s.setPart n p).sys = s.sys := rfl

/-! ### `State.setQueue` -/

@[simp] theorem State.setQueue_time (s : State) (n : Nat) (q : Queue) : (s.setQueue n q).time = s.time := rfl
@[simp] theorem State.setQueue_args (s : State) (n : Nat) (q : Queue) : (s.setQueue n q).args = s.args := rfl
@[simp] theorem State.setQueue_turns (s : State) (n : Nat) (q : Queue) : (s.setQueue n q).turns = s.turns := rfl
@[simp] theorem State.setQueue_free (s : State) (n : Nat) (q : Queue) : (s.setQueue n q).free = s.free := rfl
@[simp] theorem State.setQueue_uids (s : State) (n : Nat) (q : Queue) : (s.setQueue n q).uids = s.uids := rfl
@[simp] theorem State.setQueue_cur (s : State) (n : Nat) (q : Queue) : (s.setQueue n q).cur = s.cur := rfl
@[simp] theorem State.setQueue_others (s : State) (n : Nat) (q : Queue) : (s.setQueue n q).others = s.others := rfl
@[simp] theorem State.setQueue_teams (s : State) (n : Nat) (q : Queue) : (s.setQueue n q).teams = s.teams := rfl
@[simp] theorem State.setQueue_gens (s : State) (n : Nat) (q : Queue) : (s.setQueue n q).gens = s.gens := rfl
@[simp] theorem State.setQueue_mem (s : State) (n : Nat) (q : Queue) : (s.setQueue n q).mem = s.mem := rfl
@[simp] theorem State.setQueue_poison (s : State) (n : Nat) (q : Queue) : (s.setQueue n q).poison = s.poison := rfl
@[simp] theorem State.setQueue_lines (s : State) (n : Nat) (q : Queue) : (s.setQueue n q).lines = s.lines := rfl
@[simp] theorem State.setQueue_leases (s : State) (n : Nat) (q : Queue) : (s.setQueue n q).leases = s.leases := rfl
@[simp] theorem State.setQueue_mons (s : State) (n : Nat) (q : Queue) : (s.setQueue n q).mons = s.mons := rfl
@[simp] theorem State.setQueue_ops (s : State) (n : Nat) (q : Queue) : (s.setQueue n q).ops = s.ops := rfl
@[simp] theorem State.setQueue_fns (s : State) (n : Nat) (q : Queue) : (s.setQueue n q).fns = s.fns := rfl
@[simp] theorem State.setQueue_tlb (s : State) (n : Nat) (q : Queue) : (s.setQueue n q).tlb = s.tlb := rfl
@[simp] theorem State.setQueue_walks (s : State) (n : Nat) (q : Queue) : (s.setQueue n q).walks = s.walks := rfl
@[simp] theorem State.setQueue_walkers (s : State) (n : Nat) (q : Queue) : (s.setQueue n q).walkers = s.walkers := rfl
@[simp] theorem State.setQueue_misses (s : State) (n : Nat) (q : Queue) : (s.setQueue n q).misses = s.misses := rfl
@[simp] theorem State.setQueue_walked (s : State) (n : Nat) (q : Queue) : (s.setQueue n q).walked = s.walked := rfl
@[simp] theorem State.setQueue_prefs (s : State) (n : Nat) (q : Queue) : (s.setQueue n q).prefs = s.prefs := rfl
@[simp] theorem State.setQueue_requests (s : State) (n : Nat) (q : Queue) : (s.setQueue n q).requests = s.requests := rfl
@[simp] theorem State.setQueue_parts (s : State) (n : Nat) (q : Queue) : (s.setQueue n q).parts = s.parts := rfl
@[simp] theorem State.setQueue_queues (s : State) (n : Nat) (q : Queue) : (s.setQueue n q).queues = Cells.set {} s.queues n q := rfl
@[simp] theorem State.setQueue_grids (s : State) (n : Nat) (q : Queue) : (s.setQueue n q).grids = s.grids := rfl
@[simp] theorem State.setQueue_frames (s : State) (n : Nat) (q : Queue) : (s.setQueue n q).frames = s.frames := rfl
@[simp] theorem State.setQueue_shards (s : State) (n : Nat) (q : Queue) : (s.setQueue n q).shards = s.shards := rfl
@[simp] theorem State.setQueue_atlas (s : State) (n : Nat) (q : Queue) : (s.setQueue n q).atlas = s.atlas := rfl
@[simp] theorem State.setQueue_gathers (s : State) (n : Nat) (q : Queue) : (s.setQueue n q).gathers = s.gathers := rfl
@[simp] theorem State.setQueue_deferred (s : State) (n : Nat) (q : Queue) : (s.setQueue n q).deferred = s.deferred := rfl
@[simp] theorem State.setQueue_outbox (s : State) (n : Nat) (q : Queue) : (s.setQueue n q).outbox = s.outbox := rfl
@[simp] theorem State.setQueue_connmat (s : State) (n : Nat) (q : Queue) : (s.setQueue n q).connmat = s.connmat := rfl
@[simp] theorem State.setQueue_quads (s : State) (n : Nat) (q : Queue) : (s.setQueue n q).quads = s.quads := rfl
@[simp] theorem State.setQueue_rings (s : State) (n : Nat) (q : Queue) : (s.setQueue n q).rings = s.rings := rfl
@[simp] theorem State.setQueue_colls (s : State) (n : Nat) (q : Queue) : (s.setQueue n q).colls = s.colls := rfl
@[simp] theorem State.setQueue_sys (s : State) (n : Nat) (q : Queue) : (s.setQueue n q).sys = s.sys := rfl

/-! ### `State.setShard` -/

@[simp] theorem State.setShard_time (s : State) (n : Nat) (g : Shard) : (s.setShard n g).time = s.time := rfl
@[simp] theorem State.setShard_args (s : State) (n : Nat) (g : Shard) : (s.setShard n g).args = s.args := rfl
@[simp] theorem State.setShard_turns (s : State) (n : Nat) (g : Shard) : (s.setShard n g).turns = s.turns := rfl
@[simp] theorem State.setShard_free (s : State) (n : Nat) (g : Shard) : (s.setShard n g).free = s.free := rfl
@[simp] theorem State.setShard_uids (s : State) (n : Nat) (g : Shard) : (s.setShard n g).uids = s.uids := rfl
@[simp] theorem State.setShard_cur (s : State) (n : Nat) (g : Shard) : (s.setShard n g).cur = s.cur := rfl
@[simp] theorem State.setShard_others (s : State) (n : Nat) (g : Shard) : (s.setShard n g).others = s.others := rfl
@[simp] theorem State.setShard_teams (s : State) (n : Nat) (g : Shard) : (s.setShard n g).teams = s.teams := rfl
@[simp] theorem State.setShard_gens (s : State) (n : Nat) (g : Shard) : (s.setShard n g).gens = s.gens := rfl
@[simp] theorem State.setShard_mem (s : State) (n : Nat) (g : Shard) : (s.setShard n g).mem = s.mem := rfl
@[simp] theorem State.setShard_poison (s : State) (n : Nat) (g : Shard) : (s.setShard n g).poison = s.poison := rfl
@[simp] theorem State.setShard_lines (s : State) (n : Nat) (g : Shard) : (s.setShard n g).lines = s.lines := rfl
@[simp] theorem State.setShard_leases (s : State) (n : Nat) (g : Shard) : (s.setShard n g).leases = s.leases := rfl
@[simp] theorem State.setShard_mons (s : State) (n : Nat) (g : Shard) : (s.setShard n g).mons = s.mons := rfl
@[simp] theorem State.setShard_ops (s : State) (n : Nat) (g : Shard) : (s.setShard n g).ops = s.ops := rfl
@[simp] theorem State.setShard_fns (s : State) (n : Nat) (g : Shard) : (s.setShard n g).fns = s.fns := rfl
@[simp] theorem State.setShard_tlb (s : State) (n : Nat) (g : Shard) : (s.setShard n g).tlb = s.tlb := rfl
@[simp] theorem State.setShard_walks (s : State) (n : Nat) (g : Shard) : (s.setShard n g).walks = s.walks := rfl
@[simp] theorem State.setShard_walkers (s : State) (n : Nat) (g : Shard) : (s.setShard n g).walkers = s.walkers := rfl
@[simp] theorem State.setShard_misses (s : State) (n : Nat) (g : Shard) : (s.setShard n g).misses = s.misses := rfl
@[simp] theorem State.setShard_walked (s : State) (n : Nat) (g : Shard) : (s.setShard n g).walked = s.walked := rfl
@[simp] theorem State.setShard_prefs (s : State) (n : Nat) (g : Shard) : (s.setShard n g).prefs = s.prefs := rfl
@[simp] theorem State.setShard_requests (s : State) (n : Nat) (g : Shard) : (s.setShard n g).requests = s.requests := rfl
@[simp] theorem State.setShard_parts (s : State) (n : Nat) (g : Shard) : (s.setShard n g).parts = s.parts := rfl
@[simp] theorem State.setShard_queues (s : State) (n : Nat) (g : Shard) : (s.setShard n g).queues = s.queues := rfl
@[simp] theorem State.setShard_grids (s : State) (n : Nat) (g : Shard) : (s.setShard n g).grids = s.grids := rfl
@[simp] theorem State.setShard_frames (s : State) (n : Nat) (g : Shard) : (s.setShard n g).frames = s.frames := rfl
@[simp] theorem State.setShard_shards (s : State) (n : Nat) (g : Shard) : (s.setShard n g).shards = Cells.set {} s.shards n g := rfl
@[simp] theorem State.setShard_atlas (s : State) (n : Nat) (g : Shard) : (s.setShard n g).atlas = s.atlas := rfl
@[simp] theorem State.setShard_gathers (s : State) (n : Nat) (g : Shard) : (s.setShard n g).gathers = s.gathers := rfl
@[simp] theorem State.setShard_deferred (s : State) (n : Nat) (g : Shard) : (s.setShard n g).deferred = s.deferred := rfl
@[simp] theorem State.setShard_outbox (s : State) (n : Nat) (g : Shard) : (s.setShard n g).outbox = s.outbox := rfl
@[simp] theorem State.setShard_connmat (s : State) (n : Nat) (g : Shard) : (s.setShard n g).connmat = s.connmat := rfl
@[simp] theorem State.setShard_quads (s : State) (n : Nat) (g : Shard) : (s.setShard n g).quads = s.quads := rfl
@[simp] theorem State.setShard_rings (s : State) (n : Nat) (g : Shard) : (s.setShard n g).rings = s.rings := rfl
@[simp] theorem State.setShard_colls (s : State) (n : Nat) (g : Shard) : (s.setShard n g).colls = s.colls := rfl
@[simp] theorem State.setShard_sys (s : State) (n : Nat) (g : Shard) : (s.setShard n g).sys = s.sys := rfl

/-! ### `State.setQuad` -/

@[simp] theorem State.setQuad_time (s : State) (n : Nat) (q : Quad) : (s.setQuad n q).time = s.time := rfl
@[simp] theorem State.setQuad_args (s : State) (n : Nat) (q : Quad) : (s.setQuad n q).args = s.args := rfl
@[simp] theorem State.setQuad_turns (s : State) (n : Nat) (q : Quad) : (s.setQuad n q).turns = s.turns := rfl
@[simp] theorem State.setQuad_free (s : State) (n : Nat) (q : Quad) : (s.setQuad n q).free = s.free := rfl
@[simp] theorem State.setQuad_uids (s : State) (n : Nat) (q : Quad) : (s.setQuad n q).uids = s.uids := rfl
@[simp] theorem State.setQuad_cur (s : State) (n : Nat) (q : Quad) : (s.setQuad n q).cur = s.cur := rfl
@[simp] theorem State.setQuad_others (s : State) (n : Nat) (q : Quad) : (s.setQuad n q).others = s.others := rfl
@[simp] theorem State.setQuad_teams (s : State) (n : Nat) (q : Quad) : (s.setQuad n q).teams = s.teams := rfl
@[simp] theorem State.setQuad_gens (s : State) (n : Nat) (q : Quad) : (s.setQuad n q).gens = s.gens := rfl
@[simp] theorem State.setQuad_mem (s : State) (n : Nat) (q : Quad) : (s.setQuad n q).mem = s.mem := rfl
@[simp] theorem State.setQuad_poison (s : State) (n : Nat) (q : Quad) : (s.setQuad n q).poison = s.poison := rfl
@[simp] theorem State.setQuad_lines (s : State) (n : Nat) (q : Quad) : (s.setQuad n q).lines = s.lines := rfl
@[simp] theorem State.setQuad_leases (s : State) (n : Nat) (q : Quad) : (s.setQuad n q).leases = s.leases := rfl
@[simp] theorem State.setQuad_mons (s : State) (n : Nat) (q : Quad) : (s.setQuad n q).mons = s.mons := rfl
@[simp] theorem State.setQuad_ops (s : State) (n : Nat) (q : Quad) : (s.setQuad n q).ops = s.ops := rfl
@[simp] theorem State.setQuad_fns (s : State) (n : Nat) (q : Quad) : (s.setQuad n q).fns = s.fns := rfl
@[simp] theorem State.setQuad_tlb (s : State) (n : Nat) (q : Quad) : (s.setQuad n q).tlb = s.tlb := rfl
@[simp] theorem State.setQuad_walks (s : State) (n : Nat) (q : Quad) : (s.setQuad n q).walks = s.walks := rfl
@[simp] theorem State.setQuad_walkers (s : State) (n : Nat) (q : Quad) : (s.setQuad n q).walkers = s.walkers := rfl
@[simp] theorem State.setQuad_misses (s : State) (n : Nat) (q : Quad) : (s.setQuad n q).misses = s.misses := rfl
@[simp] theorem State.setQuad_walked (s : State) (n : Nat) (q : Quad) : (s.setQuad n q).walked = s.walked := rfl
@[simp] theorem State.setQuad_prefs (s : State) (n : Nat) (q : Quad) : (s.setQuad n q).prefs = s.prefs := rfl
@[simp] theorem State.setQuad_requests (s : State) (n : Nat) (q : Quad) : (s.setQuad n q).requests = s.requests := rfl
@[simp] theorem State.setQuad_parts (s : State) (n : Nat) (q : Quad) : (s.setQuad n q).parts = s.parts := rfl
@[simp] theorem State.setQuad_queues (s : State) (n : Nat) (q : Quad) : (s.setQuad n q).queues = s.queues := rfl
@[simp] theorem State.setQuad_grids (s : State) (n : Nat) (q : Quad) : (s.setQuad n q).grids = s.grids := rfl
@[simp] theorem State.setQuad_frames (s : State) (n : Nat) (q : Quad) : (s.setQuad n q).frames = s.frames := rfl
@[simp] theorem State.setQuad_shards (s : State) (n : Nat) (q : Quad) : (s.setQuad n q).shards = s.shards := rfl
@[simp] theorem State.setQuad_atlas (s : State) (n : Nat) (q : Quad) : (s.setQuad n q).atlas = s.atlas := rfl
@[simp] theorem State.setQuad_gathers (s : State) (n : Nat) (q : Quad) : (s.setQuad n q).gathers = s.gathers := rfl
@[simp] theorem State.setQuad_deferred (s : State) (n : Nat) (q : Quad) : (s.setQuad n q).deferred = s.deferred := rfl
@[simp] theorem State.setQuad_outbox (s : State) (n : Nat) (q : Quad) : (s.setQuad n q).outbox = s.outbox := rfl
@[simp] theorem State.setQuad_connmat (s : State) (n : Nat) (q : Quad) : (s.setQuad n q).connmat = s.connmat := rfl
@[simp] theorem State.setQuad_quads (s : State) (n : Nat) (q : Quad) : (s.setQuad n q).quads = Cells.set {} s.quads n q := rfl
@[simp] theorem State.setQuad_rings (s : State) (n : Nat) (q : Quad) : (s.setQuad n q).rings = s.rings := rfl
@[simp] theorem State.setQuad_colls (s : State) (n : Nat) (q : Quad) : (s.setQuad n q).colls = s.colls := rfl
@[simp] theorem State.setQuad_sys (s : State) (n : Nat) (q : Quad) : (s.setQuad n q).sys = s.sys := rfl

/-! ### `State.setTeam` -/

@[simp] theorem State.setTeam_time (s : State) (t : Team) : (s.setTeam t).time = s.time := rfl
@[simp] theorem State.setTeam_args (s : State) (t : Team) : (s.setTeam t).args = s.args := rfl
@[simp] theorem State.setTeam_turns (s : State) (t : Team) : (s.setTeam t).turns = s.turns := rfl
@[simp] theorem State.setTeam_free (s : State) (t : Team) : (s.setTeam t).free = s.free := rfl
@[simp] theorem State.setTeam_uids (s : State) (t : Team) : (s.setTeam t).uids = s.uids := rfl
@[simp] theorem State.setTeam_cur (s : State) (t : Team) : (s.setTeam t).cur = s.cur := rfl
@[simp] theorem State.setTeam_others (s : State) (t : Team) : (s.setTeam t).others = s.others := rfl
@[simp] theorem State.setTeam_teams (s : State) (t : Team) : (s.setTeam t).teams = s.teams.map (fun u => if u.id == t.id then t else u) := rfl
@[simp] theorem State.setTeam_gens (s : State) (t : Team) : (s.setTeam t).gens = s.gens := rfl
@[simp] theorem State.setTeam_mem (s : State) (t : Team) : (s.setTeam t).mem = s.mem := rfl
@[simp] theorem State.setTeam_poison (s : State) (t : Team) : (s.setTeam t).poison = s.poison := rfl
@[simp] theorem State.setTeam_lines (s : State) (t : Team) : (s.setTeam t).lines = s.lines := rfl
@[simp] theorem State.setTeam_leases (s : State) (t : Team) : (s.setTeam t).leases = s.leases := rfl
@[simp] theorem State.setTeam_mons (s : State) (t : Team) : (s.setTeam t).mons = s.mons := rfl
@[simp] theorem State.setTeam_ops (s : State) (t : Team) : (s.setTeam t).ops = s.ops := rfl
@[simp] theorem State.setTeam_fns (s : State) (t : Team) : (s.setTeam t).fns = s.fns := rfl
@[simp] theorem State.setTeam_tlb (s : State) (t : Team) : (s.setTeam t).tlb = s.tlb := rfl
@[simp] theorem State.setTeam_walks (s : State) (t : Team) : (s.setTeam t).walks = s.walks := rfl
@[simp] theorem State.setTeam_walkers (s : State) (t : Team) : (s.setTeam t).walkers = s.walkers := rfl
@[simp] theorem State.setTeam_misses (s : State) (t : Team) : (s.setTeam t).misses = s.misses := rfl
@[simp] theorem State.setTeam_walked (s : State) (t : Team) : (s.setTeam t).walked = s.walked := rfl
@[simp] theorem State.setTeam_prefs (s : State) (t : Team) : (s.setTeam t).prefs = s.prefs := rfl
@[simp] theorem State.setTeam_requests (s : State) (t : Team) : (s.setTeam t).requests = s.requests := rfl
@[simp] theorem State.setTeam_parts (s : State) (t : Team) : (s.setTeam t).parts = s.parts := rfl
@[simp] theorem State.setTeam_queues (s : State) (t : Team) : (s.setTeam t).queues = s.queues := rfl
@[simp] theorem State.setTeam_grids (s : State) (t : Team) : (s.setTeam t).grids = s.grids := rfl
@[simp] theorem State.setTeam_frames (s : State) (t : Team) : (s.setTeam t).frames = s.frames := rfl
@[simp] theorem State.setTeam_shards (s : State) (t : Team) : (s.setTeam t).shards = s.shards := rfl
@[simp] theorem State.setTeam_atlas (s : State) (t : Team) : (s.setTeam t).atlas = s.atlas := rfl
@[simp] theorem State.setTeam_gathers (s : State) (t : Team) : (s.setTeam t).gathers = s.gathers := rfl
@[simp] theorem State.setTeam_deferred (s : State) (t : Team) : (s.setTeam t).deferred = s.deferred := rfl
@[simp] theorem State.setTeam_outbox (s : State) (t : Team) : (s.setTeam t).outbox = s.outbox := rfl
@[simp] theorem State.setTeam_connmat (s : State) (t : Team) : (s.setTeam t).connmat = s.connmat := rfl
@[simp] theorem State.setTeam_quads (s : State) (t : Team) : (s.setTeam t).quads = s.quads := rfl
@[simp] theorem State.setTeam_rings (s : State) (t : Team) : (s.setTeam t).rings = s.rings := rfl
@[simp] theorem State.setTeam_colls (s : State) (t : Team) : (s.setTeam t).colls = s.colls := rfl
@[simp] theorem State.setTeam_sys (s : State) (t : Team) : (s.setTeam t).sys = s.sys := rfl

/-! ### `State.writeBytes` -/

@[simp] theorem State.writeBytes_time (s : State) (k : Nat) (bs : List Byte) : (s.writeBytes k bs).time = s.time := rfl
@[simp] theorem State.writeBytes_args (s : State) (k : Nat) (bs : List Byte) : (s.writeBytes k bs).args = s.args := rfl
@[simp] theorem State.writeBytes_turns (s : State) (k : Nat) (bs : List Byte) : (s.writeBytes k bs).turns = s.turns := rfl
@[simp] theorem State.writeBytes_free (s : State) (k : Nat) (bs : List Byte) : (s.writeBytes k bs).free = s.free := rfl
@[simp] theorem State.writeBytes_uids (s : State) (k : Nat) (bs : List Byte) : (s.writeBytes k bs).uids = s.uids := rfl
@[simp] theorem State.writeBytes_cur (s : State) (k : Nat) (bs : List Byte) : (s.writeBytes k bs).cur = s.cur := rfl
@[simp] theorem State.writeBytes_others (s : State) (k : Nat) (bs : List Byte) : (s.writeBytes k bs).others = s.others := rfl
@[simp] theorem State.writeBytes_teams (s : State) (k : Nat) (bs : List Byte) : (s.writeBytes k bs).teams = s.teams := rfl
@[simp] theorem State.writeBytes_gens (s : State) (k : Nat) (bs : List Byte) : (s.writeBytes k bs).gens = s.gens := rfl
@[simp] theorem State.writeBytes_mem (s : State) (k : Nat) (bs : List Byte) : (s.writeBytes k bs).mem = Cells.setMany 0 s.mem k bs := rfl
@[simp] theorem State.writeBytes_poison (s : State) (k : Nat) (bs : List Byte) : (s.writeBytes k bs).poison = s.poison := rfl
@[simp] theorem State.writeBytes_lines (s : State) (k : Nat) (bs : List Byte) : (s.writeBytes k bs).lines = s.lines := rfl
@[simp] theorem State.writeBytes_leases (s : State) (k : Nat) (bs : List Byte) : (s.writeBytes k bs).leases = s.leases := rfl
@[simp] theorem State.writeBytes_mons (s : State) (k : Nat) (bs : List Byte) : (s.writeBytes k bs).mons = s.mons := rfl
@[simp] theorem State.writeBytes_ops (s : State) (k : Nat) (bs : List Byte) : (s.writeBytes k bs).ops = s.ops := rfl
@[simp] theorem State.writeBytes_fns (s : State) (k : Nat) (bs : List Byte) : (s.writeBytes k bs).fns = s.fns := rfl
@[simp] theorem State.writeBytes_tlb (s : State) (k : Nat) (bs : List Byte) : (s.writeBytes k bs).tlb = s.tlb := rfl
@[simp] theorem State.writeBytes_walks (s : State) (k : Nat) (bs : List Byte) : (s.writeBytes k bs).walks = s.walks := rfl
@[simp] theorem State.writeBytes_walkers (s : State) (k : Nat) (bs : List Byte) : (s.writeBytes k bs).walkers = s.walkers := rfl
@[simp] theorem State.writeBytes_misses (s : State) (k : Nat) (bs : List Byte) : (s.writeBytes k bs).misses = s.misses := rfl
@[simp] theorem State.writeBytes_walked (s : State) (k : Nat) (bs : List Byte) : (s.writeBytes k bs).walked = s.walked := rfl
@[simp] theorem State.writeBytes_prefs (s : State) (k : Nat) (bs : List Byte) : (s.writeBytes k bs).prefs = s.prefs := rfl
@[simp] theorem State.writeBytes_requests (s : State) (k : Nat) (bs : List Byte) : (s.writeBytes k bs).requests = s.requests := rfl
@[simp] theorem State.writeBytes_parts (s : State) (k : Nat) (bs : List Byte) : (s.writeBytes k bs).parts = s.parts := rfl
@[simp] theorem State.writeBytes_queues (s : State) (k : Nat) (bs : List Byte) : (s.writeBytes k bs).queues = s.queues := rfl
@[simp] theorem State.writeBytes_grids (s : State) (k : Nat) (bs : List Byte) : (s.writeBytes k bs).grids = s.grids := rfl
@[simp] theorem State.writeBytes_frames (s : State) (k : Nat) (bs : List Byte) : (s.writeBytes k bs).frames = s.frames := rfl
@[simp] theorem State.writeBytes_shards (s : State) (k : Nat) (bs : List Byte) : (s.writeBytes k bs).shards = s.shards := rfl
@[simp] theorem State.writeBytes_atlas (s : State) (k : Nat) (bs : List Byte) : (s.writeBytes k bs).atlas = s.atlas := rfl
@[simp] theorem State.writeBytes_gathers (s : State) (k : Nat) (bs : List Byte) : (s.writeBytes k bs).gathers = s.gathers := rfl
@[simp] theorem State.writeBytes_deferred (s : State) (k : Nat) (bs : List Byte) : (s.writeBytes k bs).deferred = s.deferred := rfl
@[simp] theorem State.writeBytes_outbox (s : State) (k : Nat) (bs : List Byte) : (s.writeBytes k bs).outbox = s.outbox := rfl
@[simp] theorem State.writeBytes_connmat (s : State) (k : Nat) (bs : List Byte) : (s.writeBytes k bs).connmat = s.connmat := rfl
@[simp] theorem State.writeBytes_quads (s : State) (k : Nat) (bs : List Byte) : (s.writeBytes k bs).quads = s.quads := rfl
@[simp] theorem State.writeBytes_rings (s : State) (k : Nat) (bs : List Byte) : (s.writeBytes k bs).rings = s.rings := rfl
@[simp] theorem State.writeBytes_colls (s : State) (k : Nat) (bs : List Byte) : (s.writeBytes k bs).colls = s.colls := rfl
@[simp] theorem State.writeBytes_sys (s : State) (k : Nat) (bs : List Byte) : (s.writeBytes k bs).sys = s.sys := rfl

/-! ### `State.tick` -/

@[simp] theorem State.tick_args (s : State) : (s.tick).args = s.args := rfl
@[simp] theorem State.tick_turns (s : State) : (s.tick).turns = s.turns := rfl
@[simp] theorem State.tick_free (s : State) : (s.tick).free = s.free := rfl
@[simp] theorem State.tick_uids (s : State) : (s.tick).uids = s.uids := rfl
@[simp] theorem State.tick_cur (s : State) : (s.tick).cur = s.cur := rfl
@[simp] theorem State.tick_others (s : State) : (s.tick).others = s.others := rfl
@[simp] theorem State.tick_teams (s : State) : (s.tick).teams = s.teams := rfl
@[simp] theorem State.tick_gens (s : State) : (s.tick).gens = s.gens := rfl
@[simp] theorem State.tick_mem (s : State) : (s.tick).mem = s.mem := rfl
@[simp] theorem State.tick_poison (s : State) : (s.tick).poison = s.poison := rfl
@[simp] theorem State.tick_lines (s : State) : (s.tick).lines = s.lines := rfl
@[simp] theorem State.tick_leases (s : State) : (s.tick).leases = s.leases := rfl
@[simp] theorem State.tick_mons (s : State) : (s.tick).mons = s.mons := rfl
@[simp] theorem State.tick_ops (s : State) : (s.tick).ops = s.ops := rfl
@[simp] theorem State.tick_fns (s : State) : (s.tick).fns = s.fns := rfl
@[simp] theorem State.tick_tlb (s : State) : (s.tick).tlb = s.tlb := rfl
@[simp] theorem State.tick_walks (s : State) : (s.tick).walks = s.walks := rfl
@[simp] theorem State.tick_walkers (s : State) : (s.tick).walkers = s.walkers := rfl
@[simp] theorem State.tick_misses (s : State) : (s.tick).misses = s.misses := rfl
@[simp] theorem State.tick_walked (s : State) : (s.tick).walked = s.walked := rfl
@[simp] theorem State.tick_prefs (s : State) : (s.tick).prefs = s.prefs := rfl
@[simp] theorem State.tick_requests (s : State) : (s.tick).requests = s.requests := rfl
@[simp] theorem State.tick_parts (s : State) : (s.tick).parts = s.noteHalts.parts := rfl
@[simp] theorem State.tick_queues (s : State) : (s.tick).queues = s.queues := rfl
@[simp] theorem State.tick_grids (s : State) : (s.tick).grids = s.grids := rfl
@[simp] theorem State.tick_frames (s : State) : (s.tick).frames = s.frames := rfl
@[simp] theorem State.tick_shards (s : State) : (s.tick).shards = s.shards := rfl
@[simp] theorem State.tick_atlas (s : State) : (s.tick).atlas = s.atlas := rfl
@[simp] theorem State.tick_gathers (s : State) : (s.tick).gathers = s.gathers := rfl
@[simp] theorem State.tick_deferred (s : State) : (s.tick).deferred = s.deferred := rfl
@[simp] theorem State.tick_outbox (s : State) : (s.tick).outbox = s.outbox := rfl
@[simp] theorem State.tick_connmat (s : State) : (s.tick).connmat = s.connmat := rfl
@[simp] theorem State.tick_quads (s : State) : (s.tick).quads = s.quads := rfl
@[simp] theorem State.tick_rings (s : State) : (s.tick).rings = s.rings := rfl
@[simp] theorem State.tick_colls (s : State) : (s.tick).colls = s.colls := rfl
@[simp] theorem State.tick_sys (s : State) : (s.tick).sys = s.noteHalts.sys := rfl

/-! ### `Ctx.setFrag` -/

@[simp] theorem Ctx.setFrag_uid (c : Ctx) (f : Frag) : (c.setFrag f).uid = c.uid := rfl
@[simp] theorem Ctx.setFrag_kind (c : Ctx) (f : Frag) : (c.setFrag f).kind = c.kind := rfl
@[simp] theorem Ctx.setFrag_team (c : Ctx) (f : Frag) : (c.setFrag f).team = c.team := rfl
@[simp] theorem Ctx.setFrag_grpid (c : Ctx) (f : Frag) : (c.setFrag f).grpid = c.grpid := rfl
@[simp] theorem Ctx.setFrag_teamid (c : Ctx) (f : Frag) : (c.setFrag f).teamid = c.teamid := rfl
@[simp] theorem Ctx.setFrag_clusid (c : Ctx) (f : Frag) : (c.setFrag f).clusid = c.clusid := rfl
@[simp] theorem Ctx.setFrag_ngrp (c : Ctx) (f : Frag) : (c.setFrag f).ngrp = c.ngrp := rfl
@[simp] theorem Ctx.setFrag_loc (c : Ctx) (f : Frag) : (c.setFrag f).loc = c.loc := rfl
@[simp] theorem Ctx.setFrag_acq (c : Ctx) (f : Frag) : (c.setFrag f).acq = c.acq := rfl
@[simp] theorem Ctx.setFrag_v (c : Ctx) (f : Frag) : (c.setFrag f).v = c.v := rfl
@[simp] theorem Ctx.setFrag_s (c : Ctx) (f : Frag) : (c.setFrag f).s = c.s := rfl
@[simp] theorem Ctx.setFrag_p (c : Ctx) (f : Frag) : (c.setFrag f).p = c.p := rfl
@[simp] theorem Ctx.setFrag_mode (c : Ctx) (f : Frag) : (c.setFrag f).mode = c.mode := rfl
@[simp] theorem Ctx.setFrag_frags (c : Ctx) (f : Frag) : (c.setFrag f).frags = c.frags.set c.fsel (some f) := rfl
@[simp] theorem Ctx.setFrag_joins (c : Ctx) (f : Frag) : (c.setFrag f).joins = c.joins := rfl
@[simp] theorem Ctx.setFrag_fsel (c : Ctx) (f : Frag) : (c.setFrag f).fsel = c.fsel := rfl
@[simp] theorem Ctx.setFrag_clause (c : Ctx) (f : Frag) : (c.setFrag f).clause = c.clause := rfl
@[simp] theorem Ctx.setFrag_ctr (c : Ctx) (f : Frag) : (c.setFrag f).ctr = c.ctr := rfl
@[simp] theorem Ctx.setFrag_lastwct (c : Ctx) (f : Frag) : (c.setFrag f).lastwct = c.lastwct := rfl
@[simp] theorem Ctx.setFrag_sample (c : Ctx) (f : Frag) : (c.setFrag f).sample = c.sample := rfl
@[simp] theorem Ctx.setFrag_tcause (c : Ctx) (f : Frag) : (c.setFrag f).tcause = c.tcause := rfl
@[simp] theorem Ctx.setFrag_epc (c : Ctx) (f : Frag) : (c.setFrag f).epc = c.epc := rfl
@[simp] theorem Ctx.setFrag_tvec (c : Ctx) (f : Frag) : (c.setFrag f).tvec = c.tvec := rfl
@[simp] theorem Ctx.setFrag_tval (c : Ctx) (f : Frag) : (c.setFrag f).tval = c.tval := rfl
@[simp] theorem Ctx.setFrag_tlanes (c : Ctx) (f : Frag) : (c.setFrag f).tlanes = c.tlanes := rfl
@[simp] theorem Ctx.setFrag_priv (c : Ctx) (f : Frag) : (c.setFrag f).priv = c.priv := rfl
@[simp] theorem Ctx.setFrag_svec (c : Ctx) (f : Frag) : (c.setFrag f).svec = c.svec := rfl
@[simp] theorem Ctx.setFrag_srsel (c : Ctx) (f : Frag) : (c.setFrag f).srsel = c.srsel := rfl
@[simp] theorem Ctx.setFrag_dbgctl (c : Ctx) (f : Frag) : (c.setFrag f).dbgctl = c.dbgctl := rfl
@[simp] theorem Ctx.setFrag_saved (c : Ctx) (f : Frag) : (c.setFrag f).saved = c.saved := rfl
@[simp] theorem Ctx.setFrag_copyErrs (c : Ctx) (f : Frag) : (c.setFrag f).copyErrs = c.copyErrs := rfl
@[simp] theorem Ctx.setFrag_owedTrap (c : Ctx) (f : Frag) : (c.setFrag f).owedTrap = c.owedTrap := rfl
@[simp] theorem Ctx.setFrag_recipe (c : Ctx) (f : Frag) : (c.setFrag f).recipe = c.recipe := rfl
@[simp] theorem Ctx.setFrag_abandonTaken (c : Ctx) (f : Frag) : (c.setFrag f).abandonTaken = c.abandonTaken := rfl
@[simp] theorem Ctx.setFrag_halted (c : Ctx) (f : Frag) : (c.setFrag f).halted = c.halted := rfl
@[simp] theorem Ctx.setFrag_ended (c : Ctx) (f : Frag) : (c.setFrag f).ended = c.ended := rfl
@[simp] theorem Ctx.setFrag_regError (c : Ctx) (f : Frag) : (c.setFrag f).regError = c.regError := rfl
@[simp] theorem Ctx.setFrag_stall (c : Ctx) (f : Frag) : (c.setFrag f).stall = c.stall := rfl
@[simp] theorem Ctx.setFrag_failed (c : Ctx) (f : Frag) : (c.setFrag f).failed = c.failed := rfl
@[simp] theorem Ctx.setFrag_resSeq (c : Ctx) (f : Frag) : (c.setFrag f).resSeq = c.resSeq := rfl
@[simp] theorem Ctx.setFrag_ready (c : Ctx) (f : Frag) : (c.setFrag f).ready = c.ready := rfl
@[simp] theorem Ctx.setFrag_lastIssue (c : Ctx) (f : Frag) : (c.setFrag f).lastIssue = c.lastIssue := rfl
@[simp] theorem Ctx.setFrag_issueSeq (c : Ctx) (f : Frag) : (c.setFrag f).issueSeq = c.issueSeq := rfl
@[simp] theorem Ctx.setFrag_whos (c : Ctx) (f : Frag) : (c.setFrag f).whos = c.whos := rfl
@[simp] theorem Ctx.setFrag_yielded (c : Ctx) (f : Frag) : (c.setFrag f).yielded = c.yielded := rfl
@[simp] theorem Ctx.setFrag_ckpts (c : Ctx) (f : Frag) : (c.setFrag f).ckpts = c.ckpts := rfl
@[simp] theorem Ctx.setFrag_born (c : Ctx) (f : Frag) : (c.setFrag f).born = c.born := rfl
@[simp] theorem Ctx.setFrag_mrp (c : Ctx) (f : Frag) : (c.setFrag f).mrp = c.mrp := rfl
@[simp] theorem Ctx.setFrag_mcp (c : Ctx) (f : Frag) : (c.setFrag f).mcp = c.mcp := rfl
@[simp] theorem Ctx.setFrag_mkp (c : Ctx) (f : Frag) : (c.setFrag f).mkp = c.mkp := rfl
@[simp] theorem Ctx.setFrag_loadErr (c : Ctx) (f : Frag) : (c.setFrag f).loadErr = c.loadErr := rfl
@[simp] theorem Ctx.setFrag_sig (c : Ctx) (f : Frag) : (c.setFrag f).sig = c.sig := rfl

/-! ### `Ctx.setS` -/

@[simp] theorem Ctx.setS_uid (c : Ctx) (n : Nat) (x : Word) : (c.setS n x).uid = c.uid := rfl
@[simp] theorem Ctx.setS_kind (c : Ctx) (n : Nat) (x : Word) : (c.setS n x).kind = c.kind := rfl
@[simp] theorem Ctx.setS_team (c : Ctx) (n : Nat) (x : Word) : (c.setS n x).team = c.team := rfl
@[simp] theorem Ctx.setS_grpid (c : Ctx) (n : Nat) (x : Word) : (c.setS n x).grpid = c.grpid := rfl
@[simp] theorem Ctx.setS_teamid (c : Ctx) (n : Nat) (x : Word) : (c.setS n x).teamid = c.teamid := rfl
@[simp] theorem Ctx.setS_clusid (c : Ctx) (n : Nat) (x : Word) : (c.setS n x).clusid = c.clusid := rfl
@[simp] theorem Ctx.setS_ngrp (c : Ctx) (n : Nat) (x : Word) : (c.setS n x).ngrp = c.ngrp := rfl
@[simp] theorem Ctx.setS_loc (c : Ctx) (n : Nat) (x : Word) : (c.setS n x).loc = c.loc := rfl
@[simp] theorem Ctx.setS_acq (c : Ctx) (n : Nat) (x : Word) : (c.setS n x).acq = c.acq := rfl
@[simp] theorem Ctx.setS_v (c : Ctx) (n : Nat) (x : Word) : (c.setS n x).v = c.v := rfl
@[simp] theorem Ctx.setS_s (c : Ctx) (n : Nat) (x : Word) : (c.setS n x).s = Cells.set 0 c.s n x := rfl
@[simp] theorem Ctx.setS_p (c : Ctx) (n : Nat) (x : Word) : (c.setS n x).p = c.p := rfl
@[simp] theorem Ctx.setS_mode (c : Ctx) (n : Nat) (x : Word) : (c.setS n x).mode = c.mode := rfl
@[simp] theorem Ctx.setS_frags (c : Ctx) (n : Nat) (x : Word) : (c.setS n x).frags = c.frags := rfl
@[simp] theorem Ctx.setS_joins (c : Ctx) (n : Nat) (x : Word) : (c.setS n x).joins = c.joins := rfl
@[simp] theorem Ctx.setS_fsel (c : Ctx) (n : Nat) (x : Word) : (c.setS n x).fsel = c.fsel := rfl
@[simp] theorem Ctx.setS_clause (c : Ctx) (n : Nat) (x : Word) : (c.setS n x).clause = c.clause := rfl
@[simp] theorem Ctx.setS_ctr (c : Ctx) (n : Nat) (x : Word) : (c.setS n x).ctr = c.ctr := rfl
@[simp] theorem Ctx.setS_lastwct (c : Ctx) (n : Nat) (x : Word) : (c.setS n x).lastwct = c.lastwct := rfl
@[simp] theorem Ctx.setS_sample (c : Ctx) (n : Nat) (x : Word) : (c.setS n x).sample = c.sample := rfl
@[simp] theorem Ctx.setS_tcause (c : Ctx) (n : Nat) (x : Word) : (c.setS n x).tcause = c.tcause := rfl
@[simp] theorem Ctx.setS_epc (c : Ctx) (n : Nat) (x : Word) : (c.setS n x).epc = c.epc := rfl
@[simp] theorem Ctx.setS_tvec (c : Ctx) (n : Nat) (x : Word) : (c.setS n x).tvec = c.tvec := rfl
@[simp] theorem Ctx.setS_tval (c : Ctx) (n : Nat) (x : Word) : (c.setS n x).tval = c.tval := rfl
@[simp] theorem Ctx.setS_tlanes (c : Ctx) (n : Nat) (x : Word) : (c.setS n x).tlanes = c.tlanes := rfl
@[simp] theorem Ctx.setS_priv (c : Ctx) (n : Nat) (x : Word) : (c.setS n x).priv = c.priv := rfl
@[simp] theorem Ctx.setS_svec (c : Ctx) (n : Nat) (x : Word) : (c.setS n x).svec = c.svec := rfl
@[simp] theorem Ctx.setS_srsel (c : Ctx) (n : Nat) (x : Word) : (c.setS n x).srsel = c.srsel := rfl
@[simp] theorem Ctx.setS_dbgctl (c : Ctx) (n : Nat) (x : Word) : (c.setS n x).dbgctl = c.dbgctl := rfl
@[simp] theorem Ctx.setS_saved (c : Ctx) (n : Nat) (x : Word) : (c.setS n x).saved = c.saved := rfl
@[simp] theorem Ctx.setS_copyErrs (c : Ctx) (n : Nat) (x : Word) : (c.setS n x).copyErrs = c.copyErrs := rfl
@[simp] theorem Ctx.setS_owedTrap (c : Ctx) (n : Nat) (x : Word) : (c.setS n x).owedTrap = c.owedTrap := rfl
@[simp] theorem Ctx.setS_recipe (c : Ctx) (n : Nat) (x : Word) : (c.setS n x).recipe = c.recipe := rfl
@[simp] theorem Ctx.setS_abandonTaken (c : Ctx) (n : Nat) (x : Word) : (c.setS n x).abandonTaken = c.abandonTaken := rfl
@[simp] theorem Ctx.setS_halted (c : Ctx) (n : Nat) (x : Word) : (c.setS n x).halted = c.halted := rfl
@[simp] theorem Ctx.setS_ended (c : Ctx) (n : Nat) (x : Word) : (c.setS n x).ended = c.ended := rfl
@[simp] theorem Ctx.setS_regError (c : Ctx) (n : Nat) (x : Word) : (c.setS n x).regError = c.regError := rfl
@[simp] theorem Ctx.setS_stall (c : Ctx) (n : Nat) (x : Word) : (c.setS n x).stall = c.stall := rfl
@[simp] theorem Ctx.setS_failed (c : Ctx) (n : Nat) (x : Word) : (c.setS n x).failed = c.failed := rfl
@[simp] theorem Ctx.setS_resSeq (c : Ctx) (n : Nat) (x : Word) : (c.setS n x).resSeq = c.resSeq := rfl
@[simp] theorem Ctx.setS_ready (c : Ctx) (n : Nat) (x : Word) : (c.setS n x).ready = c.ready := rfl
@[simp] theorem Ctx.setS_lastIssue (c : Ctx) (n : Nat) (x : Word) : (c.setS n x).lastIssue = c.lastIssue := rfl
@[simp] theorem Ctx.setS_issueSeq (c : Ctx) (n : Nat) (x : Word) : (c.setS n x).issueSeq = c.issueSeq := rfl
@[simp] theorem Ctx.setS_whos (c : Ctx) (n : Nat) (x : Word) : (c.setS n x).whos = c.whos := rfl
@[simp] theorem Ctx.setS_yielded (c : Ctx) (n : Nat) (x : Word) : (c.setS n x).yielded = c.yielded := rfl
@[simp] theorem Ctx.setS_ckpts (c : Ctx) (n : Nat) (x : Word) : (c.setS n x).ckpts = c.ckpts := rfl
@[simp] theorem Ctx.setS_born (c : Ctx) (n : Nat) (x : Word) : (c.setS n x).born = c.born := rfl
@[simp] theorem Ctx.setS_mrp (c : Ctx) (n : Nat) (x : Word) : (c.setS n x).mrp = c.mrp := rfl
@[simp] theorem Ctx.setS_mcp (c : Ctx) (n : Nat) (x : Word) : (c.setS n x).mcp = c.mcp := rfl
@[simp] theorem Ctx.setS_mkp (c : Ctx) (n : Nat) (x : Word) : (c.setS n x).mkp = c.mkp := rfl
@[simp] theorem Ctx.setS_loadErr (c : Ctx) (n : Nat) (x : Word) : (c.setS n x).loadErr = c.loadErr := rfl
@[simp] theorem Ctx.setS_sig (c : Ctx) (n : Nat) (x : Word) : (c.setS n x).sig = c.sig := rfl

/-! ### `Ctx.setV` -/

@[simp] theorem Ctx.setV_uid (c : Ctx) (r : Nat) (m : Word) (x : List Word) : (c.setV r m x).uid = c.uid := rfl
@[simp] theorem Ctx.setV_kind (c : Ctx) (r : Nat) (m : Word) (x : List Word) : (c.setV r m x).kind = c.kind := rfl
@[simp] theorem Ctx.setV_team (c : Ctx) (r : Nat) (m : Word) (x : List Word) : (c.setV r m x).team = c.team := rfl
@[simp] theorem Ctx.setV_grpid (c : Ctx) (r : Nat) (m : Word) (x : List Word) : (c.setV r m x).grpid = c.grpid := rfl
@[simp] theorem Ctx.setV_teamid (c : Ctx) (r : Nat) (m : Word) (x : List Word) : (c.setV r m x).teamid = c.teamid := rfl
@[simp] theorem Ctx.setV_clusid (c : Ctx) (r : Nat) (m : Word) (x : List Word) : (c.setV r m x).clusid = c.clusid := rfl
@[simp] theorem Ctx.setV_ngrp (c : Ctx) (r : Nat) (m : Word) (x : List Word) : (c.setV r m x).ngrp = c.ngrp := rfl
@[simp] theorem Ctx.setV_loc (c : Ctx) (r : Nat) (m : Word) (x : List Word) : (c.setV r m x).loc = c.loc := rfl
@[simp] theorem Ctx.setV_acq (c : Ctx) (r : Nat) (m : Word) (x : List Word) : (c.setV r m x).acq = c.acq := rfl
@[simp] theorem Ctx.setV_v (c : Ctx) (r : Nat) (m : Word) (x : List Word) : (c.setV r m x).v = Cells.setMany 0 c.v (32 * r) (vecOf (fun i => if m.getLsbD i then laneAt x i else c.vreg r i)) := rfl
@[simp] theorem Ctx.setV_s (c : Ctx) (r : Nat) (m : Word) (x : List Word) : (c.setV r m x).s = c.s := rfl
@[simp] theorem Ctx.setV_p (c : Ctx) (r : Nat) (m : Word) (x : List Word) : (c.setV r m x).p = c.p := rfl
@[simp] theorem Ctx.setV_mode (c : Ctx) (r : Nat) (m : Word) (x : List Word) : (c.setV r m x).mode = c.mode := rfl
@[simp] theorem Ctx.setV_frags (c : Ctx) (r : Nat) (m : Word) (x : List Word) : (c.setV r m x).frags = c.frags := rfl
@[simp] theorem Ctx.setV_joins (c : Ctx) (r : Nat) (m : Word) (x : List Word) : (c.setV r m x).joins = c.joins := rfl
@[simp] theorem Ctx.setV_fsel (c : Ctx) (r : Nat) (m : Word) (x : List Word) : (c.setV r m x).fsel = c.fsel := rfl
@[simp] theorem Ctx.setV_clause (c : Ctx) (r : Nat) (m : Word) (x : List Word) : (c.setV r m x).clause = c.clause := rfl
@[simp] theorem Ctx.setV_ctr (c : Ctx) (r : Nat) (m : Word) (x : List Word) : (c.setV r m x).ctr = c.ctr := rfl
@[simp] theorem Ctx.setV_lastwct (c : Ctx) (r : Nat) (m : Word) (x : List Word) : (c.setV r m x).lastwct = c.lastwct := rfl
@[simp] theorem Ctx.setV_sample (c : Ctx) (r : Nat) (m : Word) (x : List Word) : (c.setV r m x).sample = c.sample := rfl
@[simp] theorem Ctx.setV_tcause (c : Ctx) (r : Nat) (m : Word) (x : List Word) : (c.setV r m x).tcause = c.tcause := rfl
@[simp] theorem Ctx.setV_epc (c : Ctx) (r : Nat) (m : Word) (x : List Word) : (c.setV r m x).epc = c.epc := rfl
@[simp] theorem Ctx.setV_tvec (c : Ctx) (r : Nat) (m : Word) (x : List Word) : (c.setV r m x).tvec = c.tvec := rfl
@[simp] theorem Ctx.setV_tval (c : Ctx) (r : Nat) (m : Word) (x : List Word) : (c.setV r m x).tval = c.tval := rfl
@[simp] theorem Ctx.setV_tlanes (c : Ctx) (r : Nat) (m : Word) (x : List Word) : (c.setV r m x).tlanes = c.tlanes := rfl
@[simp] theorem Ctx.setV_priv (c : Ctx) (r : Nat) (m : Word) (x : List Word) : (c.setV r m x).priv = c.priv := rfl
@[simp] theorem Ctx.setV_svec (c : Ctx) (r : Nat) (m : Word) (x : List Word) : (c.setV r m x).svec = c.svec := rfl
@[simp] theorem Ctx.setV_srsel (c : Ctx) (r : Nat) (m : Word) (x : List Word) : (c.setV r m x).srsel = c.srsel := rfl
@[simp] theorem Ctx.setV_dbgctl (c : Ctx) (r : Nat) (m : Word) (x : List Word) : (c.setV r m x).dbgctl = c.dbgctl := rfl
@[simp] theorem Ctx.setV_saved (c : Ctx) (r : Nat) (m : Word) (x : List Word) : (c.setV r m x).saved = c.saved := rfl
@[simp] theorem Ctx.setV_copyErrs (c : Ctx) (r : Nat) (m : Word) (x : List Word) : (c.setV r m x).copyErrs = c.copyErrs := rfl
@[simp] theorem Ctx.setV_owedTrap (c : Ctx) (r : Nat) (m : Word) (x : List Word) : (c.setV r m x).owedTrap = c.owedTrap := rfl
@[simp] theorem Ctx.setV_recipe (c : Ctx) (r : Nat) (m : Word) (x : List Word) : (c.setV r m x).recipe = c.recipe := rfl
@[simp] theorem Ctx.setV_abandonTaken (c : Ctx) (r : Nat) (m : Word) (x : List Word) : (c.setV r m x).abandonTaken = c.abandonTaken := rfl
@[simp] theorem Ctx.setV_halted (c : Ctx) (r : Nat) (m : Word) (x : List Word) : (c.setV r m x).halted = c.halted := rfl
@[simp] theorem Ctx.setV_ended (c : Ctx) (r : Nat) (m : Word) (x : List Word) : (c.setV r m x).ended = c.ended := rfl
@[simp] theorem Ctx.setV_regError (c : Ctx) (r : Nat) (m : Word) (x : List Word) : (c.setV r m x).regError = c.regError := rfl
@[simp] theorem Ctx.setV_stall (c : Ctx) (r : Nat) (m : Word) (x : List Word) : (c.setV r m x).stall = c.stall := rfl
@[simp] theorem Ctx.setV_failed (c : Ctx) (r : Nat) (m : Word) (x : List Word) : (c.setV r m x).failed = c.failed := rfl
@[simp] theorem Ctx.setV_resSeq (c : Ctx) (r : Nat) (m : Word) (x : List Word) : (c.setV r m x).resSeq = c.resSeq := rfl
@[simp] theorem Ctx.setV_ready (c : Ctx) (r : Nat) (m : Word) (x : List Word) : (c.setV r m x).ready = c.ready := rfl
@[simp] theorem Ctx.setV_lastIssue (c : Ctx) (r : Nat) (m : Word) (x : List Word) : (c.setV r m x).lastIssue = c.lastIssue := rfl
@[simp] theorem Ctx.setV_issueSeq (c : Ctx) (r : Nat) (m : Word) (x : List Word) : (c.setV r m x).issueSeq = c.issueSeq := rfl
@[simp] theorem Ctx.setV_whos (c : Ctx) (r : Nat) (m : Word) (x : List Word) : (c.setV r m x).whos = c.whos := rfl
@[simp] theorem Ctx.setV_yielded (c : Ctx) (r : Nat) (m : Word) (x : List Word) : (c.setV r m x).yielded = c.yielded := rfl
@[simp] theorem Ctx.setV_ckpts (c : Ctx) (r : Nat) (m : Word) (x : List Word) : (c.setV r m x).ckpts = c.ckpts := rfl
@[simp] theorem Ctx.setV_born (c : Ctx) (r : Nat) (m : Word) (x : List Word) : (c.setV r m x).born = c.born := rfl
@[simp] theorem Ctx.setV_mrp (c : Ctx) (r : Nat) (m : Word) (x : List Word) : (c.setV r m x).mrp = c.mrp := rfl
@[simp] theorem Ctx.setV_mcp (c : Ctx) (r : Nat) (m : Word) (x : List Word) : (c.setV r m x).mcp = c.mcp := rfl
@[simp] theorem Ctx.setV_mkp (c : Ctx) (r : Nat) (m : Word) (x : List Word) : (c.setV r m x).mkp = c.mkp := rfl
@[simp] theorem Ctx.setV_loadErr (c : Ctx) (r : Nat) (m : Word) (x : List Word) : (c.setV r m x).loadErr = c.loadErr := rfl
@[simp] theorem Ctx.setV_sig (c : Ctx) (r : Nat) (m : Word) (x : List Word) : (c.setV r m x).sig = c.sig := rfl

/-! ### `Ctx.setCounter` -/

@[simp] theorem Ctx.setCounter_uid (c : Ctx) (k n : Nat) : (c.setCounter k n).uid = c.uid := rfl
@[simp] theorem Ctx.setCounter_kind (c : Ctx) (k n : Nat) : (c.setCounter k n).kind = c.kind := rfl
@[simp] theorem Ctx.setCounter_team (c : Ctx) (k n : Nat) : (c.setCounter k n).team = c.team := rfl
@[simp] theorem Ctx.setCounter_grpid (c : Ctx) (k n : Nat) : (c.setCounter k n).grpid = c.grpid := rfl
@[simp] theorem Ctx.setCounter_teamid (c : Ctx) (k n : Nat) : (c.setCounter k n).teamid = c.teamid := rfl
@[simp] theorem Ctx.setCounter_clusid (c : Ctx) (k n : Nat) : (c.setCounter k n).clusid = c.clusid := rfl
@[simp] theorem Ctx.setCounter_ngrp (c : Ctx) (k n : Nat) : (c.setCounter k n).ngrp = c.ngrp := rfl
@[simp] theorem Ctx.setCounter_loc (c : Ctx) (k n : Nat) : (c.setCounter k n).loc = c.loc := rfl
@[simp] theorem Ctx.setCounter_acq (c : Ctx) (k n : Nat) : (c.setCounter k n).acq = c.acq := rfl
@[simp] theorem Ctx.setCounter_v (c : Ctx) (k n : Nat) : (c.setCounter k n).v = c.v := rfl
@[simp] theorem Ctx.setCounter_s (c : Ctx) (k n : Nat) : (c.setCounter k n).s = c.s := rfl
@[simp] theorem Ctx.setCounter_p (c : Ctx) (k n : Nat) : (c.setCounter k n).p = c.p := rfl
@[simp] theorem Ctx.setCounter_mode (c : Ctx) (k n : Nat) : (c.setCounter k n).mode = c.mode := rfl
@[simp] theorem Ctx.setCounter_frags (c : Ctx) (k n : Nat) : (c.setCounter k n).frags = c.frags := rfl
@[simp] theorem Ctx.setCounter_joins (c : Ctx) (k n : Nat) : (c.setCounter k n).joins = c.joins := rfl
@[simp] theorem Ctx.setCounter_fsel (c : Ctx) (k n : Nat) : (c.setCounter k n).fsel = c.fsel := rfl
@[simp] theorem Ctx.setCounter_clause (c : Ctx) (k n : Nat) : (c.setCounter k n).clause = c.clause := rfl
@[simp] theorem Ctx.setCounter_ctr (c : Ctx) (k n : Nat) : (c.setCounter k n).ctr = Cells.set 0 c.ctr k n := rfl
@[simp] theorem Ctx.setCounter_lastwct (c : Ctx) (k n : Nat) : (c.setCounter k n).lastwct = c.lastwct := rfl
@[simp] theorem Ctx.setCounter_sample (c : Ctx) (k n : Nat) : (c.setCounter k n).sample = c.sample := rfl
@[simp] theorem Ctx.setCounter_tcause (c : Ctx) (k n : Nat) : (c.setCounter k n).tcause = c.tcause := rfl
@[simp] theorem Ctx.setCounter_epc (c : Ctx) (k n : Nat) : (c.setCounter k n).epc = c.epc := rfl
@[simp] theorem Ctx.setCounter_tvec (c : Ctx) (k n : Nat) : (c.setCounter k n).tvec = c.tvec := rfl
@[simp] theorem Ctx.setCounter_tval (c : Ctx) (k n : Nat) : (c.setCounter k n).tval = c.tval := rfl
@[simp] theorem Ctx.setCounter_tlanes (c : Ctx) (k n : Nat) : (c.setCounter k n).tlanes = c.tlanes := rfl
@[simp] theorem Ctx.setCounter_priv (c : Ctx) (k n : Nat) : (c.setCounter k n).priv = c.priv := rfl
@[simp] theorem Ctx.setCounter_svec (c : Ctx) (k n : Nat) : (c.setCounter k n).svec = c.svec := rfl
@[simp] theorem Ctx.setCounter_srsel (c : Ctx) (k n : Nat) : (c.setCounter k n).srsel = c.srsel := rfl
@[simp] theorem Ctx.setCounter_dbgctl (c : Ctx) (k n : Nat) : (c.setCounter k n).dbgctl = c.dbgctl := rfl
@[simp] theorem Ctx.setCounter_saved (c : Ctx) (k n : Nat) : (c.setCounter k n).saved = c.saved := rfl
@[simp] theorem Ctx.setCounter_copyErrs (c : Ctx) (k n : Nat) : (c.setCounter k n).copyErrs = c.copyErrs := rfl
@[simp] theorem Ctx.setCounter_owedTrap (c : Ctx) (k n : Nat) : (c.setCounter k n).owedTrap = c.owedTrap := rfl
@[simp] theorem Ctx.setCounter_recipe (c : Ctx) (k n : Nat) : (c.setCounter k n).recipe = c.recipe := rfl
@[simp] theorem Ctx.setCounter_abandonTaken (c : Ctx) (k n : Nat) : (c.setCounter k n).abandonTaken = c.abandonTaken := rfl
@[simp] theorem Ctx.setCounter_halted (c : Ctx) (k n : Nat) : (c.setCounter k n).halted = c.halted := rfl
@[simp] theorem Ctx.setCounter_ended (c : Ctx) (k n : Nat) : (c.setCounter k n).ended = c.ended := rfl
@[simp] theorem Ctx.setCounter_regError (c : Ctx) (k n : Nat) : (c.setCounter k n).regError = c.regError := rfl
@[simp] theorem Ctx.setCounter_stall (c : Ctx) (k n : Nat) : (c.setCounter k n).stall = c.stall := rfl
@[simp] theorem Ctx.setCounter_failed (c : Ctx) (k n : Nat) : (c.setCounter k n).failed = c.failed := rfl
@[simp] theorem Ctx.setCounter_resSeq (c : Ctx) (k n : Nat) : (c.setCounter k n).resSeq = c.resSeq := rfl
@[simp] theorem Ctx.setCounter_ready (c : Ctx) (k n : Nat) : (c.setCounter k n).ready = c.ready := rfl
@[simp] theorem Ctx.setCounter_lastIssue (c : Ctx) (k n : Nat) : (c.setCounter k n).lastIssue = c.lastIssue := rfl
@[simp] theorem Ctx.setCounter_issueSeq (c : Ctx) (k n : Nat) : (c.setCounter k n).issueSeq = c.issueSeq := rfl
@[simp] theorem Ctx.setCounter_whos (c : Ctx) (k n : Nat) : (c.setCounter k n).whos = c.whos := rfl
@[simp] theorem Ctx.setCounter_yielded (c : Ctx) (k n : Nat) : (c.setCounter k n).yielded = c.yielded := rfl
@[simp] theorem Ctx.setCounter_ckpts (c : Ctx) (k n : Nat) : (c.setCounter k n).ckpts = c.ckpts := rfl
@[simp] theorem Ctx.setCounter_born (c : Ctx) (k n : Nat) : (c.setCounter k n).born = c.born := rfl
@[simp] theorem Ctx.setCounter_mrp (c : Ctx) (k n : Nat) : (c.setCounter k n).mrp = c.mrp := rfl
@[simp] theorem Ctx.setCounter_mcp (c : Ctx) (k n : Nat) : (c.setCounter k n).mcp = c.mcp := rfl
@[simp] theorem Ctx.setCounter_mkp (c : Ctx) (k n : Nat) : (c.setCounter k n).mkp = c.mkp := rfl
@[simp] theorem Ctx.setCounter_loadErr (c : Ctx) (k n : Nat) : (c.setCounter k n).loadErr = c.loadErr := rfl
@[simp] theorem Ctx.setCounter_sig (c : Ctx) (k n : Nat) : (c.setCounter k n).sig = c.sig := rfl

/-! ### `Ctx.stick` -/

@[simp] theorem Ctx.stick_uid (c : Ctx) (w : Word) : (c.stick w).uid = c.uid := rfl
@[simp] theorem Ctx.stick_kind (c : Ctx) (w : Word) : (c.stick w).kind = c.kind := rfl
@[simp] theorem Ctx.stick_team (c : Ctx) (w : Word) : (c.stick w).team = c.team := rfl
@[simp] theorem Ctx.stick_grpid (c : Ctx) (w : Word) : (c.stick w).grpid = c.grpid := rfl
@[simp] theorem Ctx.stick_teamid (c : Ctx) (w : Word) : (c.stick w).teamid = c.teamid := rfl
@[simp] theorem Ctx.stick_clusid (c : Ctx) (w : Word) : (c.stick w).clusid = c.clusid := rfl
@[simp] theorem Ctx.stick_ngrp (c : Ctx) (w : Word) : (c.stick w).ngrp = c.ngrp := rfl
@[simp] theorem Ctx.stick_loc (c : Ctx) (w : Word) : (c.stick w).loc = c.loc := rfl
@[simp] theorem Ctx.stick_acq (c : Ctx) (w : Word) : (c.stick w).acq = c.acq := rfl
@[simp] theorem Ctx.stick_v (c : Ctx) (w : Word) : (c.stick w).v = c.v := rfl
@[simp] theorem Ctx.stick_s (c : Ctx) (w : Word) : (c.stick w).s = c.s := rfl
@[simp] theorem Ctx.stick_p (c : Ctx) (w : Word) : (c.stick w).p = c.p := rfl
@[simp] theorem Ctx.stick_mode (c : Ctx) (w : Word) : (c.stick w).mode = c.mode ||| w := rfl
@[simp] theorem Ctx.stick_frags (c : Ctx) (w : Word) : (c.stick w).frags = c.frags := rfl
@[simp] theorem Ctx.stick_joins (c : Ctx) (w : Word) : (c.stick w).joins = c.joins := rfl
@[simp] theorem Ctx.stick_fsel (c : Ctx) (w : Word) : (c.stick w).fsel = c.fsel := rfl
@[simp] theorem Ctx.stick_clause (c : Ctx) (w : Word) : (c.stick w).clause = c.clause := rfl
@[simp] theorem Ctx.stick_ctr (c : Ctx) (w : Word) : (c.stick w).ctr = c.ctr := rfl
@[simp] theorem Ctx.stick_lastwct (c : Ctx) (w : Word) : (c.stick w).lastwct = c.lastwct := rfl
@[simp] theorem Ctx.stick_sample (c : Ctx) (w : Word) : (c.stick w).sample = c.sample := rfl
@[simp] theorem Ctx.stick_tcause (c : Ctx) (w : Word) : (c.stick w).tcause = c.tcause := rfl
@[simp] theorem Ctx.stick_epc (c : Ctx) (w : Word) : (c.stick w).epc = c.epc := rfl
@[simp] theorem Ctx.stick_tvec (c : Ctx) (w : Word) : (c.stick w).tvec = c.tvec := rfl
@[simp] theorem Ctx.stick_tval (c : Ctx) (w : Word) : (c.stick w).tval = c.tval := rfl
@[simp] theorem Ctx.stick_tlanes (c : Ctx) (w : Word) : (c.stick w).tlanes = c.tlanes := rfl
@[simp] theorem Ctx.stick_priv (c : Ctx) (w : Word) : (c.stick w).priv = c.priv := rfl
@[simp] theorem Ctx.stick_svec (c : Ctx) (w : Word) : (c.stick w).svec = c.svec := rfl
@[simp] theorem Ctx.stick_srsel (c : Ctx) (w : Word) : (c.stick w).srsel = c.srsel := rfl
@[simp] theorem Ctx.stick_dbgctl (c : Ctx) (w : Word) : (c.stick w).dbgctl = c.dbgctl := rfl
@[simp] theorem Ctx.stick_saved (c : Ctx) (w : Word) : (c.stick w).saved = c.saved := rfl
@[simp] theorem Ctx.stick_copyErrs (c : Ctx) (w : Word) : (c.stick w).copyErrs = c.copyErrs := rfl
@[simp] theorem Ctx.stick_owedTrap (c : Ctx) (w : Word) : (c.stick w).owedTrap = c.owedTrap := rfl
@[simp] theorem Ctx.stick_recipe (c : Ctx) (w : Word) : (c.stick w).recipe = c.recipe := rfl
@[simp] theorem Ctx.stick_abandonTaken (c : Ctx) (w : Word) : (c.stick w).abandonTaken = c.abandonTaken := rfl
@[simp] theorem Ctx.stick_halted (c : Ctx) (w : Word) : (c.stick w).halted = c.halted := rfl
@[simp] theorem Ctx.stick_ended (c : Ctx) (w : Word) : (c.stick w).ended = c.ended := rfl
@[simp] theorem Ctx.stick_regError (c : Ctx) (w : Word) : (c.stick w).regError = c.regError := rfl
@[simp] theorem Ctx.stick_stall (c : Ctx) (w : Word) : (c.stick w).stall = c.stall := rfl
@[simp] theorem Ctx.stick_failed (c : Ctx) (w : Word) : (c.stick w).failed = c.failed := rfl
@[simp] theorem Ctx.stick_resSeq (c : Ctx) (w : Word) : (c.stick w).resSeq = c.resSeq := rfl
@[simp] theorem Ctx.stick_ready (c : Ctx) (w : Word) : (c.stick w).ready = c.ready := rfl
@[simp] theorem Ctx.stick_lastIssue (c : Ctx) (w : Word) : (c.stick w).lastIssue = c.lastIssue := rfl
@[simp] theorem Ctx.stick_issueSeq (c : Ctx) (w : Word) : (c.stick w).issueSeq = c.issueSeq := rfl
@[simp] theorem Ctx.stick_whos (c : Ctx) (w : Word) : (c.stick w).whos = c.whos := rfl
@[simp] theorem Ctx.stick_yielded (c : Ctx) (w : Word) : (c.stick w).yielded = c.yielded := rfl
@[simp] theorem Ctx.stick_ckpts (c : Ctx) (w : Word) : (c.stick w).ckpts = c.ckpts := rfl
@[simp] theorem Ctx.stick_born (c : Ctx) (w : Word) : (c.stick w).born = c.born := rfl
@[simp] theorem Ctx.stick_mrp (c : Ctx) (w : Word) : (c.stick w).mrp = c.mrp := rfl
@[simp] theorem Ctx.stick_mcp (c : Ctx) (w : Word) : (c.stick w).mcp = c.mcp := rfl
@[simp] theorem Ctx.stick_mkp (c : Ctx) (w : Word) : (c.stick w).mkp = c.mkp := rfl
@[simp] theorem Ctx.stick_loadErr (c : Ctx) (w : Word) : (c.stick w).loadErr = c.loadErr := rfl
@[simp] theorem Ctx.stick_sig (c : Ctx) (w : Word) : (c.stick w).sig = c.sig := rfl

/-! ### Updates that depend on a test -/

/-- A write of a predicate register changes those registers only. -/
theorem Ctx.setP_eq (c : Ctx) (n : Nat) (m x : Word) : ∃ p, c.setP n m x = { c with p } := by
  unfold Ctx.setP
  split
  · exact ⟨c.p, rfl⟩
  · exact ⟨_, rfl⟩

/-- The sample of `ptime` is all that reading operands changes. -/
theorem Ctx.touch_eq (c : Ctx) (time : Nat) (h : Shape) (n : Enc) : ∃ sample, c.touch time h n = { c with sample } := by
  simp only [Ctx.touch]
  by_cases h1 : ((sources h n).any fun f => f.2.1.reads && f.2.2 == .special .ptime) = true
  · exact ⟨_, by rw [if_pos h1]⟩
  · by_cases h2 : ((((sources h n).any fun f => f.2.1.reads && f.2.2 == .special .ptimeh) && c.sample.isNone)) = true
    · exact ⟨_, by rw [if_neg h1, if_pos h2]⟩
    · exact ⟨c.sample, by rw [if_neg h1, if_neg h2]⟩

@[simp] theorem Ctx.setP_uid (c : Ctx) (n : Nat) (m x : Word) : (c.setP n m x).uid = c.uid := by
  obtain ⟨y, e⟩ := c.setP_eq n m x; rw [e]
@[simp] theorem Ctx.setP_kind (c : Ctx) (n : Nat) (m x : Word) : (c.setP n m x).kind = c.kind := by
  obtain ⟨y, e⟩ := c.setP_eq n m x; rw [e]
@[simp] theorem Ctx.setP_team (c : Ctx) (n : Nat) (m x : Word) : (c.setP n m x).team = c.team := by
  obtain ⟨y, e⟩ := c.setP_eq n m x; rw [e]
@[simp] theorem Ctx.setP_grpid (c : Ctx) (n : Nat) (m x : Word) : (c.setP n m x).grpid = c.grpid := by
  obtain ⟨y, e⟩ := c.setP_eq n m x; rw [e]
@[simp] theorem Ctx.setP_teamid (c : Ctx) (n : Nat) (m x : Word) : (c.setP n m x).teamid = c.teamid := by
  obtain ⟨y, e⟩ := c.setP_eq n m x; rw [e]
@[simp] theorem Ctx.setP_clusid (c : Ctx) (n : Nat) (m x : Word) : (c.setP n m x).clusid = c.clusid := by
  obtain ⟨y, e⟩ := c.setP_eq n m x; rw [e]
@[simp] theorem Ctx.setP_ngrp (c : Ctx) (n : Nat) (m x : Word) : (c.setP n m x).ngrp = c.ngrp := by
  obtain ⟨y, e⟩ := c.setP_eq n m x; rw [e]
@[simp] theorem Ctx.setP_loc (c : Ctx) (n : Nat) (m x : Word) : (c.setP n m x).loc = c.loc := by
  obtain ⟨y, e⟩ := c.setP_eq n m x; rw [e]
@[simp] theorem Ctx.setP_acq (c : Ctx) (n : Nat) (m x : Word) : (c.setP n m x).acq = c.acq := by
  obtain ⟨y, e⟩ := c.setP_eq n m x; rw [e]
@[simp] theorem Ctx.setP_v (c : Ctx) (n : Nat) (m x : Word) : (c.setP n m x).v = c.v := by
  obtain ⟨y, e⟩ := c.setP_eq n m x; rw [e]
@[simp] theorem Ctx.setP_s (c : Ctx) (n : Nat) (m x : Word) : (c.setP n m x).s = c.s := by
  obtain ⟨y, e⟩ := c.setP_eq n m x; rw [e]
@[simp] theorem Ctx.setP_mode (c : Ctx) (n : Nat) (m x : Word) : (c.setP n m x).mode = c.mode := by
  obtain ⟨y, e⟩ := c.setP_eq n m x; rw [e]
@[simp] theorem Ctx.setP_frags (c : Ctx) (n : Nat) (m x : Word) : (c.setP n m x).frags = c.frags := by
  obtain ⟨y, e⟩ := c.setP_eq n m x; rw [e]
@[simp] theorem Ctx.setP_joins (c : Ctx) (n : Nat) (m x : Word) : (c.setP n m x).joins = c.joins := by
  obtain ⟨y, e⟩ := c.setP_eq n m x; rw [e]
@[simp] theorem Ctx.setP_fsel (c : Ctx) (n : Nat) (m x : Word) : (c.setP n m x).fsel = c.fsel := by
  obtain ⟨y, e⟩ := c.setP_eq n m x; rw [e]
@[simp] theorem Ctx.setP_clause (c : Ctx) (n : Nat) (m x : Word) : (c.setP n m x).clause = c.clause := by
  obtain ⟨y, e⟩ := c.setP_eq n m x; rw [e]
@[simp] theorem Ctx.setP_ctr (c : Ctx) (n : Nat) (m x : Word) : (c.setP n m x).ctr = c.ctr := by
  obtain ⟨y, e⟩ := c.setP_eq n m x; rw [e]
@[simp] theorem Ctx.setP_lastwct (c : Ctx) (n : Nat) (m x : Word) : (c.setP n m x).lastwct = c.lastwct := by
  obtain ⟨y, e⟩ := c.setP_eq n m x; rw [e]
@[simp] theorem Ctx.setP_sample (c : Ctx) (n : Nat) (m x : Word) : (c.setP n m x).sample = c.sample := by
  obtain ⟨y, e⟩ := c.setP_eq n m x; rw [e]
@[simp] theorem Ctx.setP_tcause (c : Ctx) (n : Nat) (m x : Word) : (c.setP n m x).tcause = c.tcause := by
  obtain ⟨y, e⟩ := c.setP_eq n m x; rw [e]
@[simp] theorem Ctx.setP_epc (c : Ctx) (n : Nat) (m x : Word) : (c.setP n m x).epc = c.epc := by
  obtain ⟨y, e⟩ := c.setP_eq n m x; rw [e]
@[simp] theorem Ctx.setP_tvec (c : Ctx) (n : Nat) (m x : Word) : (c.setP n m x).tvec = c.tvec := by
  obtain ⟨y, e⟩ := c.setP_eq n m x; rw [e]
@[simp] theorem Ctx.setP_tval (c : Ctx) (n : Nat) (m x : Word) : (c.setP n m x).tval = c.tval := by
  obtain ⟨y, e⟩ := c.setP_eq n m x; rw [e]
@[simp] theorem Ctx.setP_tlanes (c : Ctx) (n : Nat) (m x : Word) : (c.setP n m x).tlanes = c.tlanes := by
  obtain ⟨y, e⟩ := c.setP_eq n m x; rw [e]
@[simp] theorem Ctx.setP_priv (c : Ctx) (n : Nat) (m x : Word) : (c.setP n m x).priv = c.priv := by
  obtain ⟨y, e⟩ := c.setP_eq n m x; rw [e]
@[simp] theorem Ctx.setP_svec (c : Ctx) (n : Nat) (m x : Word) : (c.setP n m x).svec = c.svec := by
  obtain ⟨y, e⟩ := c.setP_eq n m x; rw [e]
@[simp] theorem Ctx.setP_srsel (c : Ctx) (n : Nat) (m x : Word) : (c.setP n m x).srsel = c.srsel := by
  obtain ⟨y, e⟩ := c.setP_eq n m x; rw [e]
@[simp] theorem Ctx.setP_dbgctl (c : Ctx) (n : Nat) (m x : Word) : (c.setP n m x).dbgctl = c.dbgctl := by
  obtain ⟨y, e⟩ := c.setP_eq n m x; rw [e]
@[simp] theorem Ctx.setP_saved (c : Ctx) (n : Nat) (m x : Word) : (c.setP n m x).saved = c.saved := by
  obtain ⟨y, e⟩ := c.setP_eq n m x; rw [e]
@[simp] theorem Ctx.setP_copyErrs (c : Ctx) (n : Nat) (m x : Word) : (c.setP n m x).copyErrs = c.copyErrs := by
  obtain ⟨y, e⟩ := c.setP_eq n m x; rw [e]
@[simp] theorem Ctx.setP_owedTrap (c : Ctx) (n : Nat) (m x : Word) : (c.setP n m x).owedTrap = c.owedTrap := by
  obtain ⟨y, e⟩ := c.setP_eq n m x; rw [e]
@[simp] theorem Ctx.setP_recipe (c : Ctx) (n : Nat) (m x : Word) : (c.setP n m x).recipe = c.recipe := by
  obtain ⟨y, e⟩ := c.setP_eq n m x; rw [e]
@[simp] theorem Ctx.setP_abandonTaken (c : Ctx) (n : Nat) (m x : Word) : (c.setP n m x).abandonTaken = c.abandonTaken := by
  obtain ⟨y, e⟩ := c.setP_eq n m x; rw [e]
@[simp] theorem Ctx.setP_halted (c : Ctx) (n : Nat) (m x : Word) : (c.setP n m x).halted = c.halted := by
  obtain ⟨y, e⟩ := c.setP_eq n m x; rw [e]
@[simp] theorem Ctx.setP_ended (c : Ctx) (n : Nat) (m x : Word) : (c.setP n m x).ended = c.ended := by
  obtain ⟨y, e⟩ := c.setP_eq n m x; rw [e]
@[simp] theorem Ctx.setP_regError (c : Ctx) (n : Nat) (m x : Word) : (c.setP n m x).regError = c.regError := by
  obtain ⟨y, e⟩ := c.setP_eq n m x; rw [e]
@[simp] theorem Ctx.setP_stall (c : Ctx) (n : Nat) (m x : Word) : (c.setP n m x).stall = c.stall := by
  obtain ⟨y, e⟩ := c.setP_eq n m x; rw [e]
@[simp] theorem Ctx.setP_failed (c : Ctx) (n : Nat) (m x : Word) : (c.setP n m x).failed = c.failed := by
  obtain ⟨y, e⟩ := c.setP_eq n m x; rw [e]
@[simp] theorem Ctx.setP_resSeq (c : Ctx) (n : Nat) (m x : Word) : (c.setP n m x).resSeq = c.resSeq := by
  obtain ⟨y, e⟩ := c.setP_eq n m x; rw [e]
@[simp] theorem Ctx.setP_ready (c : Ctx) (n : Nat) (m x : Word) : (c.setP n m x).ready = c.ready := by
  obtain ⟨y, e⟩ := c.setP_eq n m x; rw [e]
@[simp] theorem Ctx.setP_lastIssue (c : Ctx) (n : Nat) (m x : Word) : (c.setP n m x).lastIssue = c.lastIssue := by
  obtain ⟨y, e⟩ := c.setP_eq n m x; rw [e]
@[simp] theorem Ctx.setP_issueSeq (c : Ctx) (n : Nat) (m x : Word) : (c.setP n m x).issueSeq = c.issueSeq := by
  obtain ⟨y, e⟩ := c.setP_eq n m x; rw [e]
@[simp] theorem Ctx.setP_whos (c : Ctx) (n : Nat) (m x : Word) : (c.setP n m x).whos = c.whos := by
  obtain ⟨y, e⟩ := c.setP_eq n m x; rw [e]
@[simp] theorem Ctx.setP_yielded (c : Ctx) (n : Nat) (m x : Word) : (c.setP n m x).yielded = c.yielded := by
  obtain ⟨y, e⟩ := c.setP_eq n m x; rw [e]
@[simp] theorem Ctx.setP_ckpts (c : Ctx) (n : Nat) (m x : Word) : (c.setP n m x).ckpts = c.ckpts := by
  obtain ⟨y, e⟩ := c.setP_eq n m x; rw [e]
@[simp] theorem Ctx.setP_born (c : Ctx) (n : Nat) (m x : Word) : (c.setP n m x).born = c.born := by
  obtain ⟨y, e⟩ := c.setP_eq n m x; rw [e]
@[simp] theorem Ctx.setP_mrp (c : Ctx) (n : Nat) (m x : Word) : (c.setP n m x).mrp = c.mrp := by
  obtain ⟨y, e⟩ := c.setP_eq n m x; rw [e]
@[simp] theorem Ctx.setP_mcp (c : Ctx) (n : Nat) (m x : Word) : (c.setP n m x).mcp = c.mcp := by
  obtain ⟨y, e⟩ := c.setP_eq n m x; rw [e]
@[simp] theorem Ctx.setP_mkp (c : Ctx) (n : Nat) (m x : Word) : (c.setP n m x).mkp = c.mkp := by
  obtain ⟨y, e⟩ := c.setP_eq n m x; rw [e]
@[simp] theorem Ctx.setP_loadErr (c : Ctx) (n : Nat) (m x : Word) : (c.setP n m x).loadErr = c.loadErr := by
  obtain ⟨y, e⟩ := c.setP_eq n m x; rw [e]
@[simp] theorem Ctx.setP_sig (c : Ctx) (n : Nat) (m x : Word) : (c.setP n m x).sig = c.sig := by
  obtain ⟨y, e⟩ := c.setP_eq n m x; rw [e]

@[simp] theorem Ctx.touch_uid (c : Ctx) (time : Nat) (h : Shape) (n : Enc) : (c.touch time h n).uid = c.uid := by
  obtain ⟨y, e⟩ := c.touch_eq time h n; rw [e]
@[simp] theorem Ctx.touch_kind (c : Ctx) (time : Nat) (h : Shape) (n : Enc) : (c.touch time h n).kind = c.kind := by
  obtain ⟨y, e⟩ := c.touch_eq time h n; rw [e]
@[simp] theorem Ctx.touch_team (c : Ctx) (time : Nat) (h : Shape) (n : Enc) : (c.touch time h n).team = c.team := by
  obtain ⟨y, e⟩ := c.touch_eq time h n; rw [e]
@[simp] theorem Ctx.touch_grpid (c : Ctx) (time : Nat) (h : Shape) (n : Enc) : (c.touch time h n).grpid = c.grpid := by
  obtain ⟨y, e⟩ := c.touch_eq time h n; rw [e]
@[simp] theorem Ctx.touch_teamid (c : Ctx) (time : Nat) (h : Shape) (n : Enc) : (c.touch time h n).teamid = c.teamid := by
  obtain ⟨y, e⟩ := c.touch_eq time h n; rw [e]
@[simp] theorem Ctx.touch_clusid (c : Ctx) (time : Nat) (h : Shape) (n : Enc) : (c.touch time h n).clusid = c.clusid := by
  obtain ⟨y, e⟩ := c.touch_eq time h n; rw [e]
@[simp] theorem Ctx.touch_ngrp (c : Ctx) (time : Nat) (h : Shape) (n : Enc) : (c.touch time h n).ngrp = c.ngrp := by
  obtain ⟨y, e⟩ := c.touch_eq time h n; rw [e]
@[simp] theorem Ctx.touch_loc (c : Ctx) (time : Nat) (h : Shape) (n : Enc) : (c.touch time h n).loc = c.loc := by
  obtain ⟨y, e⟩ := c.touch_eq time h n; rw [e]
@[simp] theorem Ctx.touch_acq (c : Ctx) (time : Nat) (h : Shape) (n : Enc) : (c.touch time h n).acq = c.acq := by
  obtain ⟨y, e⟩ := c.touch_eq time h n; rw [e]
@[simp] theorem Ctx.touch_v (c : Ctx) (time : Nat) (h : Shape) (n : Enc) : (c.touch time h n).v = c.v := by
  obtain ⟨y, e⟩ := c.touch_eq time h n; rw [e]
@[simp] theorem Ctx.touch_s (c : Ctx) (time : Nat) (h : Shape) (n : Enc) : (c.touch time h n).s = c.s := by
  obtain ⟨y, e⟩ := c.touch_eq time h n; rw [e]
@[simp] theorem Ctx.touch_p (c : Ctx) (time : Nat) (h : Shape) (n : Enc) : (c.touch time h n).p = c.p := by
  obtain ⟨y, e⟩ := c.touch_eq time h n; rw [e]
@[simp] theorem Ctx.touch_mode (c : Ctx) (time : Nat) (h : Shape) (n : Enc) : (c.touch time h n).mode = c.mode := by
  obtain ⟨y, e⟩ := c.touch_eq time h n; rw [e]
@[simp] theorem Ctx.touch_frags (c : Ctx) (time : Nat) (h : Shape) (n : Enc) : (c.touch time h n).frags = c.frags := by
  obtain ⟨y, e⟩ := c.touch_eq time h n; rw [e]
@[simp] theorem Ctx.touch_joins (c : Ctx) (time : Nat) (h : Shape) (n : Enc) : (c.touch time h n).joins = c.joins := by
  obtain ⟨y, e⟩ := c.touch_eq time h n; rw [e]
@[simp] theorem Ctx.touch_fsel (c : Ctx) (time : Nat) (h : Shape) (n : Enc) : (c.touch time h n).fsel = c.fsel := by
  obtain ⟨y, e⟩ := c.touch_eq time h n; rw [e]
@[simp] theorem Ctx.touch_clause (c : Ctx) (time : Nat) (h : Shape) (n : Enc) : (c.touch time h n).clause = c.clause := by
  obtain ⟨y, e⟩ := c.touch_eq time h n; rw [e]
@[simp] theorem Ctx.touch_ctr (c : Ctx) (time : Nat) (h : Shape) (n : Enc) : (c.touch time h n).ctr = c.ctr := by
  obtain ⟨y, e⟩ := c.touch_eq time h n; rw [e]
@[simp] theorem Ctx.touch_lastwct (c : Ctx) (time : Nat) (h : Shape) (n : Enc) : (c.touch time h n).lastwct = c.lastwct := by
  obtain ⟨y, e⟩ := c.touch_eq time h n; rw [e]
@[simp] theorem Ctx.touch_tcause (c : Ctx) (time : Nat) (h : Shape) (n : Enc) : (c.touch time h n).tcause = c.tcause := by
  obtain ⟨y, e⟩ := c.touch_eq time h n; rw [e]
@[simp] theorem Ctx.touch_epc (c : Ctx) (time : Nat) (h : Shape) (n : Enc) : (c.touch time h n).epc = c.epc := by
  obtain ⟨y, e⟩ := c.touch_eq time h n; rw [e]
@[simp] theorem Ctx.touch_tvec (c : Ctx) (time : Nat) (h : Shape) (n : Enc) : (c.touch time h n).tvec = c.tvec := by
  obtain ⟨y, e⟩ := c.touch_eq time h n; rw [e]
@[simp] theorem Ctx.touch_tval (c : Ctx) (time : Nat) (h : Shape) (n : Enc) : (c.touch time h n).tval = c.tval := by
  obtain ⟨y, e⟩ := c.touch_eq time h n; rw [e]
@[simp] theorem Ctx.touch_tlanes (c : Ctx) (time : Nat) (h : Shape) (n : Enc) : (c.touch time h n).tlanes = c.tlanes := by
  obtain ⟨y, e⟩ := c.touch_eq time h n; rw [e]
@[simp] theorem Ctx.touch_priv (c : Ctx) (time : Nat) (h : Shape) (n : Enc) : (c.touch time h n).priv = c.priv := by
  obtain ⟨y, e⟩ := c.touch_eq time h n; rw [e]
@[simp] theorem Ctx.touch_svec (c : Ctx) (time : Nat) (h : Shape) (n : Enc) : (c.touch time h n).svec = c.svec := by
  obtain ⟨y, e⟩ := c.touch_eq time h n; rw [e]
@[simp] theorem Ctx.touch_srsel (c : Ctx) (time : Nat) (h : Shape) (n : Enc) : (c.touch time h n).srsel = c.srsel := by
  obtain ⟨y, e⟩ := c.touch_eq time h n; rw [e]
@[simp] theorem Ctx.touch_dbgctl (c : Ctx) (time : Nat) (h : Shape) (n : Enc) : (c.touch time h n).dbgctl = c.dbgctl := by
  obtain ⟨y, e⟩ := c.touch_eq time h n; rw [e]
@[simp] theorem Ctx.touch_saved (c : Ctx) (time : Nat) (h : Shape) (n : Enc) : (c.touch time h n).saved = c.saved := by
  obtain ⟨y, e⟩ := c.touch_eq time h n; rw [e]
@[simp] theorem Ctx.touch_copyErrs (c : Ctx) (time : Nat) (h : Shape) (n : Enc) : (c.touch time h n).copyErrs = c.copyErrs := by
  obtain ⟨y, e⟩ := c.touch_eq time h n; rw [e]
@[simp] theorem Ctx.touch_owedTrap (c : Ctx) (time : Nat) (h : Shape) (n : Enc) : (c.touch time h n).owedTrap = c.owedTrap := by
  obtain ⟨y, e⟩ := c.touch_eq time h n; rw [e]
@[simp] theorem Ctx.touch_recipe (c : Ctx) (time : Nat) (h : Shape) (n : Enc) : (c.touch time h n).recipe = c.recipe := by
  obtain ⟨y, e⟩ := c.touch_eq time h n; rw [e]
@[simp] theorem Ctx.touch_abandonTaken (c : Ctx) (time : Nat) (h : Shape) (n : Enc) : (c.touch time h n).abandonTaken = c.abandonTaken := by
  obtain ⟨y, e⟩ := c.touch_eq time h n; rw [e]
@[simp] theorem Ctx.touch_halted (c : Ctx) (time : Nat) (h : Shape) (n : Enc) : (c.touch time h n).halted = c.halted := by
  obtain ⟨y, e⟩ := c.touch_eq time h n; rw [e]
@[simp] theorem Ctx.touch_ended (c : Ctx) (time : Nat) (h : Shape) (n : Enc) : (c.touch time h n).ended = c.ended := by
  obtain ⟨y, e⟩ := c.touch_eq time h n; rw [e]
@[simp] theorem Ctx.touch_regError (c : Ctx) (time : Nat) (h : Shape) (n : Enc) : (c.touch time h n).regError = c.regError := by
  obtain ⟨y, e⟩ := c.touch_eq time h n; rw [e]
@[simp] theorem Ctx.touch_stall (c : Ctx) (time : Nat) (h : Shape) (n : Enc) : (c.touch time h n).stall = c.stall := by
  obtain ⟨y, e⟩ := c.touch_eq time h n; rw [e]
@[simp] theorem Ctx.touch_failed (c : Ctx) (time : Nat) (h : Shape) (n : Enc) : (c.touch time h n).failed = c.failed := by
  obtain ⟨y, e⟩ := c.touch_eq time h n; rw [e]
@[simp] theorem Ctx.touch_resSeq (c : Ctx) (time : Nat) (h : Shape) (n : Enc) : (c.touch time h n).resSeq = c.resSeq := by
  obtain ⟨y, e⟩ := c.touch_eq time h n; rw [e]
@[simp] theorem Ctx.touch_ready (c : Ctx) (time : Nat) (h : Shape) (n : Enc) : (c.touch time h n).ready = c.ready := by
  obtain ⟨y, e⟩ := c.touch_eq time h n; rw [e]
@[simp] theorem Ctx.touch_lastIssue (c : Ctx) (time : Nat) (h : Shape) (n : Enc) : (c.touch time h n).lastIssue = c.lastIssue := by
  obtain ⟨y, e⟩ := c.touch_eq time h n; rw [e]
@[simp] theorem Ctx.touch_issueSeq (c : Ctx) (time : Nat) (h : Shape) (n : Enc) : (c.touch time h n).issueSeq = c.issueSeq := by
  obtain ⟨y, e⟩ := c.touch_eq time h n; rw [e]
@[simp] theorem Ctx.touch_whos (c : Ctx) (time : Nat) (h : Shape) (n : Enc) : (c.touch time h n).whos = c.whos := by
  obtain ⟨y, e⟩ := c.touch_eq time h n; rw [e]
@[simp] theorem Ctx.touch_yielded (c : Ctx) (time : Nat) (h : Shape) (n : Enc) : (c.touch time h n).yielded = c.yielded := by
  obtain ⟨y, e⟩ := c.touch_eq time h n; rw [e]
@[simp] theorem Ctx.touch_ckpts (c : Ctx) (time : Nat) (h : Shape) (n : Enc) : (c.touch time h n).ckpts = c.ckpts := by
  obtain ⟨y, e⟩ := c.touch_eq time h n; rw [e]
@[simp] theorem Ctx.touch_born (c : Ctx) (time : Nat) (h : Shape) (n : Enc) : (c.touch time h n).born = c.born := by
  obtain ⟨y, e⟩ := c.touch_eq time h n; rw [e]
@[simp] theorem Ctx.touch_mrp (c : Ctx) (time : Nat) (h : Shape) (n : Enc) : (c.touch time h n).mrp = c.mrp := by
  obtain ⟨y, e⟩ := c.touch_eq time h n; rw [e]
@[simp] theorem Ctx.touch_mcp (c : Ctx) (time : Nat) (h : Shape) (n : Enc) : (c.touch time h n).mcp = c.mcp := by
  obtain ⟨y, e⟩ := c.touch_eq time h n; rw [e]
@[simp] theorem Ctx.touch_mkp (c : Ctx) (time : Nat) (h : Shape) (n : Enc) : (c.touch time h n).mkp = c.mkp := by
  obtain ⟨y, e⟩ := c.touch_eq time h n; rw [e]
@[simp] theorem Ctx.touch_loadErr (c : Ctx) (time : Nat) (h : Shape) (n : Enc) : (c.touch time h n).loadErr = c.loadErr := by
  obtain ⟨y, e⟩ := c.touch_eq time h n; rw [e]
@[simp] theorem Ctx.touch_sig (c : Ctx) (time : Nat) (h : Shape) (n : Enc) : (c.touch time h n).sig = c.sig := by
  obtain ⟨y, e⟩ := c.touch_eq time h n; rw [e]

end Sys2Proof.Machine
end

