-- ==== Sys2Proof/Laws/Ops.lean ====
section
/-! SUPPORT. What each shared operation can do: issue, clause ends and parking, results, and taking a trap. -/

namespace Sys2Proof.Machine

/-! ### Issue (R62) -/

@[simp] theorem Out.onNext_next (f : State → State) (t : State) : Out.onNext f (.next t) = .next (f t) := rfl

/-- An instruction that has issued keeps its sample. -/
theorem State.keepSample_issued (s t : State) (hs : t.cur.stall = none) (hi : t.cur.inh = s.cur.inh) :
    s.keepSample t = t := by
  simp [State.keepSample, hs, hi]

/-- Whatever the outcome, nothing but the sample of the issuing context differs. -/
theorem State.keepSample_eq (s t : State) : ∃ y, s.keepSample t = { t with cur := { t.cur with sample := y } } := by
  unfold State.keepSample
  split
  · exact ⟨s.cur.sample, rfl⟩
  · exact ⟨t.cur.sample, rfl⟩

/-- Operands that pass the checks of orders 2 and 3: the meaning runs on the state with its sample taken, and the sample
stays where it issues. -/
theorem issueOut_pass (i : Instr) (s : State) (k : State → Out) (n : Enc) (hn : i.enc = some n)
    (h : s.cur.checkOperands i.shape n = none) :
    issueOut i s k = (k (s.upd (fun c => c.touch s.time i.shape n))).onNext s.keepSample := by
  simp only [issueOut, hn, h]

theorem issueOut_run (i : Instr) (s t : State) (k : State → Out) (n : Enc) (hn : i.enc = some n)
    (h : s.cur.checkOperands i.shape n = none) (hk : k (s.upd (fun c => c.touch s.time i.shape n)) = .next t)
    (hs : t.cur.stall = none) (hi : t.cur.inh = s.cur.inh) : issueOut i s k = .next t := by
  rw [issueOut_pass i s k n hn h, hk, Out.onNext_next, s.keepSample_issued t hs hi]

/-- Operands that fail: their trap. -/
theorem issueOut_trap (i : Instr) (s : State) (k : State → Out) (n : Enc) (t : Trap) (hn : i.enc = some n)
    (h : s.cur.checkOperands i.shape n = some t) : issueOut i s k = .next (s.raise t) := by
  simp only [issueOut, hn, h]

theorem issue_run (i : Instr) (s : State) (k : State → State) (n : Enc) (hn : i.enc = some n)
    (h : s.cur.checkOperands i.shape n = none) (hs : (k (s.upd (fun c => c.touch s.time i.shape n))).cur.stall = none)
    (hi : (k (s.upd (fun c => c.touch s.time i.shape n))).cur.inh = s.cur.inh) :
    issue i s k = .next (k (s.upd (fun c => c.touch s.time i.shape n))) :=
  issueOut_run i s _ _ n hn h rfl hs hi

theorem issue_trap (i : Instr) (s : State) (k : State → State) (n : Enc) (t : Trap) (hn : i.enc = some n)
    (h : s.cur.checkOperands i.shape n = some t) : issue i s k = .next (s.raise t) :=
  issueOut_trap i s _ n t hn h

/-- Whatever `issue` answers is a next state. -/
theorem issue_next (i : Instr) (s : State) (k : State → State) : ∃ t, issue i s k = .next t := by
  unfold issue issueOut
  split
  · exact ⟨_, rfl⟩
  · split <;> exact ⟨_, rfl⟩

/-! ### Clause ends (R24, R40) -/

theorem Ctx.formJoined_eq (c : Ctx) (j : Nat) (r : Join) :
    ∃ frags joins, (c.formJoined j r).1 = { c with frags, joins } := by
  unfold Ctx.formJoined
  split
  · exact ⟨c.frags, c.joins, rfl⟩
  · exact ⟨_, _, rfl⟩

/-- Parking changes the split table only. -/
theorem Ctx.park_eq (fuel : Nat) : ∀ (c : Ctx) (k : Nat), ∃ frags joins, c.park fuel k = { c with frags, joins } := by
  induction fuel with
  | zero => intro c k; exact ⟨c.frags, c.joins, rfl⟩
  | succ fuel ih =>
    intro c k
    unfold Ctx.park
    split
    · exact ⟨c.frags, c.joins, rfl⟩
    · split
      · exact ⟨c.frags, c.joins, rfl⟩
      · split
        · exact ⟨c.frags, c.joins, rfl⟩
        · split
          · exact ⟨c.frags, c.joins, rfl⟩
          · simp only
            split
            · split
              · rename_i c' k' he
                obtain ⟨fr, jo, e⟩ := Ctx.formJoined_eq _ _ _
                rw [he] at e
                obtain ⟨fr', jo', e'⟩ := ih c' k'
                exact ⟨fr', jo', by rw [e']; simp only at e; rw [e]⟩
              · rename_i c' he
                obtain ⟨fr, jo, e⟩ := Ctx.formJoined_eq _ _ _
                rw [he] at e
                exact ⟨fr, jo, by simp only at e; rw [e]⟩
            · exact ⟨_, _, rfl⟩

/-- The end of a clause: the split table, the clause, a recipe's end and the note of YIELD change. -/
theorem Ctx.closeClause_eq (c : Ctx) (pc : Word64) : ∃ frags joins recipe,
    c.closeClause pc = { c with frags, joins, recipe, yielded := c.clause.yieldHint, clause := {}, stall := none } := by
  obtain ⟨fr, jo, e⟩ := Ctx.park_eq 8
    (({ c with yielded := c.clause.yieldHint, clause := {}, stall := none, recipe := (c.pastRecipe pc).2 } : Ctx).setFrag
      { c.frag with pc := (c.pastRecipe pc).1 }) c.fsel
  exact ⟨fr, jo, (c.pastRecipe pc).2, e⟩

/-- Moving past an instruction changes the clause, and at its end the split table. -/
theorem Ctx.advance_eq (c : Ctx) (n : Nat) (r : Option (List Word)) : ∃ frags joins recipe yielded clause,
    c.advance n r = { c with frags, joins, recipe, yielded, clause, stall := none } := by
  simp only [Ctx.advance]
  split
  · obtain ⟨fr, jo, re, e⟩ := Ctx.closeClause_eq
      ({ c with clause := { c.clause with pos := c.clause.pos + n, win := (r :: c.clause.win).take 8 }, stall := none } : Ctx)
      (({ c with clause := { c.clause with pos := c.clause.pos + n, win := (r :: c.clause.win).take 8 }, stall := none } : Ctx).nextHdr)
    exact ⟨fr, jo, re, _, _, e⟩
  · exact ⟨c.frags, c.joins, c.recipe, c.yielded, _, rfl⟩

/-- Inside a clause, moving past an instruction puts its result in the latch window (R31). -/
theorem Ctx.advance_inside (c : Ctx) (n : Nat) (r : Option (List Word)) (h : c.clause.pos + n < c.clause.count) :
    c.advance n r = { c with clause := { c.clause with pos := c.clause.pos + n, win := (r :: c.clause.win).take 8 },
                             stall := none } := by
  simp only [Ctx.advance]
  exact if_neg (by simpa using h)

@[simp] theorem Ctx.advance_uid (c : Ctx) (n : Nat) (r : Option (List Word)) : (c.advance n r).uid = c.uid := by
  obtain ⟨_, _, _, _, _, e⟩ := c.advance_eq n r; rw [e]
@[simp] theorem Ctx.advance_kind (c : Ctx) (n : Nat) (r : Option (List Word)) : (c.advance n r).kind = c.kind := by
  obtain ⟨_, _, _, _, _, e⟩ := c.advance_eq n r; rw [e]
@[simp] theorem Ctx.advance_team (c : Ctx) (n : Nat) (r : Option (List Word)) : (c.advance n r).team = c.team := by
  obtain ⟨_, _, _, _, _, e⟩ := c.advance_eq n r; rw [e]
@[simp] theorem Ctx.advance_grpid (c : Ctx) (n : Nat) (r : Option (List Word)) : (c.advance n r).grpid = c.grpid := by
  obtain ⟨_, _, _, _, _, e⟩ := c.advance_eq n r; rw [e]
@[simp] theorem Ctx.advance_teamid (c : Ctx) (n : Nat) (r : Option (List Word)) : (c.advance n r).teamid = c.teamid := by
  obtain ⟨_, _, _, _, _, e⟩ := c.advance_eq n r; rw [e]
@[simp] theorem Ctx.advance_clusid (c : Ctx) (n : Nat) (r : Option (List Word)) : (c.advance n r).clusid = c.clusid := by
  obtain ⟨_, _, _, _, _, e⟩ := c.advance_eq n r; rw [e]
@[simp] theorem Ctx.advance_ngrp (c : Ctx) (n : Nat) (r : Option (List Word)) : (c.advance n r).ngrp = c.ngrp := by
  obtain ⟨_, _, _, _, _, e⟩ := c.advance_eq n r; rw [e]
@[simp] theorem Ctx.advance_loc (c : Ctx) (n : Nat) (r : Option (List Word)) : (c.advance n r).loc = c.loc := by
  obtain ⟨_, _, _, _, _, e⟩ := c.advance_eq n r; rw [e]
@[simp] theorem Ctx.advance_acq (c : Ctx) (n : Nat) (r : Option (List Word)) : (c.advance n r).acq = c.acq := by
  obtain ⟨_, _, _, _, _, e⟩ := c.advance_eq n r; rw [e]
@[simp] theorem Ctx.advance_v (c : Ctx) (n : Nat) (r : Option (List Word)) : (c.advance n r).v = c.v := by
  obtain ⟨_, _, _, _, _, e⟩ := c.advance_eq n r; rw [e]
@[simp] theorem Ctx.advance_s (c : Ctx) (n : Nat) (r : Option (List Word)) : (c.advance n r).s = c.s := by
  obtain ⟨_, _, _, _, _, e⟩ := c.advance_eq n r; rw [e]
@[simp] theorem Ctx.advance_p (c : Ctx) (n : Nat) (r : Option (List Word)) : (c.advance n r).p = c.p := by
  obtain ⟨_, _, _, _, _, e⟩ := c.advance_eq n r; rw [e]
@[simp] theorem Ctx.advance_mode (c : Ctx) (n : Nat) (r : Option (List Word)) : (c.advance n r).mode = c.mode := by
  obtain ⟨_, _, _, _, _, e⟩ := c.advance_eq n r; rw [e]
@[simp] theorem Ctx.advance_fsel (c : Ctx) (n : Nat) (r : Option (List Word)) : (c.advance n r).fsel = c.fsel := by
  obtain ⟨_, _, _, _, _, e⟩ := c.advance_eq n r; rw [e]
@[simp] theorem Ctx.advance_ctr (c : Ctx) (n : Nat) (r : Option (List Word)) : (c.advance n r).ctr = c.ctr := by
  obtain ⟨_, _, _, _, _, e⟩ := c.advance_eq n r; rw [e]
@[simp] theorem Ctx.advance_lastwct (c : Ctx) (n : Nat) (r : Option (List Word)) : (c.advance n r).lastwct = c.lastwct := by
  obtain ⟨_, _, _, _, _, e⟩ := c.advance_eq n r; rw [e]
@[simp] theorem Ctx.advance_sample (c : Ctx) (n : Nat) (r : Option (List Word)) : (c.advance n r).sample = c.sample := by
  obtain ⟨_, _, _, _, _, e⟩ := c.advance_eq n r; rw [e]
@[simp] theorem Ctx.advance_tcause (c : Ctx) (n : Nat) (r : Option (List Word)) : (c.advance n r).tcause = c.tcause := by
  obtain ⟨_, _, _, _, _, e⟩ := c.advance_eq n r; rw [e]
@[simp] theorem Ctx.advance_epc (c : Ctx) (n : Nat) (r : Option (List Word)) : (c.advance n r).epc = c.epc := by
  obtain ⟨_, _, _, _, _, e⟩ := c.advance_eq n r; rw [e]
@[simp] theorem Ctx.advance_tvec (c : Ctx) (n : Nat) (r : Option (List Word)) : (c.advance n r).tvec = c.tvec := by
  obtain ⟨_, _, _, _, _, e⟩ := c.advance_eq n r; rw [e]
@[simp] theorem Ctx.advance_tval (c : Ctx) (n : Nat) (r : Option (List Word)) : (c.advance n r).tval = c.tval := by
  obtain ⟨_, _, _, _, _, e⟩ := c.advance_eq n r; rw [e]
@[simp] theorem Ctx.advance_tlanes (c : Ctx) (n : Nat) (r : Option (List Word)) : (c.advance n r).tlanes = c.tlanes := by
  obtain ⟨_, _, _, _, _, e⟩ := c.advance_eq n r; rw [e]
@[simp] theorem Ctx.advance_priv (c : Ctx) (n : Nat) (r : Option (List Word)) : (c.advance n r).priv = c.priv := by
  obtain ⟨_, _, _, _, _, e⟩ := c.advance_eq n r; rw [e]
@[simp] theorem Ctx.advance_svec (c : Ctx) (n : Nat) (r : Option (List Word)) : (c.advance n r).svec = c.svec := by
  obtain ⟨_, _, _, _, _, e⟩ := c.advance_eq n r; rw [e]
@[simp] theorem Ctx.advance_srsel (c : Ctx) (n : Nat) (r : Option (List Word)) : (c.advance n r).srsel = c.srsel := by
  obtain ⟨_, _, _, _, _, e⟩ := c.advance_eq n r; rw [e]
@[simp] theorem Ctx.advance_dbgctl (c : Ctx) (n : Nat) (r : Option (List Word)) : (c.advance n r).dbgctl = c.dbgctl := by
  obtain ⟨_, _, _, _, _, e⟩ := c.advance_eq n r; rw [e]
@[simp] theorem Ctx.advance_saved (c : Ctx) (n : Nat) (r : Option (List Word)) : (c.advance n r).saved = c.saved := by
  obtain ⟨_, _, _, _, _, e⟩ := c.advance_eq n r; rw [e]
@[simp] theorem Ctx.advance_copyErrs (c : Ctx) (n : Nat) (r : Option (List Word)) : (c.advance n r).copyErrs = c.copyErrs := by
  obtain ⟨_, _, _, _, _, e⟩ := c.advance_eq n r; rw [e]
@[simp] theorem Ctx.advance_owedTrap (c : Ctx) (n : Nat) (r : Option (List Word)) : (c.advance n r).owedTrap = c.owedTrap := by
  obtain ⟨_, _, _, _, _, e⟩ := c.advance_eq n r; rw [e]
@[simp] theorem Ctx.advance_abandonTaken (c : Ctx) (n : Nat) (r : Option (List Word)) : (c.advance n r).abandonTaken = c.abandonTaken := by
  obtain ⟨_, _, _, _, _, e⟩ := c.advance_eq n r; rw [e]
@[simp] theorem Ctx.advance_halted (c : Ctx) (n : Nat) (r : Option (List Word)) : (c.advance n r).halted = c.halted := by
  obtain ⟨_, _, _, _, _, e⟩ := c.advance_eq n r; rw [e]
@[simp] theorem Ctx.advance_ended (c : Ctx) (n : Nat) (r : Option (List Word)) : (c.advance n r).ended = c.ended := by
  obtain ⟨_, _, _, _, _, e⟩ := c.advance_eq n r; rw [e]
@[simp] theorem Ctx.advance_regError (c : Ctx) (n : Nat) (r : Option (List Word)) : (c.advance n r).regError = c.regError := by
  obtain ⟨_, _, _, _, _, e⟩ := c.advance_eq n r; rw [e]
@[simp] theorem Ctx.advance_failed (c : Ctx) (n : Nat) (r : Option (List Word)) : (c.advance n r).failed = c.failed := by
  obtain ⟨_, _, _, _, _, e⟩ := c.advance_eq n r; rw [e]
@[simp] theorem Ctx.advance_resSeq (c : Ctx) (n : Nat) (r : Option (List Word)) : (c.advance n r).resSeq = c.resSeq := by
  obtain ⟨_, _, _, _, _, e⟩ := c.advance_eq n r; rw [e]
@[simp] theorem Ctx.advance_ready (c : Ctx) (n : Nat) (r : Option (List Word)) : (c.advance n r).ready = c.ready := by
  obtain ⟨_, _, _, _, _, e⟩ := c.advance_eq n r; rw [e]
@[simp] theorem Ctx.advance_lastIssue (c : Ctx) (n : Nat) (r : Option (List Word)) : (c.advance n r).lastIssue = c.lastIssue := by
  obtain ⟨_, _, _, _, _, e⟩ := c.advance_eq n r; rw [e]
@[simp] theorem Ctx.advance_issueSeq (c : Ctx) (n : Nat) (r : Option (List Word)) : (c.advance n r).issueSeq = c.issueSeq := by
  obtain ⟨_, _, _, _, _, e⟩ := c.advance_eq n r; rw [e]
@[simp] theorem Ctx.advance_whos (c : Ctx) (n : Nat) (r : Option (List Word)) : (c.advance n r).whos = c.whos := by
  obtain ⟨_, _, _, _, _, e⟩ := c.advance_eq n r; rw [e]
@[simp] theorem Ctx.advance_ckpts (c : Ctx) (n : Nat) (r : Option (List Word)) : (c.advance n r).ckpts = c.ckpts := by
  obtain ⟨_, _, _, _, _, e⟩ := c.advance_eq n r; rw [e]
@[simp] theorem Ctx.advance_born (c : Ctx) (n : Nat) (r : Option (List Word)) : (c.advance n r).born = c.born := by
  obtain ⟨_, _, _, _, _, e⟩ := c.advance_eq n r; rw [e]
@[simp] theorem Ctx.advance_mrp (c : Ctx) (n : Nat) (r : Option (List Word)) : (c.advance n r).mrp = c.mrp := by
  obtain ⟨_, _, _, _, _, e⟩ := c.advance_eq n r; rw [e]
@[simp] theorem Ctx.advance_mcp (c : Ctx) (n : Nat) (r : Option (List Word)) : (c.advance n r).mcp = c.mcp := by
  obtain ⟨_, _, _, _, _, e⟩ := c.advance_eq n r; rw [e]
@[simp] theorem Ctx.advance_mkp (c : Ctx) (n : Nat) (r : Option (List Word)) : (c.advance n r).mkp = c.mkp := by
  obtain ⟨_, _, _, _, _, e⟩ := c.advance_eq n r; rw [e]
@[simp] theorem Ctx.advance_loadErr (c : Ctx) (n : Nat) (r : Option (List Word)) : (c.advance n r).loadErr = c.loadErr := by
  obtain ⟨_, _, _, _, _, e⟩ := c.advance_eq n r; rw [e]
@[simp] theorem Ctx.advance_sig (c : Ctx) (n : Nat) (r : Option (List Word)) : (c.advance n r).sig = c.sig := by
  obtain ⟨_, _, _, _, _, e⟩ := c.advance_eq n r; rw [e]

@[simp] theorem Ctx.putNone_eq (c : Ctx) (n : Nat) : c.putNone n = c.advance n none := rfl

/-! ### Results (R31, R32) -/

/-- A vector result: the register file changes in the destination register alone, unless NOWB. -/
@[simp] theorem Ctx.putV_v (c : Ctx) (w : Core) (m : Word) (n : Nat) (x : List Word) :
    (c.putV w m n x).v = if w.nowb then c.v else (c.setV w.dst.toNat m x).v := by
  unfold Ctx.putV; simp only [Ctx.advance_v]; split <;> rfl

@[simp] theorem Ctx.putV_uid (c : Ctx) (w : Core) (m : Word) (n : Nat) (x : List Word) : (c.putV w m n x).uid = c.uid := by
  unfold Ctx.putV; simp only [Ctx.advance_uid]; split <;> simp
@[simp] theorem Ctx.putV_kind (c : Ctx) (w : Core) (m : Word) (n : Nat) (x : List Word) : (c.putV w m n x).kind = c.kind := by
  unfold Ctx.putV; simp only [Ctx.advance_kind]; split <;> simp
@[simp] theorem Ctx.putV_team (c : Ctx) (w : Core) (m : Word) (n : Nat) (x : List Word) : (c.putV w m n x).team = c.team := by
  unfold Ctx.putV; simp only [Ctx.advance_team]; split <;> simp
@[simp] theorem Ctx.putV_grpid (c : Ctx) (w : Core) (m : Word) (n : Nat) (x : List Word) : (c.putV w m n x).grpid = c.grpid := by
  unfold Ctx.putV; simp only [Ctx.advance_grpid]; split <;> simp
@[simp] theorem Ctx.putV_teamid (c : Ctx) (w : Core) (m : Word) (n : Nat) (x : List Word) : (c.putV w m n x).teamid = c.teamid := by
  unfold Ctx.putV; simp only [Ctx.advance_teamid]; split <;> simp
@[simp] theorem Ctx.putV_clusid (c : Ctx) (w : Core) (m : Word) (n : Nat) (x : List Word) : (c.putV w m n x).clusid = c.clusid := by
  unfold Ctx.putV; simp only [Ctx.advance_clusid]; split <;> simp
@[simp] theorem Ctx.putV_ngrp (c : Ctx) (w : Core) (m : Word) (n : Nat) (x : List Word) : (c.putV w m n x).ngrp = c.ngrp := by
  unfold Ctx.putV; simp only [Ctx.advance_ngrp]; split <;> simp
@[simp] theorem Ctx.putV_loc (c : Ctx) (w : Core) (m : Word) (n : Nat) (x : List Word) : (c.putV w m n x).loc = c.loc := by
  unfold Ctx.putV; simp only [Ctx.advance_loc]; split <;> simp
@[simp] theorem Ctx.putV_acq (c : Ctx) (w : Core) (m : Word) (n : Nat) (x : List Word) : (c.putV w m n x).acq = c.acq := by
  unfold Ctx.putV; simp only [Ctx.advance_acq]; split <;> simp
@[simp] theorem Ctx.putV_s (c : Ctx) (w : Core) (m : Word) (n : Nat) (x : List Word) : (c.putV w m n x).s = c.s := by
  unfold Ctx.putV; simp only [Ctx.advance_s]; split <;> simp
@[simp] theorem Ctx.putV_p (c : Ctx) (w : Core) (m : Word) (n : Nat) (x : List Word) : (c.putV w m n x).p = c.p := by
  unfold Ctx.putV; simp only [Ctx.advance_p]; split <;> simp
@[simp] theorem Ctx.putV_mode (c : Ctx) (w : Core) (m : Word) (n : Nat) (x : List Word) : (c.putV w m n x).mode = c.mode := by
  unfold Ctx.putV; simp only [Ctx.advance_mode]; split <;> simp
@[simp] theorem Ctx.putV_fsel (c : Ctx) (w : Core) (m : Word) (n : Nat) (x : List Word) : (c.putV w m n x).fsel = c.fsel := by
  unfold Ctx.putV; simp only [Ctx.advance_fsel]; split <;> simp
@[simp] theorem Ctx.putV_ctr (c : Ctx) (w : Core) (m : Word) (n : Nat) (x : List Word) : (c.putV w m n x).ctr = c.ctr := by
  unfold Ctx.putV; simp only [Ctx.advance_ctr]; split <;> simp
@[simp] theorem Ctx.putV_lastwct (c : Ctx) (w : Core) (m : Word) (n : Nat) (x : List Word) : (c.putV w m n x).lastwct = c.lastwct := by
  unfold Ctx.putV; simp only [Ctx.advance_lastwct]; split <;> simp
@[simp] theorem Ctx.putV_sample (c : Ctx) (w : Core) (m : Word) (n : Nat) (x : List Word) : (c.putV w m n x).sample = c.sample := by
  unfold Ctx.putV; simp only [Ctx.advance_sample]; split <;> simp
@[simp] theorem Ctx.putV_tcause (c : Ctx) (w : Core) (m : Word) (n : Nat) (x : List Word) : (c.putV w m n x).tcause = c.tcause := by
  unfold Ctx.putV; simp only [Ctx.advance_tcause]; split <;> simp
@[simp] theorem Ctx.putV_epc (c : Ctx) (w : Core) (m : Word) (n : Nat) (x : List Word) : (c.putV w m n x).epc = c.epc := by
  unfold Ctx.putV; simp only [Ctx.advance_epc]; split <;> simp
@[simp] theorem Ctx.putV_tvec (c : Ctx) (w : Core) (m : Word) (n : Nat) (x : List Word) : (c.putV w m n x).tvec = c.tvec := by
  unfold Ctx.putV; simp only [Ctx.advance_tvec]; split <;> simp
@[simp] theorem Ctx.putV_tval (c : Ctx) (w : Core) (m : Word) (n : Nat) (x : List Word) : (c.putV w m n x).tval = c.tval := by
  unfold Ctx.putV; simp only [Ctx.advance_tval]; split <;> simp
@[simp] theorem Ctx.putV_tlanes (c : Ctx) (w : Core) (m : Word) (n : Nat) (x : List Word) : (c.putV w m n x).tlanes = c.tlanes := by
  unfold Ctx.putV; simp only [Ctx.advance_tlanes]; split <;> simp
@[simp] theorem Ctx.putV_priv (c : Ctx) (w : Core) (m : Word) (n : Nat) (x : List Word) : (c.putV w m n x).priv = c.priv := by
  unfold Ctx.putV; simp only [Ctx.advance_priv]; split <;> simp
@[simp] theorem Ctx.putV_svec (c : Ctx) (w : Core) (m : Word) (n : Nat) (x : List Word) : (c.putV w m n x).svec = c.svec := by
  unfold Ctx.putV; simp only [Ctx.advance_svec]; split <;> simp
@[simp] theorem Ctx.putV_srsel (c : Ctx) (w : Core) (m : Word) (n : Nat) (x : List Word) : (c.putV w m n x).srsel = c.srsel := by
  unfold Ctx.putV; simp only [Ctx.advance_srsel]; split <;> simp
@[simp] theorem Ctx.putV_dbgctl (c : Ctx) (w : Core) (m : Word) (n : Nat) (x : List Word) : (c.putV w m n x).dbgctl = c.dbgctl := by
  unfold Ctx.putV; simp only [Ctx.advance_dbgctl]; split <;> simp
@[simp] theorem Ctx.putV_saved (c : Ctx) (w : Core) (m : Word) (n : Nat) (x : List Word) : (c.putV w m n x).saved = c.saved := by
  unfold Ctx.putV; simp only [Ctx.advance_saved]; split <;> simp
@[simp] theorem Ctx.putV_copyErrs (c : Ctx) (w : Core) (m : Word) (n : Nat) (x : List Word) : (c.putV w m n x).copyErrs = c.copyErrs := by
  unfold Ctx.putV; simp only [Ctx.advance_copyErrs]; split <;> simp
@[simp] theorem Ctx.putV_owedTrap (c : Ctx) (w : Core) (m : Word) (n : Nat) (x : List Word) : (c.putV w m n x).owedTrap = c.owedTrap := by
  unfold Ctx.putV; simp only [Ctx.advance_owedTrap]; split <;> simp
@[simp] theorem Ctx.putV_abandonTaken (c : Ctx) (w : Core) (m : Word) (n : Nat) (x : List Word) : (c.putV w m n x).abandonTaken = c.abandonTaken := by
  unfold Ctx.putV; simp only [Ctx.advance_abandonTaken]; split <;> simp
@[simp] theorem Ctx.putV_halted (c : Ctx) (w : Core) (m : Word) (n : Nat) (x : List Word) : (c.putV w m n x).halted = c.halted := by
  unfold Ctx.putV; simp only [Ctx.advance_halted]; split <;> simp
@[simp] theorem Ctx.putV_ended (c : Ctx) (w : Core) (m : Word) (n : Nat) (x : List Word) : (c.putV w m n x).ended = c.ended := by
  unfold Ctx.putV; simp only [Ctx.advance_ended]; split <;> simp
@[simp] theorem Ctx.putV_regError (c : Ctx) (w : Core) (m : Word) (n : Nat) (x : List Word) : (c.putV w m n x).regError = c.regError := by
  unfold Ctx.putV; simp only [Ctx.advance_regError]; split <;> simp
@[simp] theorem Ctx.putV_failed (c : Ctx) (w : Core) (m : Word) (n : Nat) (x : List Word) : (c.putV w m n x).failed = c.failed := by
  unfold Ctx.putV; simp only [Ctx.advance_failed]; split <;> simp
@[simp] theorem Ctx.putV_resSeq (c : Ctx) (w : Core) (m : Word) (n : Nat) (x : List Word) : (c.putV w m n x).resSeq = c.resSeq := by
  unfold Ctx.putV; simp only [Ctx.advance_resSeq]; split <;> simp
@[simp] theorem Ctx.putV_ready (c : Ctx) (w : Core) (m : Word) (n : Nat) (x : List Word) : (c.putV w m n x).ready = c.ready := by
  unfold Ctx.putV; simp only [Ctx.advance_ready]; split <;> simp
@[simp] theorem Ctx.putV_lastIssue (c : Ctx) (w : Core) (m : Word) (n : Nat) (x : List Word) : (c.putV w m n x).lastIssue = c.lastIssue := by
  unfold Ctx.putV; simp only [Ctx.advance_lastIssue]; split <;> simp
@[simp] theorem Ctx.putV_issueSeq (c : Ctx) (w : Core) (m : Word) (n : Nat) (x : List Word) : (c.putV w m n x).issueSeq = c.issueSeq := by
  unfold Ctx.putV; simp only [Ctx.advance_issueSeq]; split <;> simp
@[simp] theorem Ctx.putV_whos (c : Ctx) (w : Core) (m : Word) (n : Nat) (x : List Word) : (c.putV w m n x).whos = c.whos := by
  unfold Ctx.putV; simp only [Ctx.advance_whos]; split <;> simp
@[simp] theorem Ctx.putV_ckpts (c : Ctx) (w : Core) (m : Word) (n : Nat) (x : List Word) : (c.putV w m n x).ckpts = c.ckpts := by
  unfold Ctx.putV; simp only [Ctx.advance_ckpts]; split <;> simp
@[simp] theorem Ctx.putV_born (c : Ctx) (w : Core) (m : Word) (n : Nat) (x : List Word) : (c.putV w m n x).born = c.born := by
  unfold Ctx.putV; simp only [Ctx.advance_born]; split <;> simp
@[simp] theorem Ctx.putV_mrp (c : Ctx) (w : Core) (m : Word) (n : Nat) (x : List Word) : (c.putV w m n x).mrp = c.mrp := by
  unfold Ctx.putV; simp only [Ctx.advance_mrp]; split <;> simp
@[simp] theorem Ctx.putV_mcp (c : Ctx) (w : Core) (m : Word) (n : Nat) (x : List Word) : (c.putV w m n x).mcp = c.mcp := by
  unfold Ctx.putV; simp only [Ctx.advance_mcp]; split <;> simp
@[simp] theorem Ctx.putV_mkp (c : Ctx) (w : Core) (m : Word) (n : Nat) (x : List Word) : (c.putV w m n x).mkp = c.mkp := by
  unfold Ctx.putV; simp only [Ctx.advance_mkp]; split <;> simp
@[simp] theorem Ctx.putV_loadErr (c : Ctx) (w : Core) (m : Word) (n : Nat) (x : List Word) : (c.putV w m n x).loadErr = c.loadErr := by
  unfold Ctx.putV; simp only [Ctx.advance_loadErr]; split <;> simp
@[simp] theorem Ctx.putV_sig (c : Ctx) (w : Core) (m : Word) (n : Nat) (x : List Word) : (c.putV w m n x).sig = c.sig := by
  unfold Ctx.putV; simp only [Ctx.advance_sig]; split <;> simp

@[simp] theorem Ctx.putS_uid (c : Ctx) (w : Core) (n : Nat) (x : Word) : (c.putS w n x).uid = c.uid := by
  unfold Ctx.putS; simp only [Ctx.advance_uid]; split <;> simp
@[simp] theorem Ctx.putS_kind (c : Ctx) (w : Core) (n : Nat) (x : Word) : (c.putS w n x).kind = c.kind := by
  unfold Ctx.putS; simp only [Ctx.advance_kind]; split <;> simp
@[simp] theorem Ctx.putS_team (c : Ctx) (w : Core) (n : Nat) (x : Word) : (c.putS w n x).team = c.team := by
  unfold Ctx.putS; simp only [Ctx.advance_team]; split <;> simp
@[simp] theorem Ctx.putS_grpid (c : Ctx) (w : Core) (n : Nat) (x : Word) : (c.putS w n x).grpid = c.grpid := by
  unfold Ctx.putS; simp only [Ctx.advance_grpid]; split <;> simp
@[simp] theorem Ctx.putS_teamid (c : Ctx) (w : Core) (n : Nat) (x : Word) : (c.putS w n x).teamid = c.teamid := by
  unfold Ctx.putS; simp only [Ctx.advance_teamid]; split <;> simp
@[simp] theorem Ctx.putS_clusid (c : Ctx) (w : Core) (n : Nat) (x : Word) : (c.putS w n x).clusid = c.clusid := by
  unfold Ctx.putS; simp only [Ctx.advance_clusid]; split <;> simp
@[simp] theorem Ctx.putS_ngrp (c : Ctx) (w : Core) (n : Nat) (x : Word) : (c.putS w n x).ngrp = c.ngrp := by
  unfold Ctx.putS; simp only [Ctx.advance_ngrp]; split <;> simp
@[simp] theorem Ctx.putS_loc (c : Ctx) (w : Core) (n : Nat) (x : Word) : (c.putS w n x).loc = c.loc := by
  unfold Ctx.putS; simp only [Ctx.advance_loc]; split <;> simp
@[simp] theorem Ctx.putS_acq (c : Ctx) (w : Core) (n : Nat) (x : Word) : (c.putS w n x).acq = c.acq := by
  unfold Ctx.putS; simp only [Ctx.advance_acq]; split <;> simp
@[simp] theorem Ctx.putS_v (c : Ctx) (w : Core) (n : Nat) (x : Word) : (c.putS w n x).v = c.v := by
  unfold Ctx.putS; simp only [Ctx.advance_v]; split <;> simp
@[simp] theorem Ctx.putS_p (c : Ctx) (w : Core) (n : Nat) (x : Word) : (c.putS w n x).p = c.p := by
  unfold Ctx.putS; simp only [Ctx.advance_p]; split <;> simp
@[simp] theorem Ctx.putS_mode (c : Ctx) (w : Core) (n : Nat) (x : Word) : (c.putS w n x).mode = c.mode := by
  unfold Ctx.putS; simp only [Ctx.advance_mode]; split <;> simp
@[simp] theorem Ctx.putS_fsel (c : Ctx) (w : Core) (n : Nat) (x : Word) : (c.putS w n x).fsel = c.fsel := by
  unfold Ctx.putS; simp only [Ctx.advance_fsel]; split <;> simp
@[simp] theorem Ctx.putS_ctr (c : Ctx) (w : Core) (n : Nat) (x : Word) : (c.putS w n x).ctr = c.ctr := by
  unfold Ctx.putS; simp only [Ctx.advance_ctr]; split <;> simp
@[simp] theorem Ctx.putS_lastwct (c : Ctx) (w : Core) (n : Nat) (x : Word) : (c.putS w n x).lastwct = c.lastwct := by
  unfold Ctx.putS; simp only [Ctx.advance_lastwct]; split <;> simp
@[simp] theorem Ctx.putS_sample (c : Ctx) (w : Core) (n : Nat) (x : Word) : (c.putS w n x).sample = c.sample := by
  unfold Ctx.putS; simp only [Ctx.advance_sample]; split <;> simp
@[simp] theorem Ctx.putS_tcause (c : Ctx) (w : Core) (n : Nat) (x : Word) : (c.putS w n x).tcause = c.tcause := by
  unfold Ctx.putS; simp only [Ctx.advance_tcause]; split <;> simp
@[simp] theorem Ctx.putS_epc (c : Ctx) (w : Core) (n : Nat) (x : Word) : (c.putS w n x).epc = c.epc := by
  unfold Ctx.putS; simp only [Ctx.advance_epc]; split <;> simp
@[simp] theorem Ctx.putS_tvec (c : Ctx) (w : Core) (n : Nat) (x : Word) : (c.putS w n x).tvec = c.tvec := by
  unfold Ctx.putS; simp only [Ctx.advance_tvec]; split <;> simp
@[simp] theorem Ctx.putS_tval (c : Ctx) (w : Core) (n : Nat) (x : Word) : (c.putS w n x).tval = c.tval := by
  unfold Ctx.putS; simp only [Ctx.advance_tval]; split <;> simp
@[simp] theorem Ctx.putS_tlanes (c : Ctx) (w : Core) (n : Nat) (x : Word) : (c.putS w n x).tlanes = c.tlanes := by
  unfold Ctx.putS; simp only [Ctx.advance_tlanes]; split <;> simp
@[simp] theorem Ctx.putS_priv (c : Ctx) (w : Core) (n : Nat) (x : Word) : (c.putS w n x).priv = c.priv := by
  unfold Ctx.putS; simp only [Ctx.advance_priv]; split <;> simp
@[simp] theorem Ctx.putS_svec (c : Ctx) (w : Core) (n : Nat) (x : Word) : (c.putS w n x).svec = c.svec := by
  unfold Ctx.putS; simp only [Ctx.advance_svec]; split <;> simp
@[simp] theorem Ctx.putS_srsel (c : Ctx) (w : Core) (n : Nat) (x : Word) : (c.putS w n x).srsel = c.srsel := by
  unfold Ctx.putS; simp only [Ctx.advance_srsel]; split <;> simp
@[simp] theorem Ctx.putS_dbgctl (c : Ctx) (w : Core) (n : Nat) (x : Word) : (c.putS w n x).dbgctl = c.dbgctl := by
  unfold Ctx.putS; simp only [Ctx.advance_dbgctl]; split <;> simp
@[simp] theorem Ctx.putS_saved (c : Ctx) (w : Core) (n : Nat) (x : Word) : (c.putS w n x).saved = c.saved := by
  unfold Ctx.putS; simp only [Ctx.advance_saved]; split <;> simp
@[simp] theorem Ctx.putS_copyErrs (c : Ctx) (w : Core) (n : Nat) (x : Word) : (c.putS w n x).copyErrs = c.copyErrs := by
  unfold Ctx.putS; simp only [Ctx.advance_copyErrs]; split <;> simp
@[simp] theorem Ctx.putS_owedTrap (c : Ctx) (w : Core) (n : Nat) (x : Word) : (c.putS w n x).owedTrap = c.owedTrap := by
  unfold Ctx.putS; simp only [Ctx.advance_owedTrap]; split <;> simp
@[simp] theorem Ctx.putS_abandonTaken (c : Ctx) (w : Core) (n : Nat) (x : Word) : (c.putS w n x).abandonTaken = c.abandonTaken := by
  unfold Ctx.putS; simp only [Ctx.advance_abandonTaken]; split <;> simp
@[simp] theorem Ctx.putS_halted (c : Ctx) (w : Core) (n : Nat) (x : Word) : (c.putS w n x).halted = c.halted := by
  unfold Ctx.putS; simp only [Ctx.advance_halted]; split <;> simp
@[simp] theorem Ctx.putS_ended (c : Ctx) (w : Core) (n : Nat) (x : Word) : (c.putS w n x).ended = c.ended := by
  unfold Ctx.putS; simp only [Ctx.advance_ended]; split <;> simp
@[simp] theorem Ctx.putS_regError (c : Ctx) (w : Core) (n : Nat) (x : Word) : (c.putS w n x).regError = c.regError := by
  unfold Ctx.putS; simp only [Ctx.advance_regError]; split <;> simp
@[simp] theorem Ctx.putS_failed (c : Ctx) (w : Core) (n : Nat) (x : Word) : (c.putS w n x).failed = c.failed := by
  unfold Ctx.putS; simp only [Ctx.advance_failed]; split <;> simp
@[simp] theorem Ctx.putS_resSeq (c : Ctx) (w : Core) (n : Nat) (x : Word) : (c.putS w n x).resSeq = c.resSeq := by
  unfold Ctx.putS; simp only [Ctx.advance_resSeq]; split <;> simp
@[simp] theorem Ctx.putS_ready (c : Ctx) (w : Core) (n : Nat) (x : Word) : (c.putS w n x).ready = c.ready := by
  unfold Ctx.putS; simp only [Ctx.advance_ready]; split <;> simp
@[simp] theorem Ctx.putS_lastIssue (c : Ctx) (w : Core) (n : Nat) (x : Word) : (c.putS w n x).lastIssue = c.lastIssue := by
  unfold Ctx.putS; simp only [Ctx.advance_lastIssue]; split <;> simp
@[simp] theorem Ctx.putS_issueSeq (c : Ctx) (w : Core) (n : Nat) (x : Word) : (c.putS w n x).issueSeq = c.issueSeq := by
  unfold Ctx.putS; simp only [Ctx.advance_issueSeq]; split <;> simp
@[simp] theorem Ctx.putS_whos (c : Ctx) (w : Core) (n : Nat) (x : Word) : (c.putS w n x).whos = c.whos := by
  unfold Ctx.putS; simp only [Ctx.advance_whos]; split <;> simp
@[simp] theorem Ctx.putS_ckpts (c : Ctx) (w : Core) (n : Nat) (x : Word) : (c.putS w n x).ckpts = c.ckpts := by
  unfold Ctx.putS; simp only [Ctx.advance_ckpts]; split <;> simp
@[simp] theorem Ctx.putS_born (c : Ctx) (w : Core) (n : Nat) (x : Word) : (c.putS w n x).born = c.born := by
  unfold Ctx.putS; simp only [Ctx.advance_born]; split <;> simp
@[simp] theorem Ctx.putS_mrp (c : Ctx) (w : Core) (n : Nat) (x : Word) : (c.putS w n x).mrp = c.mrp := by
  unfold Ctx.putS; simp only [Ctx.advance_mrp]; split <;> simp
@[simp] theorem Ctx.putS_mcp (c : Ctx) (w : Core) (n : Nat) (x : Word) : (c.putS w n x).mcp = c.mcp := by
  unfold Ctx.putS; simp only [Ctx.advance_mcp]; split <;> simp
@[simp] theorem Ctx.putS_mkp (c : Ctx) (w : Core) (n : Nat) (x : Word) : (c.putS w n x).mkp = c.mkp := by
  unfold Ctx.putS; simp only [Ctx.advance_mkp]; split <;> simp
@[simp] theorem Ctx.putS_loadErr (c : Ctx) (w : Core) (n : Nat) (x : Word) : (c.putS w n x).loadErr = c.loadErr := by
  unfold Ctx.putS; simp only [Ctx.advance_loadErr]; split <;> simp
@[simp] theorem Ctx.putS_sig (c : Ctx) (w : Core) (n : Nat) (x : Word) : (c.putS w n x).sig = c.sig := by
  unfold Ctx.putS; simp only [Ctx.advance_sig]; split <;> simp

@[simp] theorem Ctx.putS64_uid (c : Ctx) (w : Core) (n : Nat) (x : Word64) : (c.putS64 w n x).uid = c.uid := by
  unfold Ctx.putS64; simp only [Ctx.advance_uid]; split <;> simp [Ctx.setS64]
@[simp] theorem Ctx.putS64_kind (c : Ctx) (w : Core) (n : Nat) (x : Word64) : (c.putS64 w n x).kind = c.kind := by
  unfold Ctx.putS64; simp only [Ctx.advance_kind]; split <;> simp [Ctx.setS64]
@[simp] theorem Ctx.putS64_team (c : Ctx) (w : Core) (n : Nat) (x : Word64) : (c.putS64 w n x).team = c.team := by
  unfold Ctx.putS64; simp only [Ctx.advance_team]; split <;> simp [Ctx.setS64]
@[simp] theorem Ctx.putS64_grpid (c : Ctx) (w : Core) (n : Nat) (x : Word64) : (c.putS64 w n x).grpid = c.grpid := by
  unfold Ctx.putS64; simp only [Ctx.advance_grpid]; split <;> simp [Ctx.setS64]
@[simp] theorem Ctx.putS64_teamid (c : Ctx) (w : Core) (n : Nat) (x : Word64) : (c.putS64 w n x).teamid = c.teamid := by
  unfold Ctx.putS64; simp only [Ctx.advance_teamid]; split <;> simp [Ctx.setS64]
@[simp] theorem Ctx.putS64_clusid (c : Ctx) (w : Core) (n : Nat) (x : Word64) : (c.putS64 w n x).clusid = c.clusid := by
  unfold Ctx.putS64; simp only [Ctx.advance_clusid]; split <;> simp [Ctx.setS64]
@[simp] theorem Ctx.putS64_ngrp (c : Ctx) (w : Core) (n : Nat) (x : Word64) : (c.putS64 w n x).ngrp = c.ngrp := by
  unfold Ctx.putS64; simp only [Ctx.advance_ngrp]; split <;> simp [Ctx.setS64]
@[simp] theorem Ctx.putS64_loc (c : Ctx) (w : Core) (n : Nat) (x : Word64) : (c.putS64 w n x).loc = c.loc := by
  unfold Ctx.putS64; simp only [Ctx.advance_loc]; split <;> simp [Ctx.setS64]
@[simp] theorem Ctx.putS64_acq (c : Ctx) (w : Core) (n : Nat) (x : Word64) : (c.putS64 w n x).acq = c.acq := by
  unfold Ctx.putS64; simp only [Ctx.advance_acq]; split <;> simp [Ctx.setS64]
@[simp] theorem Ctx.putS64_v (c : Ctx) (w : Core) (n : Nat) (x : Word64) : (c.putS64 w n x).v = c.v := by
  unfold Ctx.putS64; simp only [Ctx.advance_v]; split <;> simp [Ctx.setS64]
@[simp] theorem Ctx.putS64_p (c : Ctx) (w : Core) (n : Nat) (x : Word64) : (c.putS64 w n x).p = c.p := by
  unfold Ctx.putS64; simp only [Ctx.advance_p]; split <;> simp [Ctx.setS64]
@[simp] theorem Ctx.putS64_mode (c : Ctx) (w : Core) (n : Nat) (x : Word64) : (c.putS64 w n x).mode = c.mode := by
  unfold Ctx.putS64; simp only [Ctx.advance_mode]; split <;> simp [Ctx.setS64]
@[simp] theorem Ctx.putS64_fsel (c : Ctx) (w : Core) (n : Nat) (x : Word64) : (c.putS64 w n x).fsel = c.fsel := by
  unfold Ctx.putS64; simp only [Ctx.advance_fsel]; split <;> simp [Ctx.setS64]
@[simp] theorem Ctx.putS64_ctr (c : Ctx) (w : Core) (n : Nat) (x : Word64) : (c.putS64 w n x).ctr = c.ctr := by
  unfold Ctx.putS64; simp only [Ctx.advance_ctr]; split <;> simp [Ctx.setS64]
@[simp] theorem Ctx.putS64_lastwct (c : Ctx) (w : Core) (n : Nat) (x : Word64) : (c.putS64 w n x).lastwct = c.lastwct := by
  unfold Ctx.putS64; simp only [Ctx.advance_lastwct]; split <;> simp [Ctx.setS64]
@[simp] theorem Ctx.putS64_sample (c : Ctx) (w : Core) (n : Nat) (x : Word64) : (c.putS64 w n x).sample = c.sample := by
  unfold Ctx.putS64; simp only [Ctx.advance_sample]; split <;> simp [Ctx.setS64]
@[simp] theorem Ctx.putS64_tcause (c : Ctx) (w : Core) (n : Nat) (x : Word64) : (c.putS64 w n x).tcause = c.tcause := by
  unfold Ctx.putS64; simp only [Ctx.advance_tcause]; split <;> simp [Ctx.setS64]
@[simp] theorem Ctx.putS64_epc (c : Ctx) (w : Core) (n : Nat) (x : Word64) : (c.putS64 w n x).epc = c.epc := by
  unfold Ctx.putS64; simp only [Ctx.advance_epc]; split <;> simp [Ctx.setS64]
@[simp] theorem Ctx.putS64_tvec (c : Ctx) (w : Core) (n : Nat) (x : Word64) : (c.putS64 w n x).tvec = c.tvec := by
  unfold Ctx.putS64; simp only [Ctx.advance_tvec]; split <;> simp [Ctx.setS64]
@[simp] theorem Ctx.putS64_tval (c : Ctx) (w : Core) (n : Nat) (x : Word64) : (c.putS64 w n x).tval = c.tval := by
  unfold Ctx.putS64; simp only [Ctx.advance_tval]; split <;> simp [Ctx.setS64]
@[simp] theorem Ctx.putS64_tlanes (c : Ctx) (w : Core) (n : Nat) (x : Word64) : (c.putS64 w n x).tlanes = c.tlanes := by
  unfold Ctx.putS64; simp only [Ctx.advance_tlanes]; split <;> simp [Ctx.setS64]
@[simp] theorem Ctx.putS64_priv (c : Ctx) (w : Core) (n : Nat) (x : Word64) : (c.putS64 w n x).priv = c.priv := by
  unfold Ctx.putS64; simp only [Ctx.advance_priv]; split <;> simp [Ctx.setS64]
@[simp] theorem Ctx.putS64_svec (c : Ctx) (w : Core) (n : Nat) (x : Word64) : (c.putS64 w n x).svec = c.svec := by
  unfold Ctx.putS64; simp only [Ctx.advance_svec]; split <;> simp [Ctx.setS64]
@[simp] theorem Ctx.putS64_srsel (c : Ctx) (w : Core) (n : Nat) (x : Word64) : (c.putS64 w n x).srsel = c.srsel := by
  unfold Ctx.putS64; simp only [Ctx.advance_srsel]; split <;> simp [Ctx.setS64]
@[simp] theorem Ctx.putS64_dbgctl (c : Ctx) (w : Core) (n : Nat) (x : Word64) : (c.putS64 w n x).dbgctl = c.dbgctl := by
  unfold Ctx.putS64; simp only [Ctx.advance_dbgctl]; split <;> simp [Ctx.setS64]
@[simp] theorem Ctx.putS64_saved (c : Ctx) (w : Core) (n : Nat) (x : Word64) : (c.putS64 w n x).saved = c.saved := by
  unfold Ctx.putS64; simp only [Ctx.advance_saved]; split <;> simp [Ctx.setS64]
@[simp] theorem Ctx.putS64_copyErrs (c : Ctx) (w : Core) (n : Nat) (x : Word64) : (c.putS64 w n x).copyErrs = c.copyErrs := by
  unfold Ctx.putS64; simp only [Ctx.advance_copyErrs]; split <;> simp [Ctx.setS64]
@[simp] theorem Ctx.putS64_owedTrap (c : Ctx) (w : Core) (n : Nat) (x : Word64) : (c.putS64 w n x).owedTrap = c.owedTrap := by
  unfold Ctx.putS64; simp only [Ctx.advance_owedTrap]; split <;> simp [Ctx.setS64]
@[simp] theorem Ctx.putS64_abandonTaken (c : Ctx) (w : Core) (n : Nat) (x : Word64) : (c.putS64 w n x).abandonTaken = c.abandonTaken := by
  unfold Ctx.putS64; simp only [Ctx.advance_abandonTaken]; split <;> simp [Ctx.setS64]
@[simp] theorem Ctx.putS64_halted (c : Ctx) (w : Core) (n : Nat) (x : Word64) : (c.putS64 w n x).halted = c.halted := by
  unfold Ctx.putS64; simp only [Ctx.advance_halted]; split <;> simp [Ctx.setS64]
@[simp] theorem Ctx.putS64_ended (c : Ctx) (w : Core) (n : Nat) (x : Word64) : (c.putS64 w n x).ended = c.ended := by
  unfold Ctx.putS64; simp only [Ctx.advance_ended]; split <;> simp [Ctx.setS64]
@[simp] theorem Ctx.putS64_regError (c : Ctx) (w : Core) (n : Nat) (x : Word64) : (c.putS64 w n x).regError = c.regError := by
  unfold Ctx.putS64; simp only [Ctx.advance_regError]; split <;> simp [Ctx.setS64]
@[simp] theorem Ctx.putS64_failed (c : Ctx) (w : Core) (n : Nat) (x : Word64) : (c.putS64 w n x).failed = c.failed := by
  unfold Ctx.putS64; simp only [Ctx.advance_failed]; split <;> simp [Ctx.setS64]
@[simp] theorem Ctx.putS64_resSeq (c : Ctx) (w : Core) (n : Nat) (x : Word64) : (c.putS64 w n x).resSeq = c.resSeq := by
  unfold Ctx.putS64; simp only [Ctx.advance_resSeq]; split <;> simp [Ctx.setS64]
@[simp] theorem Ctx.putS64_ready (c : Ctx) (w : Core) (n : Nat) (x : Word64) : (c.putS64 w n x).ready = c.ready := by
  unfold Ctx.putS64; simp only [Ctx.advance_ready]; split <;> simp [Ctx.setS64]
@[simp] theorem Ctx.putS64_lastIssue (c : Ctx) (w : Core) (n : Nat) (x : Word64) : (c.putS64 w n x).lastIssue = c.lastIssue := by
  unfold Ctx.putS64; simp only [Ctx.advance_lastIssue]; split <;> simp [Ctx.setS64]
@[simp] theorem Ctx.putS64_issueSeq (c : Ctx) (w : Core) (n : Nat) (x : Word64) : (c.putS64 w n x).issueSeq = c.issueSeq := by
  unfold Ctx.putS64; simp only [Ctx.advance_issueSeq]; split <;> simp [Ctx.setS64]
@[simp] theorem Ctx.putS64_whos (c : Ctx) (w : Core) (n : Nat) (x : Word64) : (c.putS64 w n x).whos = c.whos := by
  unfold Ctx.putS64; simp only [Ctx.advance_whos]; split <;> simp [Ctx.setS64]
@[simp] theorem Ctx.putS64_ckpts (c : Ctx) (w : Core) (n : Nat) (x : Word64) : (c.putS64 w n x).ckpts = c.ckpts := by
  unfold Ctx.putS64; simp only [Ctx.advance_ckpts]; split <;> simp [Ctx.setS64]
@[simp] theorem Ctx.putS64_born (c : Ctx) (w : Core) (n : Nat) (x : Word64) : (c.putS64 w n x).born = c.born := by
  unfold Ctx.putS64; simp only [Ctx.advance_born]; split <;> simp [Ctx.setS64]
@[simp] theorem Ctx.putS64_mrp (c : Ctx) (w : Core) (n : Nat) (x : Word64) : (c.putS64 w n x).mrp = c.mrp := by
  unfold Ctx.putS64; simp only [Ctx.advance_mrp]; split <;> simp [Ctx.setS64]
@[simp] theorem Ctx.putS64_mcp (c : Ctx) (w : Core) (n : Nat) (x : Word64) : (c.putS64 w n x).mcp = c.mcp := by
  unfold Ctx.putS64; simp only [Ctx.advance_mcp]; split <;> simp [Ctx.setS64]
@[simp] theorem Ctx.putS64_mkp (c : Ctx) (w : Core) (n : Nat) (x : Word64) : (c.putS64 w n x).mkp = c.mkp := by
  unfold Ctx.putS64; simp only [Ctx.advance_mkp]; split <;> simp [Ctx.setS64]
@[simp] theorem Ctx.putS64_loadErr (c : Ctx) (w : Core) (n : Nat) (x : Word64) : (c.putS64 w n x).loadErr = c.loadErr := by
  unfold Ctx.putS64; simp only [Ctx.advance_loadErr]; split <;> simp [Ctx.setS64]
@[simp] theorem Ctx.putS64_sig (c : Ctx) (w : Core) (n : Nat) (x : Word64) : (c.putS64 w n x).sig = c.sig := by
  unfold Ctx.putS64; simp only [Ctx.advance_sig]; split <;> simp [Ctx.setS64]

@[simp] theorem Ctx.putP_uid (c : Ctx) (w : Core) (m : Word) (n : Nat) (x : Word) : (c.putP w m n x).uid = c.uid := by
  unfold Ctx.putP; simp only [Ctx.advance_uid]; split <;> simp
@[simp] theorem Ctx.putP_kind (c : Ctx) (w : Core) (m : Word) (n : Nat) (x : Word) : (c.putP w m n x).kind = c.kind := by
  unfold Ctx.putP; simp only [Ctx.advance_kind]; split <;> simp
@[simp] theorem Ctx.putP_team (c : Ctx) (w : Core) (m : Word) (n : Nat) (x : Word) : (c.putP w m n x).team = c.team := by
  unfold Ctx.putP; simp only [Ctx.advance_team]; split <;> simp
@[simp] theorem Ctx.putP_grpid (c : Ctx) (w : Core) (m : Word) (n : Nat) (x : Word) : (c.putP w m n x).grpid = c.grpid := by
  unfold Ctx.putP; simp only [Ctx.advance_grpid]; split <;> simp
@[simp] theorem Ctx.putP_teamid (c : Ctx) (w : Core) (m : Word) (n : Nat) (x : Word) : (c.putP w m n x).teamid = c.teamid := by
  unfold Ctx.putP; simp only [Ctx.advance_teamid]; split <;> simp
@[simp] theorem Ctx.putP_clusid (c : Ctx) (w : Core) (m : Word) (n : Nat) (x : Word) : (c.putP w m n x).clusid = c.clusid := by
  unfold Ctx.putP; simp only [Ctx.advance_clusid]; split <;> simp
@[simp] theorem Ctx.putP_ngrp (c : Ctx) (w : Core) (m : Word) (n : Nat) (x : Word) : (c.putP w m n x).ngrp = c.ngrp := by
  unfold Ctx.putP; simp only [Ctx.advance_ngrp]; split <;> simp
@[simp] theorem Ctx.putP_loc (c : Ctx) (w : Core) (m : Word) (n : Nat) (x : Word) : (c.putP w m n x).loc = c.loc := by
  unfold Ctx.putP; simp only [Ctx.advance_loc]; split <;> simp
@[simp] theorem Ctx.putP_acq (c : Ctx) (w : Core) (m : Word) (n : Nat) (x : Word) : (c.putP w m n x).acq = c.acq := by
  unfold Ctx.putP; simp only [Ctx.advance_acq]; split <;> simp
@[simp] theorem Ctx.putP_v (c : Ctx) (w : Core) (m : Word) (n : Nat) (x : Word) : (c.putP w m n x).v = c.v := by
  unfold Ctx.putP; simp only [Ctx.advance_v]; split <;> simp
@[simp] theorem Ctx.putP_s (c : Ctx) (w : Core) (m : Word) (n : Nat) (x : Word) : (c.putP w m n x).s = c.s := by
  unfold Ctx.putP; simp only [Ctx.advance_s]; split <;> simp
@[simp] theorem Ctx.putP_mode (c : Ctx) (w : Core) (m : Word) (n : Nat) (x : Word) : (c.putP w m n x).mode = c.mode := by
  unfold Ctx.putP; simp only [Ctx.advance_mode]; split <;> simp
@[simp] theorem Ctx.putP_fsel (c : Ctx) (w : Core) (m : Word) (n : Nat) (x : Word) : (c.putP w m n x).fsel = c.fsel := by
  unfold Ctx.putP; simp only [Ctx.advance_fsel]; split <;> simp
@[simp] theorem Ctx.putP_ctr (c : Ctx) (w : Core) (m : Word) (n : Nat) (x : Word) : (c.putP w m n x).ctr = c.ctr := by
  unfold Ctx.putP; simp only [Ctx.advance_ctr]; split <;> simp
@[simp] theorem Ctx.putP_lastwct (c : Ctx) (w : Core) (m : Word) (n : Nat) (x : Word) : (c.putP w m n x).lastwct = c.lastwct := by
  unfold Ctx.putP; simp only [Ctx.advance_lastwct]; split <;> simp
@[simp] theorem Ctx.putP_sample (c : Ctx) (w : Core) (m : Word) (n : Nat) (x : Word) : (c.putP w m n x).sample = c.sample := by
  unfold Ctx.putP; simp only [Ctx.advance_sample]; split <;> simp
@[simp] theorem Ctx.putP_tcause (c : Ctx) (w : Core) (m : Word) (n : Nat) (x : Word) : (c.putP w m n x).tcause = c.tcause := by
  unfold Ctx.putP; simp only [Ctx.advance_tcause]; split <;> simp
@[simp] theorem Ctx.putP_epc (c : Ctx) (w : Core) (m : Word) (n : Nat) (x : Word) : (c.putP w m n x).epc = c.epc := by
  unfold Ctx.putP; simp only [Ctx.advance_epc]; split <;> simp
@[simp] theorem Ctx.putP_tvec (c : Ctx) (w : Core) (m : Word) (n : Nat) (x : Word) : (c.putP w m n x).tvec = c.tvec := by
  unfold Ctx.putP; simp only [Ctx.advance_tvec]; split <;> simp
@[simp] theorem Ctx.putP_tval (c : Ctx) (w : Core) (m : Word) (n : Nat) (x : Word) : (c.putP w m n x).tval = c.tval := by
  unfold Ctx.putP; simp only [Ctx.advance_tval]; split <;> simp
@[simp] theorem Ctx.putP_tlanes (c : Ctx) (w : Core) (m : Word) (n : Nat) (x : Word) : (c.putP w m n x).tlanes = c.tlanes := by
  unfold Ctx.putP; simp only [Ctx.advance_tlanes]; split <;> simp
@[simp] theorem Ctx.putP_priv (c : Ctx) (w : Core) (m : Word) (n : Nat) (x : Word) : (c.putP w m n x).priv = c.priv := by
  unfold Ctx.putP; simp only [Ctx.advance_priv]; split <;> simp
@[simp] theorem Ctx.putP_svec (c : Ctx) (w : Core) (m : Word) (n : Nat) (x : Word) : (c.putP w m n x).svec = c.svec := by
  unfold Ctx.putP; simp only [Ctx.advance_svec]; split <;> simp
@[simp] theorem Ctx.putP_srsel (c : Ctx) (w : Core) (m : Word) (n : Nat) (x : Word) : (c.putP w m n x).srsel = c.srsel := by
  unfold Ctx.putP; simp only [Ctx.advance_srsel]; split <;> simp
@[simp] theorem Ctx.putP_dbgctl (c : Ctx) (w : Core) (m : Word) (n : Nat) (x : Word) : (c.putP w m n x).dbgctl = c.dbgctl := by
  unfold Ctx.putP; simp only [Ctx.advance_dbgctl]; split <;> simp
@[simp] theorem Ctx.putP_saved (c : Ctx) (w : Core) (m : Word) (n : Nat) (x : Word) : (c.putP w m n x).saved = c.saved := by
  unfold Ctx.putP; simp only [Ctx.advance_saved]; split <;> simp
@[simp] theorem Ctx.putP_copyErrs (c : Ctx) (w : Core) (m : Word) (n : Nat) (x : Word) : (c.putP w m n x).copyErrs = c.copyErrs := by
  unfold Ctx.putP; simp only [Ctx.advance_copyErrs]; split <;> simp
@[simp] theorem Ctx.putP_owedTrap (c : Ctx) (w : Core) (m : Word) (n : Nat) (x : Word) : (c.putP w m n x).owedTrap = c.owedTrap := by
  unfold Ctx.putP; simp only [Ctx.advance_owedTrap]; split <;> simp
@[simp] theorem Ctx.putP_abandonTaken (c : Ctx) (w : Core) (m : Word) (n : Nat) (x : Word) : (c.putP w m n x).abandonTaken = c.abandonTaken := by
  unfold Ctx.putP; simp only [Ctx.advance_abandonTaken]; split <;> simp
@[simp] theorem Ctx.putP_halted (c : Ctx) (w : Core) (m : Word) (n : Nat) (x : Word) : (c.putP w m n x).halted = c.halted := by
  unfold Ctx.putP; simp only [Ctx.advance_halted]; split <;> simp
@[simp] theorem Ctx.putP_ended (c : Ctx) (w : Core) (m : Word) (n : Nat) (x : Word) : (c.putP w m n x).ended = c.ended := by
  unfold Ctx.putP; simp only [Ctx.advance_ended]; split <;> simp
@[simp] theorem Ctx.putP_regError (c : Ctx) (w : Core) (m : Word) (n : Nat) (x : Word) : (c.putP w m n x).regError = c.regError := by
  unfold Ctx.putP; simp only [Ctx.advance_regError]; split <;> simp
@[simp] theorem Ctx.putP_failed (c : Ctx) (w : Core) (m : Word) (n : Nat) (x : Word) : (c.putP w m n x).failed = c.failed := by
  unfold Ctx.putP; simp only [Ctx.advance_failed]; split <;> simp
@[simp] theorem Ctx.putP_resSeq (c : Ctx) (w : Core) (m : Word) (n : Nat) (x : Word) : (c.putP w m n x).resSeq = c.resSeq := by
  unfold Ctx.putP; simp only [Ctx.advance_resSeq]; split <;> simp
@[simp] theorem Ctx.putP_ready (c : Ctx) (w : Core) (m : Word) (n : Nat) (x : Word) : (c.putP w m n x).ready = c.ready := by
  unfold Ctx.putP; simp only [Ctx.advance_ready]; split <;> simp
@[simp] theorem Ctx.putP_lastIssue (c : Ctx) (w : Core) (m : Word) (n : Nat) (x : Word) : (c.putP w m n x).lastIssue = c.lastIssue := by
  unfold Ctx.putP; simp only [Ctx.advance_lastIssue]; split <;> simp
@[simp] theorem Ctx.putP_issueSeq (c : Ctx) (w : Core) (m : Word) (n : Nat) (x : Word) : (c.putP w m n x).issueSeq = c.issueSeq := by
  unfold Ctx.putP; simp only [Ctx.advance_issueSeq]; split <;> simp
@[simp] theorem Ctx.putP_whos (c : Ctx) (w : Core) (m : Word) (n : Nat) (x : Word) : (c.putP w m n x).whos = c.whos := by
  unfold Ctx.putP; simp only [Ctx.advance_whos]; split <;> simp
@[simp] theorem Ctx.putP_ckpts (c : Ctx) (w : Core) (m : Word) (n : Nat) (x : Word) : (c.putP w m n x).ckpts = c.ckpts := by
  unfold Ctx.putP; simp only [Ctx.advance_ckpts]; split <;> simp
@[simp] theorem Ctx.putP_born (c : Ctx) (w : Core) (m : Word) (n : Nat) (x : Word) : (c.putP w m n x).born = c.born := by
  unfold Ctx.putP; simp only [Ctx.advance_born]; split <;> simp
@[simp] theorem Ctx.putP_mrp (c : Ctx) (w : Core) (m : Word) (n : Nat) (x : Word) : (c.putP w m n x).mrp = c.mrp := by
  unfold Ctx.putP; simp only [Ctx.advance_mrp]; split <;> simp
@[simp] theorem Ctx.putP_mcp (c : Ctx) (w : Core) (m : Word) (n : Nat) (x : Word) : (c.putP w m n x).mcp = c.mcp := by
  unfold Ctx.putP; simp only [Ctx.advance_mcp]; split <;> simp
@[simp] theorem Ctx.putP_mkp (c : Ctx) (w : Core) (m : Word) (n : Nat) (x : Word) : (c.putP w m n x).mkp = c.mkp := by
  unfold Ctx.putP; simp only [Ctx.advance_mkp]; split <;> simp
@[simp] theorem Ctx.putP_loadErr (c : Ctx) (w : Core) (m : Word) (n : Nat) (x : Word) : (c.putP w m n x).loadErr = c.loadErr := by
  unfold Ctx.putP; simp only [Ctx.advance_loadErr]; split <;> simp
@[simp] theorem Ctx.putP_sig (c : Ctx) (w : Core) (m : Word) (n : Nat) (x : Word) : (c.putP w m n x).sig = c.sig := by
  unfold Ctx.putP; simp only [Ctx.advance_sig]; split <;> simp

@[simp] theorem Ctx.putV64_uid (c : Ctx) (w : Core) (m : Word) (n : Nat) (x : List Word64) : (c.putV64 w m n x).uid = c.uid := by
  unfold Ctx.putV64; simp only [Ctx.advance_uid]; split <;> simp
@[simp] theorem Ctx.putV64_kind (c : Ctx) (w : Core) (m : Word) (n : Nat) (x : List Word64) : (c.putV64 w m n x).kind = c.kind := by
  unfold Ctx.putV64; simp only [Ctx.advance_kind]; split <;> simp
@[simp] theorem Ctx.putV64_team (c : Ctx) (w : Core) (m : Word) (n : Nat) (x : List Word64) : (c.putV64 w m n x).team = c.team := by
  unfold Ctx.putV64; simp only [Ctx.advance_team]; split <;> simp
@[simp] theorem Ctx.putV64_grpid (c : Ctx) (w : Core) (m : Word) (n : Nat) (x : List Word64) : (c.putV64 w m n x).grpid = c.grpid := by
  unfold Ctx.putV64; simp only [Ctx.advance_grpid]; split <;> simp
@[simp] theorem Ctx.putV64_teamid (c : Ctx) (w : Core) (m : Word) (n : Nat) (x : List Word64) : (c.putV64 w m n x).teamid = c.teamid := by
  unfold Ctx.putV64; simp only [Ctx.advance_teamid]; split <;> simp
@[simp] theorem Ctx.putV64_clusid (c : Ctx) (w : Core) (m : Word) (n : Nat) (x : List Word64) : (c.putV64 w m n x).clusid = c.clusid := by
  unfold Ctx.putV64; simp only [Ctx.advance_clusid]; split <;> simp
@[simp] theorem Ctx.putV64_ngrp (c : Ctx) (w : Core) (m : Word) (n : Nat) (x : List Word64) : (c.putV64 w m n x).ngrp = c.ngrp := by
  unfold Ctx.putV64; simp only [Ctx.advance_ngrp]; split <;> simp
@[simp] theorem Ctx.putV64_loc (c : Ctx) (w : Core) (m : Word) (n : Nat) (x : List Word64) : (c.putV64 w m n x).loc = c.loc := by
  unfold Ctx.putV64; simp only [Ctx.advance_loc]; split <;> simp
@[simp] theorem Ctx.putV64_acq (c : Ctx) (w : Core) (m : Word) (n : Nat) (x : List Word64) : (c.putV64 w m n x).acq = c.acq := by
  unfold Ctx.putV64; simp only [Ctx.advance_acq]; split <;> simp
@[simp] theorem Ctx.putV64_s (c : Ctx) (w : Core) (m : Word) (n : Nat) (x : List Word64) : (c.putV64 w m n x).s = c.s := by
  unfold Ctx.putV64; simp only [Ctx.advance_s]; split <;> simp
@[simp] theorem Ctx.putV64_p (c : Ctx) (w : Core) (m : Word) (n : Nat) (x : List Word64) : (c.putV64 w m n x).p = c.p := by
  unfold Ctx.putV64; simp only [Ctx.advance_p]; split <;> simp
@[simp] theorem Ctx.putV64_mode (c : Ctx) (w : Core) (m : Word) (n : Nat) (x : List Word64) : (c.putV64 w m n x).mode = c.mode := by
  unfold Ctx.putV64; simp only [Ctx.advance_mode]; split <;> simp
@[simp] theorem Ctx.putV64_fsel (c : Ctx) (w : Core) (m : Word) (n : Nat) (x : List Word64) : (c.putV64 w m n x).fsel = c.fsel := by
  unfold Ctx.putV64; simp only [Ctx.advance_fsel]; split <;> simp
@[simp] theorem Ctx.putV64_ctr (c : Ctx) (w : Core) (m : Word) (n : Nat) (x : List Word64) : (c.putV64 w m n x).ctr = c.ctr := by
  unfold Ctx.putV64; simp only [Ctx.advance_ctr]; split <;> simp
@[simp] theorem Ctx.putV64_lastwct (c : Ctx) (w : Core) (m : Word) (n : Nat) (x : List Word64) : (c.putV64 w m n x).lastwct = c.lastwct := by
  unfold Ctx.putV64; simp only [Ctx.advance_lastwct]; split <;> simp
@[simp] theorem Ctx.putV64_sample (c : Ctx) (w : Core) (m : Word) (n : Nat) (x : List Word64) : (c.putV64 w m n x).sample = c.sample := by
  unfold Ctx.putV64; simp only [Ctx.advance_sample]; split <;> simp
@[simp] theorem Ctx.putV64_tcause (c : Ctx) (w : Core) (m : Word) (n : Nat) (x : List Word64) : (c.putV64 w m n x).tcause = c.tcause := by
  unfold Ctx.putV64; simp only [Ctx.advance_tcause]; split <;> simp
@[simp] theorem Ctx.putV64_epc (c : Ctx) (w : Core) (m : Word) (n : Nat) (x : List Word64) : (c.putV64 w m n x).epc = c.epc := by
  unfold Ctx.putV64; simp only [Ctx.advance_epc]; split <;> simp
@[simp] theorem Ctx.putV64_tvec (c : Ctx) (w : Core) (m : Word) (n : Nat) (x : List Word64) : (c.putV64 w m n x).tvec = c.tvec := by
  unfold Ctx.putV64; simp only [Ctx.advance_tvec]; split <;> simp
@[simp] theorem Ctx.putV64_tval (c : Ctx) (w : Core) (m : Word) (n : Nat) (x : List Word64) : (c.putV64 w m n x).tval = c.tval := by
  unfold Ctx.putV64; simp only [Ctx.advance_tval]; split <;> simp
@[simp] theorem Ctx.putV64_tlanes (c : Ctx) (w : Core) (m : Word) (n : Nat) (x : List Word64) : (c.putV64 w m n x).tlanes = c.tlanes := by
  unfold Ctx.putV64; simp only [Ctx.advance_tlanes]; split <;> simp
@[simp] theorem Ctx.putV64_priv (c : Ctx) (w : Core) (m : Word) (n : Nat) (x : List Word64) : (c.putV64 w m n x).priv = c.priv := by
  unfold Ctx.putV64; simp only [Ctx.advance_priv]; split <;> simp
@[simp] theorem Ctx.putV64_svec (c : Ctx) (w : Core) (m : Word) (n : Nat) (x : List Word64) : (c.putV64 w m n x).svec = c.svec := by
  unfold Ctx.putV64; simp only [Ctx.advance_svec]; split <;> simp
@[simp] theorem Ctx.putV64_srsel (c : Ctx) (w : Core) (m : Word) (n : Nat) (x : List Word64) : (c.putV64 w m n x).srsel = c.srsel := by
  unfold Ctx.putV64; simp only [Ctx.advance_srsel]; split <;> simp
@[simp] theorem Ctx.putV64_dbgctl (c : Ctx) (w : Core) (m : Word) (n : Nat) (x : List Word64) : (c.putV64 w m n x).dbgctl = c.dbgctl := by
  unfold Ctx.putV64; simp only [Ctx.advance_dbgctl]; split <;> simp
@[simp] theorem Ctx.putV64_saved (c : Ctx) (w : Core) (m : Word) (n : Nat) (x : List Word64) : (c.putV64 w m n x).saved = c.saved := by
  unfold Ctx.putV64; simp only [Ctx.advance_saved]; split <;> simp
@[simp] theorem Ctx.putV64_copyErrs (c : Ctx) (w : Core) (m : Word) (n : Nat) (x : List Word64) : (c.putV64 w m n x).copyErrs = c.copyErrs := by
  unfold Ctx.putV64; simp only [Ctx.advance_copyErrs]; split <;> simp
@[simp] theorem Ctx.putV64_owedTrap (c : Ctx) (w : Core) (m : Word) (n : Nat) (x : List Word64) : (c.putV64 w m n x).owedTrap = c.owedTrap := by
  unfold Ctx.putV64; simp only [Ctx.advance_owedTrap]; split <;> simp
@[simp] theorem Ctx.putV64_abandonTaken (c : Ctx) (w : Core) (m : Word) (n : Nat) (x : List Word64) : (c.putV64 w m n x).abandonTaken = c.abandonTaken := by
  unfold Ctx.putV64; simp only [Ctx.advance_abandonTaken]; split <;> simp
@[simp] theorem Ctx.putV64_halted (c : Ctx) (w : Core) (m : Word) (n : Nat) (x : List Word64) : (c.putV64 w m n x).halted = c.halted := by
  unfold Ctx.putV64; simp only [Ctx.advance_halted]; split <;> simp
@[simp] theorem Ctx.putV64_ended (c : Ctx) (w : Core) (m : Word) (n : Nat) (x : List Word64) : (c.putV64 w m n x).ended = c.ended := by
  unfold Ctx.putV64; simp only [Ctx.advance_ended]; split <;> simp
@[simp] theorem Ctx.putV64_regError (c : Ctx) (w : Core) (m : Word) (n : Nat) (x : List Word64) : (c.putV64 w m n x).regError = c.regError := by
  unfold Ctx.putV64; simp only [Ctx.advance_regError]; split <;> simp
@[simp] theorem Ctx.putV64_failed (c : Ctx) (w : Core) (m : Word) (n : Nat) (x : List Word64) : (c.putV64 w m n x).failed = c.failed := by
  unfold Ctx.putV64; simp only [Ctx.advance_failed]; split <;> simp
@[simp] theorem Ctx.putV64_resSeq (c : Ctx) (w : Core) (m : Word) (n : Nat) (x : List Word64) : (c.putV64 w m n x).resSeq = c.resSeq := by
  unfold Ctx.putV64; simp only [Ctx.advance_resSeq]; split <;> simp
@[simp] theorem Ctx.putV64_ready (c : Ctx) (w : Core) (m : Word) (n : Nat) (x : List Word64) : (c.putV64 w m n x).ready = c.ready := by
  unfold Ctx.putV64; simp only [Ctx.advance_ready]; split <;> simp
@[simp] theorem Ctx.putV64_lastIssue (c : Ctx) (w : Core) (m : Word) (n : Nat) (x : List Word64) : (c.putV64 w m n x).lastIssue = c.lastIssue := by
  unfold Ctx.putV64; simp only [Ctx.advance_lastIssue]; split <;> simp
@[simp] theorem Ctx.putV64_issueSeq (c : Ctx) (w : Core) (m : Word) (n : Nat) (x : List Word64) : (c.putV64 w m n x).issueSeq = c.issueSeq := by
  unfold Ctx.putV64; simp only [Ctx.advance_issueSeq]; split <;> simp
@[simp] theorem Ctx.putV64_whos (c : Ctx) (w : Core) (m : Word) (n : Nat) (x : List Word64) : (c.putV64 w m n x).whos = c.whos := by
  unfold Ctx.putV64; simp only [Ctx.advance_whos]; split <;> simp
@[simp] theorem Ctx.putV64_ckpts (c : Ctx) (w : Core) (m : Word) (n : Nat) (x : List Word64) : (c.putV64 w m n x).ckpts = c.ckpts := by
  unfold Ctx.putV64; simp only [Ctx.advance_ckpts]; split <;> simp
@[simp] theorem Ctx.putV64_born (c : Ctx) (w : Core) (m : Word) (n : Nat) (x : List Word64) : (c.putV64 w m n x).born = c.born := by
  unfold Ctx.putV64; simp only [Ctx.advance_born]; split <;> simp
@[simp] theorem Ctx.putV64_mrp (c : Ctx) (w : Core) (m : Word) (n : Nat) (x : List Word64) : (c.putV64 w m n x).mrp = c.mrp := by
  unfold Ctx.putV64; simp only [Ctx.advance_mrp]; split <;> simp
@[simp] theorem Ctx.putV64_mcp (c : Ctx) (w : Core) (m : Word) (n : Nat) (x : List Word64) : (c.putV64 w m n x).mcp = c.mcp := by
  unfold Ctx.putV64; simp only [Ctx.advance_mcp]; split <;> simp
@[simp] theorem Ctx.putV64_mkp (c : Ctx) (w : Core) (m : Word) (n : Nat) (x : List Word64) : (c.putV64 w m n x).mkp = c.mkp := by
  unfold Ctx.putV64; simp only [Ctx.advance_mkp]; split <;> simp
@[simp] theorem Ctx.putV64_loadErr (c : Ctx) (w : Core) (m : Word) (n : Nat) (x : List Word64) : (c.putV64 w m n x).loadErr = c.loadErr := by
  unfold Ctx.putV64; simp only [Ctx.advance_loadErr]; split <;> simp
@[simp] theorem Ctx.putV64_sig (c : Ctx) (w : Core) (m : Word) (n : Nat) (x : List Word64) : (c.putV64 w m n x).sig = c.sig := by
  unfold Ctx.putV64; simp only [Ctx.advance_sig]; split <;> simp

@[simp] theorem Ctx.putS_s (c : Ctx) (w : Core) (n : Nat) (x : Word) :
    (c.putS w n x).s = if w.nowb then c.s else Cells.set 0 c.s w.dst.toNat x := by
  unfold Ctx.putS; simp only [Ctx.advance_s]; split <;> rfl

@[simp] theorem Ctx.putP_p (c : Ctx) (w : Core) (m : Word) (n : Nat) (x : Word) :
    (c.putP w m n x).p = if w.nowb then c.p else (c.setP w.dst.toNat m x).p := by
  unfold Ctx.putP; simp only [Ctx.advance_p]; split <;> rfl

/-! ### Traps (R153, R155) -/

/-- Taking a trap outside a handler, with a vector, in a group (R153). -/
theorem State.raise_taken (s : State) (t : Trap) (hk : s.cur.kind = .group) (hi : s.cur.inh = false)
    (hv : s.cur.tvec ≠ 0) :
    ∃ clause frags saved, s.raise t = { s with
      cur := { s.cur with epc := s.cur.instrPc, tcause := s.cur.causeOf t true, tval := t.tval,
                          tlanes := t.lanes.getD s.cur.exm, saved, clause, stall := none, frags } } := by
  refine ⟨{}, s.cur.frags.set s.cur.fsel (some { s.cur.frag with pc := s.cur.tvec }),
    some { epc := s.cur.instrPc, clause := if s.cur.clause.isOpen then s.cur.clause else {}, amask := s.cur.exm }, ?_⟩
  unfold State.raise State.enterTrap
  simp only [hk, hi]
  rw [if_neg (by simpa using hv)]
  rfl

end Sys2Proof.Machine
end

