-- ==== Sys2Proof/Laws/PerInstr.lean ====
section
/-! SUPPORT. The family OfEnc: the constructor that an instruction's fields name is the instruction's own. -/

namespace Sys2Proof.Laws.OfEnc

/-- An instruction is read back from its fields (R58 to R60). -/
def Statement (i : Instr) : Prop := ∀ n, i.enc = some n → Instr.ofEnc n = some i

theorem iadd (x : Short) : Statement (.iadd x) := by intro n h; cases h; rfl
theorem iaddLong (x : Long) : Statement (.iaddLong x) := by intro n h; cases h; rfl
theorem isub (x : Short) : Statement (.isub x) := by intro n h; cases h; rfl
theorem isubLong (x : Long) : Statement (.isubLong x) := by intro n h; cases h; rfl
theorem imul (x : Short) : Statement (.imul x) := by intro n h; cases h; rfl
theorem imulLong (x : Long) : Statement (.imulLong x) := by intro n h; cases h; rfl
theorem imulh (x : Short) : Statement (.imulh x) := by intro n h; cases h; rfl
theorem imulhLong (x : Long) : Statement (.imulhLong x) := by intro n h; cases h; rfl
theorem imad (x : Long) : Statement (.imad x) := by intro n h; cases h; rfl
theorem imin (x : Short) : Statement (.imin x) := by intro n h; cases h; rfl
theorem iminLong (x : Long) : Statement (.iminLong x) := by intro n h; cases h; rfl
theorem imax (x : Short) : Statement (.imax x) := by intro n h; cases h; rfl
theorem imaxLong (x : Long) : Statement (.imaxLong x) := by intro n h; cases h; rfl
theorem iabs (x : Short) : Statement (.iabs x) := by intro n h; cases h; rfl
theorem iabsLong (x : Long) : Statement (.iabsLong x) := by intro n h; cases h; rfl
theorem ineg (x : Short) : Statement (.ineg x) := by intro n h; cases h; rfl
theorem inegLong (x : Long) : Statement (.inegLong x) := by intro n h; cases h; rfl
theorem and (x : Short) : Statement (.and x) := by intro n h; cases h; rfl
theorem andLong (x : Long) : Statement (.andLong x) := by intro n h; cases h; rfl
theorem or (x : Short) : Statement (.or x) := by intro n h; cases h; rfl
theorem orLong (x : Long) : Statement (.orLong x) := by intro n h; cases h; rfl
theorem xor (x : Short) : Statement (.xor x) := by intro n h; cases h; rfl
theorem xorLong (x : Long) : Statement (.xorLong x) := by intro n h; cases h; rfl
theorem not (x : Short) : Statement (.not x) := by intro n h; cases h; rfl
theorem notLong (x : Long) : Statement (.notLong x) := by intro n h; cases h; rfl
theorem shl (x : Short) : Statement (.shl x) := by intro n h; cases h; rfl
theorem shlLong (x : Long) : Statement (.shlLong x) := by intro n h; cases h; rfl
theorem shr (x : Short) : Statement (.shr x) := by intro n h; cases h; rfl
theorem shrLong (x : Long) : Statement (.shrLong x) := by intro n h; cases h; rfl
theorem sar (x : Short) : Statement (.sar x) := by intro n h; cases h; rfl
theorem sarLong (x : Long) : Statement (.sarLong x) := by intro n h; cases h; rfl
theorem rotl (x : Short) : Statement (.rotl x) := by intro n h; cases h; rfl
theorem rotlLong (x : Long) : Statement (.rotlLong x) := by intro n h; cases h; rfl
theorem bfe (x : Long) : Statement (.bfe x) := by intro n h; cases h; rfl
theorem bfi (x : Long) : Statement (.bfi x) := by intro n h; cases h; rfl
theorem popc (x : Short) : Statement (.popc x) := by intro n h; cases h; rfl
theorem popcLong (x : Long) : Statement (.popcLong x) := by intro n h; cases h; rfl
theorem clz (x : Short) : Statement (.clz x) := by intro n h; cases h; rfl
theorem clzLong (x : Long) : Statement (.clzLong x) := by intro n h; cases h; rfl
theorem brev (x : Short) : Statement (.brev x) := by intro n h; cases h; rfl
theorem brevLong (x : Long) : Statement (.brevLong x) := by intro n h; cases h; rfl
theorem icmp (x : Long) : Statement (.icmp x) := by intro n h; cases h; rfl
theorem sel (x : Long) : Statement (.sel x) := by intro n h; cases h; rfl
theorem mov (x : Short) : Statement (.mov x) := by intro n h; cases h; rfl
theorem movLong (x : Long) : Statement (.movLong x) := by intro n h; cases h; rfl
theorem smov (x : Short) : Statement (.smov x) := by intro n h; cases h; rfl
theorem smovLong (x : Long) : Statement (.smovLong x) := by intro n h; cases h; rfl
theorem ladd (x : Short) : Statement (.ladd x) := by intro n h; cases h; rfl
theorem laddLong (x : Long) : Statement (.laddLong x) := by intro n h; cases h; rfl
theorem lsub (x : Short) : Statement (.lsub x) := by intro n h; cases h; rfl
theorem lsubLong (x : Long) : Statement (.lsubLong x) := by intro n h; cases h; rfl
theorem lmad (x : Long) : Statement (.lmad x) := by intro n h; cases h; rfl
theorem dp4 (x : Long) : Statement (.dp4 x) := by intro n h; cases h; rfl
theorem dp2 (x : Long) : Statement (.dp2 x) := by intro n h; cases h; rfl
theorem fadd (x : Short) : Statement (.fadd x) := by intro n h; cases h; rfl
theorem faddLong (x : Long) : Statement (.faddLong x) := by intro n h; cases h; rfl
theorem fsub (x : Short) : Statement (.fsub x) := by intro n h; cases h; rfl
theorem fsubLong (x : Long) : Statement (.fsubLong x) := by intro n h; cases h; rfl
theorem fmul (x : Short) : Statement (.fmul x) := by intro n h; cases h; rfl
theorem fmulLong (x : Long) : Statement (.fmulLong x) := by intro n h; cases h; rfl
theorem ffma (x : Long) : Statement (.ffma x) := by intro n h; cases h; rfl
theorem fmin (x : Short) : Statement (.fmin x) := by intro n h; cases h; rfl
theorem fminLong (x : Long) : Statement (.fminLong x) := by intro n h; cases h; rfl
theorem fmax (x : Short) : Statement (.fmax x) := by intro n h; cases h; rfl
theorem fmaxLong (x : Long) : Statement (.fmaxLong x) := by intro n h; cases h; rfl
theorem fabs (x : Short) : Statement (.fabs x) := by intro n h; cases h; rfl
theorem fabsLong (x : Long) : Statement (.fabsLong x) := by intro n h; cases h; rfl
theorem fneg (x : Short) : Statement (.fneg x) := by intro n h; cases h; rfl
theorem fnegLong (x : Long) : Statement (.fnegLong x) := by intro n h; cases h; rfl
theorem fcmp (x : Long) : Statement (.fcmp x) := by intro n h; cases h; rfl
theorem fclass (x : Short) : Statement (.fclass x) := by intro n h; cases h; rfl
theorem fclassLong (x : Long) : Statement (.fclassLong x) := by intro n h; cases h; rfl
theorem cvt (x : Long) : Statement (.cvt x) := by intro n h; cases h; rfl
theorem pack (x : Long) : Statement (.pack x) := by intro n h; cases h; rfl
theorem unpk (x : Long) : Statement (.unpk x) := by intro n h; cases h; rfl
theorem frcp (x : Short) : Statement (.frcp x) := by intro n h; cases h; rfl
theorem frcpLong (x : Long) : Statement (.frcpLong x) := by intro n h; cases h; rfl
theorem frsq (x : Short) : Statement (.frsq x) := by intro n h; cases h; rfl
theorem frsqLong (x : Long) : Statement (.frsqLong x) := by intro n h; cases h; rfl
theorem fsqrt (x : Short) : Statement (.fsqrt x) := by intro n h; cases h; rfl
theorem fsqrtLong (x : Long) : Statement (.fsqrtLong x) := by intro n h; cases h; rfl
theorem fdiv (x : Short) : Statement (.fdiv x) := by intro n h; cases h; rfl
theorem fdivLong (x : Long) : Statement (.fdivLong x) := by intro n h; cases h; rfl
theorem fexp2 (x : Short) : Statement (.fexp2 x) := by intro n h; cases h; rfl
theorem fexp2Long (x : Long) : Statement (.fexp2Long x) := by intro n h; cases h; rfl
theorem flog2 (x : Short) : Statement (.flog2 x) := by intro n h; cases h; rfl
theorem flog2Long (x : Long) : Statement (.flog2Long x) := by intro n h; cases h; rfl
theorem fsin (x : Short) : Statement (.fsin x) := by intro n h; cases h; rfl
theorem fsinLong (x : Long) : Statement (.fsinLong x) := by intro n h; cases h; rfl
theorem fcos (x : Short) : Statement (.fcos x) := by intro n h; cases h; rfl
theorem fcosLong (x : Long) : Statement (.fcosLong x) := by intro n h; cases h; rfl
theorem ftanh (x : Short) : Statement (.ftanh x) := by intro n h; cases h; rfl
theorem ftanhLong (x : Long) : Statement (.ftanhLong x) := by intro n h; cases h; rfl
theorem fdot2 (x : Long) : Statement (.fdot2 x) := by intro n h; cases h; rfl
theorem frint (x : Short) : Statement (.frint x) := by intro n h; cases h; rfl
theorem frintLong (x : Long) : Statement (.frintLong x) := by intro n h; cases h; rfl
theorem fscale (x : Short) : Statement (.fscale x) := by intro n h; cases h; rfl
theorem fscaleLong (x : Long) : Statement (.fscaleLong x) := by intro n h; cases h; rfl
theorem fsgn (x : Short) : Statement (.fsgn x) := by intro n h; cases h; rfl
theorem fsgnLong (x : Long) : Statement (.fsgnLong x) := by intro n h; cases h; rfl
theorem vote (x : Long) : Statement (.vote x) := by intro n h; cases h; rfl
theorem ballot (x : Short) : Statement (.ballot x) := by intro n h; cases h; rfl
theorem ballotLong (x : Long) : Statement (.ballotLong x) := by intro n h; cases h; rfl
theorem bcast (x : Short) : Statement (.bcast x) := by intro n h; cases h; rfl
theorem bcastLong (x : Long) : Statement (.bcastLong x) := by intro n h; cases h; rfl
theorem shfl (x : Short) : Statement (.shfl x) := by intro n h; cases h; rfl
theorem shflLong (x : Long) : Statement (.shflLong x) := by intro n h; cases h; rfl
theorem radd (x : Short) : Statement (.radd x) := by intro n h; cases h; rfl
theorem raddLong (x : Long) : Statement (.raddLong x) := by intro n h; cases h; rfl
theorem rext (x : Long) : Statement (.rext x) := by intro n h; cases h; rfl
theorem scan (x : Long) : Statement (.scan x) := by intro n h; cases h; rfl
theorem nbr (x : Long) : Statement (.nbr x) := by intro n h; cases h; rfl
theorem ld (x : Mem) : Statement (.ld x) := by intro n h; cases h; rfl
theorem st (x : Mem) : Statement (.st x) := by intro n h; cases h; rfl
theorem lds (x : Mem) : Statement (.lds x) := by intro n h; cases h; rfl
theorem sts (x : Mem) : Statement (.sts x) := by intro n h; cases h; rfl
theorem ldv (x : Mem) : Statement (.ldv x) := by intro n h; cases h; rfl
theorem stv (x : Mem) : Statement (.stv x) := by intro n h; cases h; rfl
theorem pref (x : Mem) : Statement (.pref x) := by intro n h; cases h; rfl
theorem acopy (x : Mem) : Statement (.acopy x) := by intro n h; cases h; rfl
theorem ldsc (x : Mem) : Statement (.ldsc x) := by intro n h; cases h; rfl
theorem obst (x : Mem) : Statement (.obst x) := by intro n h; cases h; rfl
theorem obld (x : Mem) : Statement (.obld x) := by intro n h; cases h; rfl
theorem atom (x : Mem) : Statement (.atom x) := by intro n h; cases h; rfl
theorem ared (x : Mem) : Statement (.ared x) := by intro n h; cases h; rfl
theorem afadd (x : Mem) : Statement (.afadd x) := by intro n h; cases h; rfl
theorem afred (x : Mem) : Statement (.afred x) := by intro n h; cases h; rfl
theorem abin (x : Mem) : Statement (.abin x) := by intro n h; cases h; rfl
theorem cas (x : Mem) : Statement (.cas x) := by intro n h; cases h; rfl
theorem cas64 (x : Mem) : Statement (.cas64 x) := by intro n h; cases h; rfl
theorem cas128 (x : Mem) : Statement (.cas128 x) := by intro n h; cases h; rfl
theorem mwait (x : Mem) : Statement (.mwait x) := by intro n h; cases h; rfl
theorem mclr (x : Mem) : Statement (.mclr x) := by intro n h; cases h; rfl
theorem fence (x : Mem) : Statement (.fence x) := by intro n h; cases h; rfl
theorem sfence (x : Mem) : Statement (.sfence x) := by intro n h; cases h; rfl
theorem jmp (x : Short) : Statement (.jmp x) := by intro n h; cases h; rfl
theorem bra (x : Long) : Statement (.bra x) := by intro n h; cases h; rfl
theorem bdiv (x : Long) : Statement (.bdiv x) := by intro n h; cases h; rfl
theorem call (x : Short) : Statement (.call x) := by intro n h; cases h; rfl
theorem ret (x : Short) : Statement (.ret x) := by intro n h; cases h; rfl
theorem exit (x : Short) : Statement (.exit x) := by intro n h; cases h; rfl
theorem wexm (x : Short) : Statement (.wexm x) := by intro n h; cases h; rfl
theorem rdidx (x : Short) : Statement (.rdidx x) := by intro n h; cases h; rfl
theorem wridx (x : Short) : Statement (.wridx x) := by intro n h; cases h; rfl
theorem waitc (x : Short) : Statement (.waitc x) := by intro n h; cases h; rfl
theorem wmode (x : Short) : Statement (.wmode x) := by intro n h; cases h; rfl
theorem racq (x : Short) : Statement (.racq x) := by intro n h; cases h; rfl
theorem rrel (x : Short) : Statement (.rrel x) := by intro n h; cases h; rfl
theorem nop (x : Short) : Statement (.nop x) := by intro n h; cases h; rfl
theorem susp (x : Short) : Statement (.susp x) := by intro n h; cases h; rfl
theorem fwake (x : Short) : Statement (.fwake x) := by intro n h; cases h; rfl
theorem fxform (x : Long) : Statement (.fxform x) := by intro n h; cases h; rfl
theorem fthr (x : Short) : Statement (.fthr x) := by intro n h; cases h; rfl
theorem fflush (x : Short) : Statement (.fflush x) := by intro n h; cases h; rfl
theorem bar (x : Short) : Statement (.bar x) := by intro n h; cases h; rfl
theorem arrive (x : Short) : Statement (.arrive x) := by intro n h; cases h; rfl
theorem bwait (x : Short) : Statement (.bwait x) := by intro n h; cases h; rfl
theorem binit (x : Short) : Statement (.binit x) := by intro n h; cases h; rfl
theorem fstat (x : Short) : Statement (.fstat x) := by intro n h; cases h; rfl
theorem mres (x : Eng) : Statement (.mres x) := by intro n h; cases h; rfl
theorem mrel (x : Eng) : Statement (.mrel x) := by intro n h; cases h; rfl
theorem mldb (x : Eng) : Statement (.mldb x) := by intro n h; cases h; rfl
theorem mpass (x : Eng) : Statement (.mpass x) := by intro n h; cases h; rfl
theorem mdrain (x : Eng) : Statement (.mdrain x) := by intro n h; cases h; rfl
theorem mpred (x : Eng) : Statement (.mpred x) := by intro n h; cases h; rfl
theorem msig (x : Eng) : Statement (.msig x) := by intro n h; cases h; rfl
theorem mfence (x : Eng) : Statement (.mfence x) := by intro n h; cases h; rfl
theorem board (x : Eng) : Statement (.board x) := by intro n h; cases h; rfl
theorem unboard (x : Eng) : Statement (.unboard x) := by intro n h; cases h; rfl
theorem itin (x : Eng) : Statement (.itin x) := by intro n h; cases h; rfl
theorem lapq (x : Eng) : Statement (.lapq x) := by intro n h; cases h; rfl
theorem coll (x : Eng) : Statement (.coll x) := by intro n h; cases h; rfl
theorem gmemb (x : Eng) : Statement (.gmemb x) := by intro n h; cases h; rfl
theorem launch (x : Eng) : Statement (.launch x) := by intro n h; cases h; rfl
theorem trap (x : Short) : Statement (.trap x) := by intro n h; cases h; rfl
theorem tret (x : Short) : Statement (.tret x) := by intro n h; cases h; rfl
theorem rdsys (x : Short) : Statement (.rdsys x) := by intro n h; cases h; rfl
theorem wrsys (x : Short) : Statement (.wrsys x) := by intro n h; cases h; rfl
theorem brk (x : Short) : Statement (.brk x) := by intro n h; cases h; rfl
theorem svc (x : Short) : Statement (.svc x) := by intro n h; cases h; rfl
theorem ill (x : Short) : Statement (.ill x) := by intro n h; cases h; rfl
theorem unassignedOpcode (w : Word) : Statement (.unassignedOpcode w) := by intro n h; cases h
theorem clauseFetch : Statement (.clauseFetch) := by intro n h; cases h
theorem clauseWaitPass : Statement (.clauseWaitPass) := by intro n h; cases h
theorem groupSlotFree : Statement (.groupSlotFree) := by intro n h; cases h
theorem debugResume : Statement (.debugResume) := by intro n h; cases h
theorem homeLoadPerform : Statement (.homeLoadPerform) := by intro n h; cases h
theorem loadReply : Statement (.loadReply) := by intro n h; cases h
theorem homeStorePerform : Statement (.homeStorePerform) := by intro n h; cases h
theorem storeWctReply : Statement (.storeWctReply) := by intro n h; cases h
theorem operationRetire : Statement (.operationRetire) := by intro n h; cases h
theorem pageReclassify : Statement (.pageReclassify) := by intro n h; cases h
theorem copyLaneTransfer : Statement (.copyLaneTransfer) := by intro n h; cases h
theorem homeAtomicPerform : Statement (.homeAtomicPerform) := by intro n h; cases h
theorem atomicReply : Statement (.atomicReply) := by intro n h; cases h
theorem hostReadCompletion : Statement (.hostReadCompletion) := by intro n h; cases h
theorem hostAtomicCompletion : Statement (.hostAtomicCompletion) := by intro n h; cases h
theorem monitorRegister : Statement (.monitorRegister) := by intro n h; cases h
theorem wakeRecord : Statement (.wakeRecord) := by intro n h; cases h
theorem wakeAck : Statement (.wakeAck) := by intro n h; cases h
theorem homeMigrationPass : Statement (.homeMigrationPass) := by intro n h; cases h
theorem homeMigrationSwitch : Statement (.homeMigrationSwitch) := by intro n h; cases h
theorem registerDeadlock : Statement (.registerDeadlock) := by intro n h; cases h
theorem racqGrant : Statement (.racqGrant) := by intro n h; cases h
theorem rowReturn : Statement (.rowReturn) := by intro n h; cases h
theorem flushTimeout : Statement (.flushTimeout) := by intro n h; cases h
theorem tileLoad : Statement (.tileLoad) := by intro n h; cases h
theorem checkpointLoad : Statement (.checkpointLoad) := by intro n h; cases h
theorem translationWalk : Statement (.translationWalk) := by intro n h; cases h
theorem pageRequestWrite : Statement (.pageRequestWrite) := by intro n h; cases h
theorem cmdInval : Statement (.cmdInval) := by intro n h; cases h
theorem cmdShard : Statement (.cmdShard) := by intro n h; cases h
theorem cmdDrop : Statement (.cmdDrop) := by intro n h; cases h
theorem cmdPartial : Statement (.cmdPartial) := by intro n h; cases h
theorem cmdEvict : Statement (.cmdEvict) := by intro n h; cases h
theorem cmdLocal : Statement (.cmdLocal) := by intro n h; cases h
theorem cmdPreply : Statement (.cmdPreply) := by intro n h; cases h
theorem stripeRequest : Statement (.stripeRequest) := by intro n h; cases h
theorem stripeRequestResend : Statement (.stripeRequestResend) := by intro n h; cases h
theorem stripeReply : Statement (.stripeReply) := by intro n h; cases h
theorem replayGroupLoad : Statement (.replayGroupLoad) := by intro n h; cases h
theorem peerSlow : Statement (.peerSlow) := by intro n h; cases h
theorem heartbeat : Statement (.heartbeat) := by intro n h; cases h
theorem memberSilenceTimeout : Statement (.memberSilenceTimeout) := by intro n h; cases h
theorem agreementProposal : Statement (.agreementProposal) := by intro n h; cases h
theorem agreementAccept : Statement (.agreementAccept) := by intro n h; cases h
theorem reduceStripeArrival : Statement (.reduceStripeArrival) := by intro n h; cases h
theorem reduceAcknowledgement : Statement (.reduceAcknowledgement) := by intro n h; cases h
theorem mldbFillComplete : Statement (.mldbFillComplete) := by intro n h; cases h
theorem arrayGrant : Statement (.arrayGrant) := by intro n h; cases h
theorem mpassComplete : Statement (.mpassComplete) := by intro n h; cases h
theorem mdrainComplete : Statement (.mdrainComplete) := by intro n h; cases h
theorem teamRetire : Statement (.teamRetire) := by intro n h; cases h
theorem lapBoundary : Statement (.lapBoundary) := by intro n h; cases h
theorem tileEmit : Statement (.tileEmit) := by intro n h; cases h
theorem boardReachStop : Statement (.boardReachStop) := by intro n h; cases h
theorem tileSighting : Statement (.tileSighting) := by intro n h; cases h
theorem ringRateSlow : Statement (.ringRateSlow) := by intro n h; cases h
theorem switchSlotRequest : Statement (.switchSlotRequest) := by intro n h; cases h
theorem collectiveDataArrival : Statement (.collectiveDataArrival) := by intro n h; cases h
theorem collectiveComplete : Statement (.collectiveComplete) := by intro n h; cases h
theorem collectiveArrive : Statement (.collectiveArrive) := by intro n h; cases h
theorem qsub : Statement (.qsub) := by intro n h; cases h
theorem clusterPlace : Statement (.clusterPlace) := by intro n h; cases h
theorem gridEnd : Statement (.gridEnd) := by intro n h; cases h
theorem quantumExpiry : Statement (.quantumExpiry) := by intro n h; cases h
theorem partitionHalted : Statement (.partitionHalted) := by intro n h; cases h
theorem swapOut : Statement (.swapOut) := by intro n h; cases h
theorem swapIn : Statement (.swapIn) := by intro n h; cases h
theorem watchdogExpiry : Statement (.watchdogExpiry) := by intro n h; cases h
theorem sliceLend : Statement (.sliceLend) := by intro n h; cases h
theorem sliceRecall : Statement (.sliceRecall) := by intro n h; cases h
theorem recallReturn : Statement (.recallReturn) := by intro n h; cases h
theorem ccarveWrite : Statement (.ccarveWrite) := by intro n h; cases h
theorem carveComplete : Statement (.carveComplete) := by intro n h; cases h
theorem fwmboxSetPartition : Statement (.fwmboxSetPartition) := by intro n h; cases h
theorem fwmboxBindFunction : Statement (.fwmboxBindFunction) := by intro n h; cases h
theorem fwmboxRecall : Statement (.fwmboxRecall) := by intro n h; cases h
theorem fwmboxCarve : Statement (.fwmboxCarve) := by intro n h; cases h
theorem fwmboxRemap : Statement (.fwmboxRemap) := by intro n h; cases h
theorem correctedDramError : Statement (.correctedDramError) := by intro n h; cases h
theorem errorFilterClear : Statement (.errorFilterClear) := by intro n h; cases h
theorem sramCorrectedError : Statement (.sramCorrectedError) := by intro n h; cases h
theorem uncorrectableError : Statement (.uncorrectableError) := by intro n h; cases h
theorem surveyorReplay : Statement (.surveyorReplay) := by intro n h; cases h
theorem linkDown : Statement (.linkDown) := by intro n h; cases h
theorem powerOn : Statement (.powerOn) := by intro n h; cases h
theorem bringUpComplete : Statement (.bringUpComplete) := by intro n h; cases h
theorem attestationRequest : Statement (.attestationRequest) := by intro n h; cases h
theorem powerArbiterPeriod : Statement (.powerArbiterPeriod) := by intro n h; cases h
theorem thermalThrottle : Statement (.thermalThrottle) := by intro n h; cases h
theorem thermalUnthrottle : Statement (.thermalUnthrottle) := by intro n h; cases h
theorem thermalStop : Statement (.thermalStop) := by intro n h; cases h
theorem thermalClockStop : Statement (.thermalClockStop) := by intro n h; cases h
theorem thermalRestart : Statement (.thermalRestart) := by intro n h; cases h
theorem registerWrite : Statement (.registerWrite) := by intro n h; cases h
theorem cmdRefused : Statement (.cmdRefused) := by intro n h; cases h
theorem linkUp : Statement (.linkUp) := by intro n h; cases h

end Sys2Proof.Laws.OfEnc
end

