-- ==== Sys2Proof/Laws/Shapes.lean ====
section
/-! SUPPORT. The shared operations have the shapes in which statements describe results. -/

namespace Sys2Proof.Claims

open Sys2Proof.Machine

/-! ### Moving on -/

theorem park_stays (c : Ctx) (k n : Nat) (h : ∀ f, c.frags.getD k none = some f → f.join = none) : c.park n k = c := by
  cases n with
  | zero => rfl
  | succ n =>
    unfold Ctx.park
    split
    · rfl
    · rename_i f hf
      rw [h f hf]

theorem lowestFree_set {α : Type} (l : List (Option α)) (k : Nat) (h : k < l.length) : ∃ k', lowestFree (l.set k none) = some k' := by
  cases e : lowestFree (l.set k none) with
  | some k' => exact ⟨k', rfl⟩
  | none =>
    have := List.find?_eq_none.1 e k (by simpa using h)
    simp [List.getD_eq_getElem?_getD, h] at this

/-- Parking is what `Settles` says of the split table, where the fuel is as large as the number of joins. -/
theorem settles_park (n : Nat) : ∀ (c : Ctx) (k : Nat), c.joins.countP Option.isSome ≤ n →
    Settles c.frags c.joins k (c.park n k).frags (c.park n k).joins := by
  induction n with
  | zero =>
    intro c k hn
    cases hf : c.frags.getD k none with
    | none => exact .gone _ _ _ hf
    | some f =>
      refine .stays _ _ _ f hf (fun j r _ hr => ?_)
      have hr : c.joins[j]?.getD none = some r := by rw [← List.getD_eq_getElem?_getD]; exact hr
      have hm : some r ∈ c.joins := by
        cases hj : c.joins[j]? with
        | none => rw [hj] at hr; simp at hr
        | some x => rw [hj] at hr; simp at hr; exact hr ▸ List.mem_of_getElem? hj
      have := List.countP_pos_iff (p := Option.isSome) |>.2 ⟨_, hm, rfl⟩
      omega
  | succ n ih =>
    intro c k hn
    unfold Ctx.park
    split
    · exact .gone _ _ _ ‹_›
    · rename_i f hf
      split
      · rename_i hj
        exact .stays _ _ _ f hf (fun j r h _ => by rw [hj] at h; cases h)
      · rename_i j hj
        split
        · rename_i hr
          exact .stays _ _ _ f hf (fun j' r h h' => by rw [hj] at h; cases h; rw [hr] at h'; cases h')
        · rename_i r hr
          split
          · rename_i hp
            exact .stays _ _ _ f hf (fun j' r' h h' => by
              rw [hj] at h; cases h; rw [hr] at h'; cases h'; simpa using hp)
          · rename_i hp
            have hp : f.pc = r.jaddr := by simpa using hp
            have hk : k < c.frags.length := by
              rcases Nat.lt_or_ge k c.frags.length with h | h
              · exact h
              · rw [List.getD_eq_getElem?_getD, List.getElem?_eq_none h] at hf; cases hf
            have hjl : j < c.joins.length := by
              rcases Nat.lt_or_ge j c.joins.length with h | h
              · exact h
              · rw [List.getD_eq_getElem?_getD, List.getElem?_eq_none h] at hr; cases hr
            dsimp only
            split
            · rename_i hm
              have hm : (r.jarr ||| f.fmask) = r.jmask := by simpa using hm
              obtain ⟨k', hk'⟩ := lowestFree_set c.frags k hk
              simp only [Ctx.formJoined, hk', List.set_set]
              refine .joins _ _ _ _ k j k' f r hf hj hr hp hm hk' ?_
              let g : Frag := { pc := r.jaddr, fmask := r.jmask, amask := r.jexm ||| f.amask, join := r.jparent }
              refine ih { c with frags := (c.frags.set k none).set k' (some g), joins := c.joins.set j none } k' ?_
              have hg : c.joins[j] = some r := by
                rw [List.getD_eq_getElem?_getD, List.getElem?_eq_getElem hjl] at hr; simpa using hr
              have hc := List.countP_set (p := Option.isSome) (l := c.joins) (a := none) hjl
              have hp0 := List.countP_pos_iff (p := Option.isSome) |>.2 ⟨_, List.getElem_mem hjl, by rw [hg]; rfl⟩
              simp [hg] at hc
              simp only
              omega
            · rename_i hm
              exact .parks _ _ k j f r hf hj hr hp (by simpa using hm)

theorem pastRecipe_eq (c : Ctx) (pc : Word64) : c.pastRecipe pc = goesTo c pc := by
  unfold Ctx.pastRecipe goesTo
  cases c.recipe with
  | none => rfl
  | some r => by_cases h : pc = r.stop <;> simp [h]

/-- A clause's end lands at the address that the fragment goes to. -/
theorem lands_close (c : Ctx) (pc : Word64) : Lands c (c.closeClause pc) pc := by
  obtain ⟨fr, jo, e⟩ := Ctx.park_eq 8
    (({ c with yielded := c.clause.yieldHint, clause := {}, stall := none, recipe := (c.pastRecipe pc).2 } : Ctx).setFrag
      { c.frag with pc := (c.pastRecipe pc).1 }) c.fsel
  refine ⟨?_, fun h => ?_⟩
  · rw [← pastRecipe_eq]
    exact congrArg Ctx.recipe e
  · have := settles_park 8 (({ c with yielded := c.clause.yieldHint, clause := {}, stall := none, recipe := (c.pastRecipe pc).2 } : Ctx).setFrag
      { c.frag with pc := (c.pastRecipe pc).1 }) c.fsel (Nat.le_trans List.countP_le_length h)
    rw [← pastRecipe_eq]
    exact this

theorem passed_advance (c : Ctx) (n : Nat) (r : Option (List Word)) : Passed c (c.advance n r) n r := by
  refine ⟨fun h => ?_, fun h => ?_⟩
  · rw [Ctx.advance_inside c n r h]; simp
  · let c1 : Ctx := { c with clause := { c.clause with pos := c.clause.pos + n, win := (r :: c.clause.win).take 8 }, stall := none }
    have e0 : c.advance n r = c1.closeClause c1.nextHdr := by
      simp only [Ctx.advance]; exact if_pos h
    rw [e0]
    obtain ⟨fr, jo, re, e⟩ := c1.closeClause_eq c1.nextHdr
    refine ⟨by rw [e], by rw [e], lands_close c1 c1.nextHdr, fun hr hj => ?_⟩
    have hp : (c1.pastRecipe c1.nextHdr) = (c1.nextHdr, none) := by
      unfold Ctx.pastRecipe; rw [show c1.recipe = none from hr]
    unfold Ctx.closeClause
    simp only [hp]
    rw [park_stays]
    · exact ⟨rfl, rfl, rfl⟩
    · intro f hf
      simp only [Ctx.setFrag] at hf
      by_cases hl : c.fsel < c.frags.length
      · rw [List.getD_eq_getElem?_getD, List.getElem?_set_self hl] at hf
        simp only [Option.getD_some, Option.some.injEq] at hf
        rw [← hf]; exact hj
      · rw [List.getD_eq_getElem?_getD, List.getElem?_eq_none (by simpa using hl)] at hf
        simp at hf

/-- `Passed` looks at a context's place in its program only. -/
theorem passed_congr {c c' d : Ctx} {n : Nat} {r : Option (List Word)} (h : Passed c d n r) (h1 : c.clause = c'.clause)
    (h2 : c.frags = c'.frags) (h3 : c.joins = c'.joins) (h4 : c.recipe = c'.recipe) (h5 : c.yielded = c'.yielded)
    (h6 : c.fsel = c'.fsel) : Passed c' d n r := by
  unfold Passed Lands goesTo at *
  simp only [Ctx.frag, Ctx.nextHdr, ← h1, ← h2, ← h3, ← h4, ← h5, ← h6] at *
  exact h

theorem keeps_advance (c : Ctx) (n : Nat) (r : Option (List Word)) : KeepsCtx c (c.advance n r) := by
  obtain ⟨_, _, _, _, _, e⟩ := c.advance_eq n r; rw [e]; rfl

/-- `KeepsCtx` after updates of registers, MODE and the sample. -/
theorem keeps_advance_of {c b : Ctx} (n : Nat) (r : Option (List Word)) (h : ∃ v s p mode sample, b = { c with v, s, p, mode, sample }) :
    KeepsCtx c (b.advance n r) := by
  obtain ⟨v, s, p, mode, sample, rfl⟩ := h
  obtain ⟨_, _, _, _, _, e⟩ := Ctx.advance_eq ({ c with v, s, p, mode, sample } : Ctx) n r
  rw [e]; rfl

/-! ### Lanes -/

theorem vecOf_getD (f : Nat → Word) (j : Nat) (h : j < 32) : (vecOf f).getD j 0 = f j := by
  simp [vecOf, lanes, List.getD_eq_getElem?_getD, h]

theorem vecOf_congr {f g : Nat → Word} (h : ∀ j, j < 32 → f j = g j) : vecOf f = vecOf g := by
  unfold vecOf lanes
  exact List.map_congr_left (fun j hj => h j (List.mem_range.1 hj))

theorem vreg_setV (c : Ctx) (r q j : Nat) (m : Word) (x : List Word) (hj : j < 32) :
    (c.setV r m x).vreg q j = if q = r ∧ m.getLsbD j = true then laneAt x j else c.vreg q j := by
  unfold Ctx.vreg
  rw [Ctx.setV_v, Cells.get_setMany]
  have hl : (vecOf fun i => if m.getLsbD i then laneAt x i else c.vreg r i).length = 32 := by simp [vecOf, lanes]
  rw [hl]
  by_cases hq : q = r
  · subst hq
    rw [if_pos (by omega)]
    have : 32 * q + j - 32 * q = j := by omega
    rw [this, vecOf_getD _ _ hj]
    simp [Ctx.vreg]
  · rw [if_neg (by omega)]; simp [hq]

/-! ### Results -/

/-- A vector result put over sticky flags has the shape `VecDone`. -/
theorem vecDone_putV (i : Instr) (n : Enc) (hn : i.enc = some n) (s : State) (m : Word) (f : Nat → Word) (w : Core)
    (fl : Word) :
    VecDone i w m f fl s (s.upd (fun _ => ((s.cur.touch s.time i.shape n).stick fl).putV w m i.size (vecOf f))) := by
  obtain ⟨y, e⟩ := s.cur.touch_eq s.time i.shape n
  have hl : (vecOf fun j => if m.getLsbD j then laneAt (vecOf f) j else s.cur.vreg w.dst.toNat j)
      = vecOf (fun j => if m.getLsbD j then f j else s.cur.vreg w.dst.toNat j) :=
    vecOf_congr (fun j hj => by rw [laneAt, vecOf_getD _ _ hj])
  refine ⟨?_, ?_, ?_, ?_, ?_, ?_, ?_⟩
  · simp only [State.upd_cur, e]
    refine keeps_advance_of _ _ ?_
    split
    · exact ⟨s.cur.v, s.cur.s, s.cur.p, s.cur.mode ||| fl, y, rfl⟩
    · exact ⟨_, s.cur.s, s.cur.p, s.cur.mode ||| fl, y, rfl⟩
  · simp
  · simp
  · simp [view, hn]
  · simp
  · intro q j hj
    simp only [State.upd_cur, Ctx.vreg, Ctx.putV_v]
    cases hw : w.nowb
    · have := vreg_setV ((s.cur.touch s.time i.shape n).stick fl) w.dst.toNat q j m (vecOf f) hj
      simp only [Ctx.vreg] at this
      simp only [Bool.false_eq_true, if_false]
      rw [this, laneAt, vecOf_getD _ _ hj]
      simp
    · simp
  · simp only [State.upd_cur, Ctx.putV]
    have hv : ∀ j, ((s.cur.touch s.time i.shape n).stick fl).vreg w.dst.toNat j = s.cur.vreg w.dst.toNat j :=
      fun j => by simp [Ctx.vreg]
    simp only [hv]
    rw [← hl]
    refine passed_congr (passed_advance _ _ _) ?_ ?_ ?_ ?_ ?_ ?_ <;> split <;> simp

end Sys2Proof.Claims
end

