-- ==== Sys2Proof/Laws/Touch.lean ====
section
/-! SUPPORT. What a second agent's touch of a page can change (R224 to R226): one lemma for each operation that it is made of, and
that all of them keep the canonical form of memory. -/

namespace Sys2Proof.Machine

/-- What a touch of a page leaves: every context, team, quad, table of functions and partitions, and package time stay; memory,
poison, cached lines and translations, monitors, operations, the free-value counter and the error log may change, and memory
keeps its canonical form. -/
def Touched (s t : State) : Prop :=
  t = { s with mem := t.mem, poison := t.poison, lines := t.lines, tlb := t.tlb, walked := t.walked, mons := t.mons, ops := t.ops, free := t.free,
               sys := { s.sys with migLines := t.sys.migLines, life := t.sys.life, log := t.sys.log, logSeq := t.sys.logSeq } } ∧
  (Memory.wf s.mem = true → Memory.wf t.mem = true)

@[refl] theorem Touched.refl (s : State) : Touched s s := ⟨rfl, id⟩

theorem Touched.trans {s t u : State} (h : Touched s t) (k : Touched t u) : Touched s u := by
  refine ⟨?_, k.2 ∘ h.2⟩
  have h := h.1
  have k := k.1
  rw [k, h]

/-- A list of touches is one. -/
theorem Touched.foldl {α : Type} (f : State → α → State) (h : ∀ s a, Touched s (f s a)) (l : List α) (s : State) :
    Touched s (l.foldl f s) := by
  induction l generalizing s with
  | nil => exact .refl s
  | cons a l ih => exact (h s a).trans (ih (f s a))

/-! ### Writes at home -/

theorem State.writeBytes_touched (s : State) (key : Nat) (bs : List Byte) : Touched s (s.writeBytes key bs) :=
  ⟨rfl, State.writeBytes_wf s key bs⟩

theorem State.noteLines_touched (s : State) (key n : Nat) : Touched s (s.noteLines key n) := by
  unfold State.noteLines
  split <;> exact ⟨rfl, id⟩

theorem State.fire_touched (s : State) (key n : Nat) (c : Option (Nat × Nat)) : Touched s (s.fire key n c).1 := ⟨rfl, id⟩

theorem State.agentWrite_touched (s : State) (key : Nat) (bs : List Byte) (c : Option (Nat × Nat)) :
    Touched s (s.agentWrite key bs c).1 :=
  ((s.writeBytes_touched key bs).trans (State.noteLines_touched _ key bs.length)).trans (State.fire_touched _ key bs.length c)

theorem State.setEntry_touched (s : State) (key e : Nat) : Touched s (s.setEntry key e) := by
  unfold State.setEntry
  split
  · exact .refl s
  · exact s.agentWrite_touched ..

theorem State.setClass_touched (s : State) (entry cls owner : Nat) : Touched s (s.setClass entry cls owner) :=
  s.setEntry_touched ..

theorem State.uncacheEntry_touched (s : State) (entry : Nat) : Touched s (s.uncacheEntry entry) := ⟨rfl, id⟩

/-! ### The owner's cache -/

theorem State.dropLine_touched (s : State) (core line : Nat) : Touched s (s.dropLine core line) := ⟨rfl, id⟩

theorem State.writeBack_touched (s : State) (l : Line) : Touched s (s.writeBack l) := by
  unfold State.writeBack
  split
  · exact s.agentWrite_touched ..
  · exact .refl s

theorem State.evict_touched (s : State) (l : Line) : Touched s (s.evict l) :=
  (s.writeBack_touched l).trans (State.dropLine_touched ..)

theorem State.install_touched (s : State) (n : Line) : Touched s (s.install n) := by
  have add : ∀ u : State, Touched u { u with lines := u.lines ++ [n] } := fun _ => ⟨rfl, id⟩
  unfold State.install
  refine (s.dropLine_touched n.core n.line).trans (Touched.trans ?_ (add _))
  repeat' split
  all_goals first | exact .refl _ | exact State.evict_touched ..

theorem State.ownerRead1_touched (s : State) (core entry key n : Nat) (a : Bool) :
    Touched s (s.ownerRead1 core entry key n a).1 := by
  unfold State.ownerRead1
  repeat' split
  all_goals first | exact .refl _ | exact State.install_touched ..

theorem State.ownerRead_touched (s : State) (core entry key n : Nat) (a : Bool) :
    Touched s (s.ownerRead core entry key n a).1 := by
  unfold State.ownerRead
  dsimp only
  split
  · exact s.ownerRead1_touched ..
  · exact (s.ownerRead1_touched ..).trans (State.ownerRead1_touched ..)

theorem State.ownerWrite1_touched (s : State) (core entry key : Nat) (bs : List Byte) :
    Touched s (s.ownerWrite1 core entry key bs) :=
  (s.ownerRead1_touched core entry key 1 true).trans ⟨rfl, id⟩

theorem State.ownerWrite_touched (s : State) (core entry key : Nat) (bs : List Byte) :
    Touched s (s.ownerWrite core entry key bs) := by
  unfold State.ownerWrite
  dsimp only
  split
  · exact s.ownerWrite1_touched ..
  · exact (s.ownerWrite1_touched ..).trans (State.ownerWrite1_touched ..)

/-! ### What the owner had issued -/

theorem State.setOp_touched (s : State) (o : Op) : Touched s (s.setOp o) := ⟨rfl, id⟩

theorem State.putPiece_touched (s : State) (o : Op) (p : Piece) : Touched s (s.putPiece o p) := s.setOp_touched _

theorem State.noteBad_touched (s : State) (o : Op) (p : Piece) (src : Nat) : Touched s (s.noteBad o p src) := by
  unfold State.noteBad
  split
  · exact ⟨rfl, id⟩
  · exact .refl s

theorem State.ownerPerform_touched (s : State) (core : Nat) (p : Piece) : Touched s (s.ownerPerform core p).1 := by
  unfold State.ownerPerform
  split
  · exact Touched.foldl (fun s (e : Nat × List Byte) => s.ownerWrite core p.entry e.1 e.2) (fun s e => s.ownerWrite_touched ..) _ s
  · dsimp only
    split
    · exact (s.ownerRead_touched ..).trans (State.ownerWrite_touched ..)
    · exact s.ownerRead_touched ..

theorem State.coverLine_touched (s : State) (o line : Nat) : Touched s (s.coverLine o line) := by
  unfold State.coverLine
  dsimp only
  repeat' split
  all_goals exact .refl _

theorem State.performOwned_touched (s : State) (o : Op) (p : Piece) : Touched s (s.performOwned o p) := by
  unfold State.performOwned
  dsimp only
  refine (s.ownerPerform_touched o.coreNo p).trans ?_
  split
  · refine Touched.trans ?_ (State.coverLine_touched ..)
    split
    · exact (State.noteBad_touched ..).trans (State.putPiece_touched ..)
    · exact State.putPiece_touched ..
  · exact .refl _

/-! ### Reclassification and the touch of a range -/

theorem State.sent_touched (s : State) (core : Nat) (p : Piece) : Touched s (s.sent core p) := by
  unfold State.sent
  repeat' split
  all_goals exact ⟨rfl, id⟩

theorem State.sendPart_touched (s : State) (e : Nat × Nat) : Touched s (s.sendPart e) := by
  have send : ∀ (s : State) id core p, Touched s (s.trySend id core p).1 := by
    intro s id core p
    unfold State.trySend
    split
    · exact .refl s
    · exact s.sent_touched core p
  unfold State.sendPart
  split
  · exact .refl s
  · dsimp only
    repeat' split
    all_goals first | exact send .. | exact (send ..).trans (State.putPiece_touched ..)

theorem State.sendDue_touched (s : State) (pick : Piece → Bool) : Touched s (s.sendDue pick) :=
  Touched.foldl _ (fun s e => s.sendPart_touched e) _ s

theorem State.dropLeased_touched (s : State) (owner entry : Nat) : Touched s (s.dropLeased owner entry) := by
  unfold State.dropLeased
  split <;> exact ⟨rfl, id⟩

theorem State.reclassify_touched (s : State) (entry : Nat) : Touched s (s.reclassify entry) := by
  have release : ∀ (u : State) (m : List Mon), Touched u { u with mons := m } := fun _ _ => ⟨rfl, id⟩
  unfold State.reclassify
  dsimp only
  refine Touched.trans ?_ ((release _ _).trans (State.sendDue_touched ..))
  refine Touched.trans ?_ (((State.dropLeased_touched ..).trans (State.uncacheEntry_touched _ entry)).trans (State.setClass_touched ..))
  exact (Touched.foldl _ (fun s e => s.performOwned_touched ..) _ s).trans (Touched.foldl _ (fun s l => s.evict_touched l) _ _)

theorem State.markLeaf_touched (s : State) (l : Leaf) (write : Bool) : Touched s (s.markLeaf l write) := by
  have tables := Touched.foldl (fun (s : State) key => s.setEntry key (setFld (s.readLE key 8) 26 26 1))
    (fun s key => s.setEntry_touched ..) l.tables s
  unfold State.markLeaf
  dsimp only
  split
  · exact (tables.trans (State.setEntry_touched ..)).trans (State.setEntry_touched ..)
  · exact tables.trans (State.setEntry_touched ..)

theorem State.engineTouch_touched (s : State) (l : Leaf) : Touched s (s.engineTouch l) := by
  unfold State.engineTouch
  split
  · exact s.reclassify_touched _
  · split
    · exact (s.setClass_touched ..).trans (State.uncacheEntry_touched ..)
    · exact .refl s

/-- A second agent's reach of a range of addresses. -/
theorem State.vtouch_touched (s : State) (fn va n : Nat) (write : Bool) : Touched s (s.vtouch fn va n write) := by
  refine Touched.foldl _ (fun s a => ?_) _ s
  split
  · exact (s.markLeaf_touched ..).trans (State.engineTouch_touched ..)
  · exact .refl s

/-! ### The hardware's tables -/

theorem State.imgTouch_touched (s : State) (fn img : Nat) : Touched s (s.imgTouch fn img) := s.vtouch_touched ..

theorem State.fmtTouch_touched (s : State) (fn img id : Nat) : Touched s (s.fmtTouch fn img id) := by
  unfold State.fmtTouch
  dsimp only
  split
  · exact (s.imgTouch_touched ..).trans (State.vtouch_touched ..)
  · exact s.imgTouch_touched ..

theorem State.atlasTouch_touched (s : State) (fn page : Nat) : Touched s (s.atlasTouch fn page) := by
  unfold State.atlasTouch
  split
  · exact s.vtouch_touched ..
  · exact .refl s

theorem State.itinTouch_touched (s : State) (fn img itin : Nat) : Touched s (s.itinTouch fn img itin) :=
  (s.imgTouch_touched ..).trans (State.vtouch_touched ..)

theorem State.layerTouch_touched (s : State) (fn img itin l : Nat) : Touched s (s.layerTouch fn img itin l) :=
  ((s.itinTouch_touched ..).trans (State.vtouch_touched ..)).trans (State.fmtTouch_touched ..)

theorem State.boardTouch_touched (s : State) (fn : Nat) (m : MRing) (l : Nat) : Touched s (s.boardTouch fn m l) := by
  unfold State.boardTouch
  dsimp only
  split
  · exact .refl s
  · split
    · exact (s.itinTouch_touched ..).trans (State.layerTouch_touched ..)
    · exact s.itinTouch_touched ..

theorem State.lapTouch_touched (s : State) (fn img itin : Nat) : Touched s (s.lapTouch fn img itin) :=
  (s.itinTouch_touched ..).trans (State.vtouch_touched ..)

theorem State.goTouch_touched (s : State) (n : Nat) : Touched s (s.goTouch n) := by
  unfold State.goTouch
  dsimp only
  split
  · exact s.fmtTouch_touched ..
  · exact .refl s

theorem State.pointTouch_touched (s : State) (fn rct at' : Nat) : Touched s (s.pointTouch fn rct at') := by
  unfold State.pointTouch
  dsimp only
  split
  · exact s.vtouch_touched ..
  · exact (s.vtouch_touched ..).trans (State.vtouch_touched ..)

theorem State.pointUse_touched (s : State) (t : Team) (p : Point) : Touched s (s.pointUse t p) := by
  unfold State.pointUse
  dsimp only
  split
  · exact .refl s
  · exact s.pointTouch_touched ..

theorem State.touchKernel_touched (s : State) (fn krec : Nat) : Touched s (s.touchKernel fn krec) := by
  unfold State.touchKernel
  refine ((s.vtouch_touched ..).trans (State.vtouch_touched ..)).trans (Touched.foldl _ (fun s p => ?_) _ _)
  split
  · exact .refl s
  · exact s.pointTouch_touched ..

theorem State.tcbTouch_touched (s : State) (part tcb n : Nat) : Touched s (s.tcbTouch part tcb n) := by
  unfold State.tcbTouch
  split
  · exact .refl s
  · exact s.vtouch_touched ..

theorem State.entryTouch_touched (s : State) (entry : Nat) : Touched s (s.entryTouch entry) := by
  unfold State.entryTouch
  dsimp only
  split
  · exact s.reclassify_touched entry
  · split
    · exact (s.setClass_touched ..).trans (State.uncacheEntry_touched ..)
    · exact .refl s

end Sys2Proof.Machine
end

