-- ==== Sys2Proof/Tests/Slice0.lean ====
section
/-! SUPPORT. Tests: ill-formed terms that the checks refuse, words written out from the spec's encoding tables, the spec's
worked values, and for every statement a state and operands that meet its hypotheses. -/

namespace Sys2Proof.Tests

-- One theorem after another: the threads of many long evaluations at once take too much memory.
set_option Elab.async false

open Sys2Proof Sys2Proof.Machine Sys2Proof.Claims

/-! ### States to start from -/

/-- A group of two lanes before its next instruction. -/
def grp : Ctx :=
  { uid := 1, team := 1, tvec := 0x1000, svec := 0x2000,
    frags := some { pc := 0x100, fmask := 3, amask := 3 } :: List.replicate 7 none, joins := List.replicate 8 none,
    clause := { isOpen := true, hdr := 0x100, count := 9 } }

def thr : Ctx := { grp with kind := .thread, clause := { grp.clause with cls := 5 } }

def other : Ctx := { grp with uid := 2, loc := { slot := 1 } }

def kern : Kernel :=
  { scratch := 256, entry := 0x100,
    points := [{ id := 1, live := [3, 5], resume := 0x500 }] }

def team : Team := { id := 1, kern, pairs := [{ point := 1, tile := some 0 }] }

/-- A page of main memory that core 0 may read and write, in its first-level cache. -/
def page : TlbEntry :=
  { fn := 1, base := 0x10000, leaf := { pa := 0x10000, w := true, x := true, u := true, cls := 3, a := true, d := true } }

/-- Function 1 serves partition 0, where the group's team runs. -/
def base : State :=
  { State.reset with cur := grp, teams := [team], uids := 9, time := 100, tlb := [page],
                     fns := [(1, { tctl := 1, part := some 0 })] }

def inThread : State := { base with cur := thr }

/-- Instructions of each layout with the fields that matter. -/
def sh (dst : BitVec 7) (a b : Src) : Short := { w := { nowb := false, dst, a, b }, imm := none }
def lg (dst : BitVec 7) (a b c : Src) (subop : BitVec 4) : Long :=
  { w := { nowb := false, dst, a, b }, m := { Mods.zero with c, subop }, imm := none }
def mm (dst : BitVec 7) (a b c e : Src) (width : Width) (subop : BitVec 4) : Mem :=
  { w := { nowb := false, dst, a, b }, d := { c, e, pred := 0, pneg := false, scope := .grp, width, ord := .weak, subop },
    imm := none }
def en (dst : BitVec 7) (a b : Src) (d : Word) : Eng := { w := { nowb := false, dst, a, b }, d, imm := none }

/-- Scalar registers of the issuing context. -/
def withS (s : State) (rs : Cells Word) : State := { s with cur := { s.cur with s := rs } }

/-- What an instruction leaves, as a test. -/
def ran (s : State) (i : Instr) (f : State → Bool) : Bool := match exec i s with | .next t => f t | _ => false

/-- `Reads` as a test. -/
def readsB (i : Instr) (s : State) : Bool :=
  match i.enc with
  | some n => s.cur.checkOperands i.shape n == none
  | none => true

theorem reads_of (i : Instr) (s : State) (h : readsB i s = true) : Reads i s := by
  intro n hn
  simpa [readsB, hn] using h

/-- `GoesThrough` as a test. -/
def goesB (r : GRow) (x : Mem) (s : State) : Bool :=
  (List.range 32).all (fun j => !(onD (r.form x) x s).getLsbD j ||
    (let c := view (r.form x) s
     r.aligned x (c.gaddr x j) && decide ((c.gaddr x j).toNat < 2 ^ 57) &&
      (match s.access (s.mine (c.gaddr x j).toNat (r.len x) r.want) s.cur.failed with
        | .ok l => r.late s x c j l
        | _ => false)))

theorem goes_of (r : GRow) (x : Mem) (s : State) (h : goesB r x s = true) : GoesThrough r x s := by
  intro j hj hm
  have h := List.all_eq_true.mp h j (List.mem_range.mpr hj)
  simp only [hm, Bool.not_true, Bool.false_or, Bool.and_eq_true, decide_eq_true_eq] at h
  obtain ⟨⟨h1, h2⟩, h3⟩ := h
  refine ⟨h1, h2, ?_⟩
  split at h3
  · exact ⟨_, ‹_›, h3⟩
  · cases h3


/-! ### Ill-formed terms, one for each check -/

/-- R45: a destination the class has no number for; a register number of the predicates above 7. -/
theorem test_wf_dst : (Instr.radd (sh 64 (.v 16) (.v 0))).wf = false ∧ (Instr.icmp (lg 8 (.v 1) (.v 2) (.v 0) 0)).wf = false := by decide
/-- R45: NOWB where no register is written. -/
theorem test_wf_nowb : (Instr.racq { w := { nowb := true, dst := 0, a := .const 1, b := .v 0 }, imm := none }).wf = false := by decide
/-- R46: a source field that is not read must be 0x00. -/
theorem test_wf_sourceA : (Instr.exit (sh 0 (.v 1) (.v 0))).wf = false := by decide
theorem test_wf_sourceB : (Instr.radd (sh 8 (.v 16) (.v 1))).wf = false := by decide
theorem test_wf_sourceC : (Instr.iaddLong (lg 1 (.v 1) (.v 2) (.v 3) 0)).wf = false := by decide
/-- R54: a code that the row does not accept. -/
theorem test_wf_rounding :
    (Instr.bfe { w := { nowb := false, dst := 5, a := .v 1, b := .const 4 }, m := { c := .const 8, rnd := .rne, sat := false, pred := 0, pneg := false, ty := .dflt, subop := 1 }, imm := none }).wf = false := by decide
theorem test_wf_saturation :
    (Instr.bfe { w := { nowb := false, dst := 5, a := .v 1, b := .const 4 }, m := { c := .const 8, rnd := .mode, sat := true, pred := 0, pneg := false, ty := .dflt, subop := 1 }, imm := none }).wf = false := by decide
theorem test_wf_predicate : (Instr.smovLong { w := { nowb := false, dst := 5, a := .s 1, b := .const 4 }, m := { Mods.zero with pred := 1, subop := 1 }, imm := none }).wf = false := by decide
theorem test_wf_type :
    (Instr.bfe { w := { nowb := false, dst := 5, a := .v 1, b := .const 4 }, m := { c := .const 8, rnd := .mode, sat := false, pred := 0, pneg := false, ty := .n64, subop := 1 }, imm := none }).wf = false := by decide
theorem test_wf_subop : (Instr.bfe (lg 5 (.v 1) (.const 4) (.const 8) 2)).wf = false := by decide
/-- R55: the descriptor's own fields. -/
theorem test_wf_descriptor_c : (Instr.ld (mm 1 (.v 2) (.v 0) (.v 1) (.v 0) .b32 0)).wf = false := by decide
theorem test_wf_descriptor_e : (Instr.ld (mm 1 (.v 2) (.v 0) (.v 0) (.v 1) .b32 0)).wf = false := by decide
theorem test_wf_width : (Instr.pref (mm 0 (.v 2) (.v 0) (.v 0) (.v 0) .b256 0)).wf = false := by decide
theorem test_wf_order :
    (Instr.lds { (mm 1 (.v 2) (.v 0) (.v 0) (.v 0) .b32 0) with d := { (mm 1 (.v 2) (.v 0) (.v 0) (.v 0) .b32 0).d with ord := .byp } }).wf = false := by decide
theorem test_wf_descriptor_subop : (Instr.ld (mm 1 (.v 2) (.v 0) (.v 0) (.v 0) .b32 15)).wf = false := by decide
/-- R51: an immediate word that no field names, and one that is missing. -/
theorem test_wf_immediate :
    (Instr.radd { (sh 8 (.v 16) (.v 0)) with imm := some 5 }).wf = false ∧
    (Instr.iaddLong (lg 1 (.special .imm) (.v 2) (.v 0) 0)).wf = false := by decide
/-- R59: an opcode that is assigned. -/
theorem test_wf_unassigned : (Instr.unassignedOpcode 0x88081000).wf = false := by decide

/-! ### Words of the spec -/

/-- A word list decodes to an instruction, and is its own encoding. -/
def reads (ws : List Word) (i : Instr) : Bool := decode ws == .ok i ws.length && encode i == ws

/-- 03: `fadd.rtz.p2 v3, v1, w1` and `st.b32.p1 s2, 0, s8`. -/
theorem test_decode_fadd : reads [0x41030180, 0x00002200] (.faddLong { w := { nowb := false, dst := 3, a := .v 1, b := .latch 0 }, m := { Mods.zero with rnd := .rtz, pred := 2 }, imm := none }) = true := by decide
theorem test_decode_st : reads [0x9100C2A0, 0x000100C8] (.st { w := { nowb := false, dst := 0, a := .s 2, b := .const 0 }, d := { descWeak32 with c := .s 8, pred := 1, width := .b32 }, imm := none }) = true := by decide
/-- R97: `iadd.sat.n32 v4, v1, v2`; R102: `bfe.sx v5, v1, 4, 8`; R103: `icmp.eq p1, laneid, 0`. -/
theorem test_decode_integer :
    reads [0x01040102, 0x000C0800] (.iaddLong { (lg 4 (.v 1) (.v 2) (.v 0) 0) with m := { Mods.zero with sat := true, ty := .n32 } }) = true ∧
    reads [0x230501A4, 0x001000A8] (.bfe (lg 5 (.v 1) (.const 4) (.const 8) 1)) = true ∧
    reads [0x2D0188A0, 0] (.icmp (lg 1 (.special .laneid) (.const 0) (.v 0) 0)) = true := by decide
/-- `smov.add s7, s7, 1`, `ladd v10, s0, v3` and `lmad.n32 v12, s0, v3, 48` with its immediate word. -/
theorem test_decode_moves :
    reads [0x3307C7A1, 0x00100000] (.smovLong (lg 7 (.s 7) (.const 1) (.v 0) 1)) = true ∧
    reads [0x340AC003] (.ladd (sh 10 (.s 0) (.v 3))) = true ∧
    reads [0x390CC003, 0x000C008F, 0x30] (.lmad { w := { nowb := false, dst := 12, a := .s 0, b := .v 3 }, m := { Mods.zero with c := .special .imm, ty := .n32 }, imm := some 0x30 }) = true := by decide
/-- `dp4.sat v3, v1, v2, v4`, `fadd.bf16x2.sr v6, v4, v5`, `ffma v7, v1, v2, v3` and `cvt.e4m3.sat.sf32 v2, v1`. -/
theorem test_decode_float :
    reads [0x3B030102, 0x804] (.dp4 { (lg 3 (.v 1) (.v 2) (.v 4) 0) with m := { Mods.zero with c := .v 4, sat := true } }) = true ∧
    reads [0x41060405, 0x000E0600] (.faddLong { (lg 6 (.v 4) (.v 5) (.v 0) 0) with m := { Mods.zero with rnd := .sr, ty := .bf16x2 } }) = true ∧
    reads [0x47070102, 3] (.ffma (lg 7 (.v 1) (.v 2) (.v 3) 0)) = true ∧
    reads [0x55020100, 0x00040800] (.cvt { (lg 2 (.v 1) (.v 0) (.v 0) 0) with m := { Mods.zero with sat := true, ty := .e4m3 } }) = true ∧
    reads [0x590201C4, 0x005A0000] (.unpk { (lg 2 (.v 1) (.s 4) (.v 0) 5) with m := { Mods.zero with ty := .n8, subop := 5 } }) = true := by decide
/-- `radd s8, v16` and `shfl.bfly v3, v1, 1`. -/
theorem test_decode_lanes :
    reads [0x88081000] (.radd (sh 8 (.v 16) (.v 0))) = true ∧
    reads [0x870301A1, 0x00300000] (.shflLong (lg 3 (.v 1) (.const 1) (.v 0) 3)) = true := by decide
/-- `acopy` of the first program on tag CP1, `wfence`, `bra.p3.all`, `nop`, `tret` and `susp 1`. -/
theorem test_decode_control :
    reads [0x980006C0, 0x10000203] (.acopy { w := { nowb := false, dst := 0, a := .v 6, b := .s 0 }, d := { descWeak32 with c := .v 3, e := .v 2, width := .b32, subop := 1 }, imm := none }) = true ∧
    reads [0xC1000000, 0x00103000, 7] (.bra { (lg 0 (.v 0) (.v 0) (.v 0) 1) with m := { Mods.zero with pred := 3, subop := 1 }, imm := some 7 }) = true ∧
    reads [0xCD000000] (.nop (sh 0 (.v 0) (.v 0))) = true ∧ reads [0xF9000000] (.tret (sh 0 (.v 0) (.v 0))) = true ∧
    reads [0xD0000000, 1] (.susp { w := { nowb := false, dst := 0, a := .v 0, b := .v 0 }, imm := some 1 }) = true ∧
    reads [0xBB000000, 0] (.sfence (mm 0 (.v 0) (.v 0) (.v 0) (.v 0) .b32 0)) = true := by decide
/-- `racq 1`, `rrel 1`, `bar 0`, `binit s4, 3`, `arrive s9, s4` and `bwait s4, s9`. -/
theorem test_decode_teams :
    reads [0xCB00A100] (.racq (sh 0 (.const 1) (.v 0))) = true ∧ reads [0xCC00A100] (.rrel (sh 0 (.const 1) (.v 0))) = true ∧
    reads [0xD500A000] (.bar (sh 0 (.const 0) (.v 0))) = true ∧ reads [0xD800C4A3] (.binit (sh 0 (.s 4) (.const 3))) = true ∧
    reads [0xD609C400] (.arrive (sh 9 (.s 4) (.v 0))) = true ∧ reads [0xD700C4C9] (.bwait (sh 0 (.s 4) (.s 9))) = true := by decide
/-- The engines, in the order of the map: `mres`, `mrel`, `mpass`, `mdrain`, `mpred`, `msig.pass k10`, `mfence`. -/
theorem test_decode_matrix :
    reads [0xE0000000, 1] (.mres (en 0 (.v 0) (.v 0) 1)) = true ∧ reads [0xE100A000, 0] (.mrel (en 0 (.const 0) (.v 0) 0)) = true ∧
    reads [0xE300A0A0, 0] (.mpass (en 0 (.const 0) (.const 0) 0)) = true ∧ reads [0xE400B2C7, 0] (.mdrain (en 0 (.const 18) (.s 7) 0)) = true ∧
    reads [0xE500C4A0, 0] (.mpred (en 0 (.s 4) (.const 0) 0)) = true ∧ reads [0xE60A0000, 0] (.msig (en 10 (.v 0) (.v 0) 0)) = true ∧
    reads [0xE7000000, 0] (.mfence (en 0 (.v 0) (.v 0) 0)) = true := by decide
/-- `board`, `unboard.west`, `itin.west 2, 4`, `lapq k3`, `coll.tld t1, s0`, `coll.go t0, s4`, `gmemb.gjoin s0, 5` and
`launch s0, 3`. -/
theorem test_decode_engines :
    reads [0xF000A1A0, 0xC002] (.board (en 0 (.const 1) (.const 0) 0xC002)) = true ∧
    reads [0xF1000000, 0x2000] (.unboard (en 0 (.v 0) (.v 0) 0x2000)) = true ∧
    reads [0xF200A2A4, 0x2000] (.itin (en 0 (.const 2) (.const 4) 0x2000)) = true ∧
    reads [0xF3030000, 0] (.lapq (en 3 (.v 0) (.v 0) 0)) = true ∧ reads [0xF401C000, 0] (.coll (en 1 (.s 0) (.v 0) 0)) = true ∧
    reads [0xF400C400, 2] (.coll (en 0 (.s 4) (.v 0) 2)) = true ∧ reads [0xF500C0A5, 2] (.gmemb (en 0 (.s 0) (.const 5) 2)) = true ∧
    reads [0xF600C0A3, 0] (.launch (en 0 (.s 0) (.const 3) 0)) = true := by decide
/-- R59: an unassigned opcode is a word of its own; R60: a row of the table numbered from its first word. -/
theorem test_decode_table :
    decode [0x08000000] = .ok (.unassignedOpcode 0x08000000) 1 ∧
    decodeTableWord 64 0x001000A8230501A4 = some (.bfe (lg 5 (.v 1) (.const 4) (.const 8) 1)) := by decide

/-! ### Worked values of the spec -/

/-- Lane 0 of a register after an instruction, and MODE. -/
def after (i : Instr) (s : State) (r : Nat) (x mode : Word) : Bool :=
  match exec i s with
  | .next t => t.cur.vreg r 0 == x && t.cur.mode == mode
  | _ => false
/-- The group with lane 0 of v1, v2 and v4. -/
def withV (a b c : Word) : State := { base with cur := { grp with v := [(32, a), (64, b), (128, c)].filter (fun e => e.2 != 0) } }

/-- 05: 0xFFFF_FFF0 + 0x20 as n32 is 0x10 without SAT, and 0xFFFF_FFFF with it. -/
theorem test_iadd_wraps : after (.iadd (sh 4 (.v 1) (.v 2))) (withV 0xFFFFFFF0 0x20 0) 4 0x10 0x31 = true := by decide
theorem test_iadd_clamps : after (.iaddLong { (lg 4 (.v 1) (.v 2) (.v 0) 0) with m := { Mods.zero with sat := true, ty := .n32 } })
    (withV 0xFFFFFFF0 0x20 0) 4 0xFFFFFFFF (0x31 ||| fSA) = true := by decide
/-- 05: `iabs` of 0x8000_0000. -/
theorem test_iabs : after (.iabs (sh 4 (.v 1) (.v 0))) (withV 0x80000000 0 0) 4 0x80000000 0x31 = true := by decide
/-- 05: the table of `dp4.sat`. -/
def dp4X (sat : Bool) : Long := { (lg 3 (.v 1) (.v 2) (.v 4) 0) with m := { Mods.zero with c := .v 4, sat } }
theorem test_dp4_exact : after (.dp4 (dp4X true)) (withV 0x807F 0x7F7F 0x7FFFFFF0) 3 0x7FFFFF71 0x31 = true := by decide
theorem test_dp4_clamps : after (.dp4 (dp4X true)) (withV 0x7F7F7F7F 0x7F7F7F7F 0x7FFFFFF0) 3 0x7FFFFFFF (0x31 ||| fSA) = true ∧
    after (.dp4 (dp4X false)) (withV 0x7F7F7F7F 0x7F7F7F7F 0x7FFFFFF0) 3 0x8000FBF4 0x31 = true := by decide
/-- 05: `cvt.e4m3.sat.sf32` of 500.0 is 0x7F with SA and NX. -/
theorem test_cvt_e4m3 : after (.cvt { (lg 2 (.v 1) (.v 0) (.v 0) 0) with m := { Mods.zero with sat := true, ty := .e4m3 } })
    (withV 0x43FA0000 0 0) 2 0x7F (0x31 ||| fSA ||| fNX) = true := by decide
/-- R102: bits [11:4] of v1, sign-extended. -/
theorem test_bfe_sx : after (.bfe (lg 5 (.v 1) (.const 4) (.const 8) 1)) (withV 0xF80 0 0) 5 0xFFFFFFF8 0x31 = true := by decide
/-- R110: the reciprocals of 2^-1 (lane 1 holds 0) and of 0. -/
theorem test_frcp : after (.frcp (sh 2 (.v 1) (.v 0))) (withV 0x3F000000 0 0) 2 0x40000000 (0x31 ||| fDZ) = true ∧
    after (.frcp (sh 2 (.v 1) (.v 0))) (withV 0 0 0) 2 0x7F800000 (0x31 ||| fDZ) = true := by decide

/-! ### The hypotheses of the statements are met: integers and floats -/

def s2 : Short := sh 2 (.v 1) (.const 3)
def l2 : Long := lg 2 (.v 1) (.const 3) (.const 8) 0

theorem witness_IntegerResults : (∀ e ∈ shortTable, Reads (e.1 s2) base) ∧ (∀ e ∈ exactTable, Reads (e.1 l2) base) := by
  have h : ∀ e ∈ shortTable, readsB (e.1 s2) base = true := by decide
  have k : ∀ e ∈ exactTable, readsB (e.1 l2) base = true := by decide
  exact ⟨fun e he => reads_of _ _ (h e he), fun e he => reads_of _ _ (k e he)⟩

theorem witness_IntegerResults_fields : (∀ e ∈ bitTable, Reads (e.1 l2) base) ∧ Reads (.bfe l2) base ∧ Reads (.bfi l2) base := by
  have h : ∀ e ∈ bitTable, readsB (e.1 l2) base = true := by decide
  exact ⟨fun e he => reads_of _ _ (h e he), reads_of _ _ (by decide), reads_of _ _ (by decide)⟩

theorem witness_CompareAndSelect : Reads (.icmp l2) base ∧ Reads (.sel l2) base :=
  ⟨reads_of _ _ (by decide), reads_of _ _ (by decide)⟩

theorem witness_MovesAndAddresses :
    Reads (.movLong l2) base ∧ Reads (.smov (sh 2 (.s 1) (.v 0))) base ∧
    (∀ k, k ≤ 12 → Reads (.smovLong (lg 2 (.s 2) (.s 4) (.v 0) (BitVec.ofNat 4 k))) base) ∧
    (∀ f ∈ ([.ladd, .lsub] : List (Short → Instr)), Reads (f (sh 2 (.s 4) (.v 3))) base) ∧
    (∀ f ∈ ([.laddLong, .lsubLong, .lmad] : List (Long → Instr)), Reads (f (lg 2 (.s 4) (.v 3) (.const 8) 0)) base) := by
  have h3 : ∀ k, k ≤ 12 → readsB (.smovLong (lg 2 (.s 2) (.s 4) (.v 0) (BitVec.ofNat 4 k))) base = true := by decide
  have h4 : ∀ f ∈ ([.ladd, .lsub] : List (Short → Instr)), readsB (f (sh 2 (.s 4) (.v 3))) base = true := by decide
  have h5 : ∀ f ∈ ([.laddLong, .lsubLong, .lmad] : List (Long → Instr)),
      readsB (f (lg 2 (.s 4) (.v 3) (.const 8) 0)) base = true := by decide
  exact ⟨reads_of _ _ (by decide), reads_of _ _ (by decide), fun k hk => reads_of _ _ (h3 k hk),
    fun f hf => reads_of _ _ (h4 f hf), fun f hf => reads_of _ _ (h5 f hf)⟩

theorem witness_DotProducts : Reads (.dp4 l2) base ∧ Reads (.dp2 l2) base :=
  ⟨reads_of _ _ (by decide), reads_of _ _ (by decide)⟩

def floatShorts : List (Short → Instr) :=
  [.fadd, .fsub, .fmul, .fdiv, .fsqrt, .fscale, .fmin, .fmax, .fabs, .fneg, .fsgn, .frint, .fclass, .frcp, .frsq, .fexp2,
   .flog2, .fsin, .fcos, .ftanh]
def floatLongs : List (Long → Instr) :=
  [.faddLong, .fsubLong, .fmulLong, .ffma, .fdivLong, .fsqrtLong, .fscaleLong, .fdot2, .fminLong, .fmaxLong, .fabsLong,
   .fnegLong, .fsgnLong, .frintLong, .fcmp, .fclassLong, .frcpLong, .frsqLong, .fexp2Long, .flog2Long, .fsinLong,
   .fcosLong, .ftanhLong, .cvt, .pack, .unpk]

/-- The hypotheses of FloatArithmetic, FloatSelectionAndTests, SpecialFunctions and Conversions. -/
theorem witness_floats : (∀ f ∈ floatShorts, Reads (f s2) base) ∧ (∀ f ∈ floatLongs, Reads (f l2) base) := by
  have h1 : ∀ f ∈ floatShorts, readsB (f s2) base = true := by decide
  have h2 : ∀ f ∈ floatLongs, readsB (f l2) base = true := by decide
  exact ⟨fun f hf => reads_of _ _ (h1 f hf), fun f hf => reads_of _ _ (h2 f hf)⟩

/-- A quotient, a root, a scaled value and the codes of the least and of the special values. -/
theorem witness_FloatArithmetic_values :
    finite (Machine.Num.fin false 1 2).exact = true ∧ finite (Machine.Num.fin true 3 4).exact = true ∧ valueOf (Machine.Num.fin true 3 4).exact ≠ 0 ∧
    (Machine.Num.fin false 1 2).div (.fin true 3 4) = (.real true 4 6, 0) ∧ (Machine.Num.fin true 0 2).div (.fin true 3 4) = (.zero false, 0) ∧
    (0 < 1 ∧ 1 < 0x7F800000) ∧ (0x80000000 < 0xFF7FFFFF ∧ 0xFF7FFFFF < 0xFF800000) ∧
    finite (Exact.real true 1 2) = true ∧ finite (.inf true) = false ∧ (∀ g n d, Exact.inf true ≠ .real g n d) := by
  refine ⟨?_, ?_, ?_, ?_, ?_, ?_, ?_, ?_, ?_, ?_⟩ <;> first | decide +kernel | (intro _ _ _ h; cases h)

/-- Codes of every kind: a signalling and a quiet NaN, an infinity, zeros and numbers. -/
theorem witness_FloatSelectionAndTests_values : ∀ f ∈ [fp32, fp16, bf16],
    f.nan < 2 * f.signW ∧ (f.read f.nan).isNan = true ∧ (∃ c, c < 2 * f.signW ∧ (f.read c).isSnan = true) ∧
    (∃ c, c < 2 * f.signW ∧ f.read c = .inf true) ∧ (f.signW < 2 * f.signW ∧ finite (f.read f.signW).exact = true ∧
      valueOf (f.read f.signW).exact = 0 ∧ valueOf (f.read 0).exact = 0) ∧ (1 < 2 * f.signW ∧ finite (f.read 1).exact = true) ∧
    (f.read 1).isNan = false ∧ Rnd.rna ≠ .sr ∧ Rnd.rna ≠ .mode := by
  have h : ∀ e ∈ [(fp32, 0x7F800001, 0xFF800000), (fp16, 0x7C01, 0xFC00), (bf16, 0x7F81, 0xFF80)], e.1.nan < 2 * e.1.signW ∧
      (e.1.read e.1.nan).isNan = true ∧ (e.2.1 < 2 * e.1.signW ∧ (e.1.read e.2.1).isSnan = true) ∧
      (e.2.2 < 2 * e.1.signW ∧ e.1.read e.2.2 = .inf true) ∧ (e.1.signW < 2 * e.1.signW ∧ finite (e.1.read e.1.signW).exact = true ∧
      valueOf (e.1.read e.1.signW).exact = 0 ∧ valueOf (e.1.read 0).exact = 0) ∧ (1 < 2 * e.1.signW ∧ finite (e.1.read 1).exact = true) ∧
      (e.1.read 1).isNan = false ∧ Rnd.rna ≠ .sr ∧ Rnd.rna ≠ .mode := by decide +kernel
  intro f hf
  simp only [List.mem_cons, List.not_mem_nil, or_false] at hf
  rcases hf with rfl | rfl | rfl
  · have := h _ (List.mem_cons_self ..); exact ⟨this.1, this.2.1, ⟨_, this.2.2.1⟩, ⟨_, this.2.2.2.1⟩, this.2.2.2.2⟩
  · have := h _ (List.mem_cons_of_mem _ (List.mem_cons_self ..)); exact ⟨this.1, this.2.1, ⟨_, this.2.2.1⟩, ⟨_, this.2.2.2.1⟩, this.2.2.2.2⟩
  · have := h _ (List.mem_cons_of_mem _ (List.mem_cons_of_mem _ (List.mem_cons_self ..)))
    exact ⟨this.1, this.2.1, ⟨_, this.2.2.1⟩, ⟨_, this.2.2.2.1⟩, this.2.2.2.2⟩

/-- Two formats, an integer format's least and greatest value and one past them, and places of `pack` and `unpk`. -/
theorem witness_Conversions_values :
    fp32 ∈ formats ∧ fp16 ≠ fp32 ∧ 0x7F800001 < 2 * fp32.signW ∧ (0 < 4 ∧ 4 ≤ 64) ∧ ((-8 : Int) ≤ -8 ∧ (-8 : Int) ≤ 7) ∧
    ((-9 : Int) < -8 ∨ (7 : Int) < -9) ∧ Rnd.sr ≠ .mode ∧ (0 < 1 ∧ 0 < 3) ∧ ((0xFFFFFFFF : Nat) < 2 ^ 32) ∧
    (0x7F % 256 ≠ 255) ∧ finite ((fmtOf .e4m3).read (byteOf 0x38 0)).exact = true ∧
    ((fmtOf .e4m3).read (byteOf 0x80 0)).isNan = true ∧ (fmtOf .e5m2).read (byteOf 0x7C 0) = .inf false ∧
    0x7C00 / 1024 % 32 = 31 ∧ 0x3C00 / 1024 % 32 ≠ 31 := by decide +kernel

theorem witness_ExactValues : finite (.real false 3 4) = true ∧ finite (.zero true) = true ∧
    (∀ f ∈ formats, 1 < 2 * f.signW ∧ finite (f.read 1).exact = true) := by decide

theorem witness_RoundingIsNearest : ∀ f ∈ formats,
    ((f.roundReal .rne false 0 false 1 3).flags &&& (fOF ||| fSA)) = 0 := by decide

/-- Lanes 0 and 1 hold a signalling NaN and 1.0, or both a NaN, in v1; MODE and the type are those of FP32. -/
def f32Lanes (a b : Word) : State := { base with cur := { grp with v := [(32, a), (33, b)] } }
def l2f (k : BitVec 4) : Long := { l2 with m := { l2.m with ty := .f32, subop := k } }

theorem witness_lanes_f32 :
    (∀ k, k ≤ 1 → readsB (.rext (l2f (BitVec.ofNat 4 k))) (f32Lanes 0x7F800001 0x3F800000) = true ∧
      readsB (.scan (l2f (BitVec.ofNat 4 k))) (f32Lanes 0x7F800001 0x3F800000) = true) ∧
    readsB (.raddLong (l2f 0)) (f32Lanes 0x7F800001 0x3F800000) = true ∧
    lanesOf (on (.rext (l2f 0)) (l2f 0) (f32Lanes 0x7F800001 0x3F800000)) = [0, 1] ∧
    (fp32.read 0x7F800001).isSnan = true ∧ (fp32.read 0x3F800000).isNan = false ∧
    readsB (.scan { l2 with m := { l2.m with sat := true } }) base = true := by decide

/-- Three groups of one cluster; the one that issues stands in the middle, or last, or first of the chain. -/
def inChain (before after : Bool) : State :=
  { base with cur := { grp with grpid := 1 }, others := (if before then [{ other with grpid := 0 }] else [])
                ++ (if after then [{ other with uid := 3, grpid := 2, loc := { slot := 2 } }] else []) }

theorem witness_PrefixesAndNeighbours_chain :
    [(true, true), (true, false), (false, true)].all (fun e => readsB (.nbr l2) (inChain e.1 e.2)) = true ∧
    (∀ e ∈ [(true, true), (true, false), (false, true)], Apart (inChain e.1 e.2) ∧ Present (inChain e.1 e.2) (inChain e.1 e.2).cur (inChain e.1 e.2).cur ∧
      ∀ d ∈ (inChain e.1 e.2).ctxs, d.uid = 1 ∨ Earlier d (inChain e.1 e.2).cur ∨ Earlier (inChain e.1 e.2).cur d) ∧
    (∀ d ∈ (inChain true false).ctxs, ¬ Earlier (inChain true false).cur d) ∧
    (∀ d ∈ (inChain false true).ctxs, ¬ Earlier d (inChain false true).cur) := by
  simp only [Apart, Present, Earlier]; decide

def crossShorts : List (Short → Instr) := [.ballot, .bcast, .shfl, .radd]
def crossLongs : List (Long → Instr) := [.vote, .ballotLong, .bcastLong, .shflLong, .raddLong, .scan, .nbr]

/-- The hypotheses of VotesAndShuffles, Reductions and PrefixesAndNeighbours. -/
theorem witness_lanes : (∀ f ∈ crossShorts, Reads (f s2) base) ∧ (∀ f ∈ crossLongs, Reads (f l2) base) ∧
    (∀ k, k ≤ 6 → Reads (.rext { l2 with m := { l2.m with subop := BitVec.ofNat 4 k } }) base) ∧ l2.w.a = .v 1 := by
  have h1 : ∀ f ∈ crossShorts, readsB (f s2) base = true := by decide
  have h2 : ∀ f ∈ crossLongs, readsB (f l2) base = true := by decide
  have h3 : ∀ k, k ≤ 6 → readsB (.rext { l2 with m := { l2.m with subop := BitVec.ofNat 4 k } }) base = true := by decide
  exact ⟨fun f hf => reads_of _ _ (h1 f hf), fun f hf => reads_of _ _ (h2 f hf), fun k hk => reads_of _ _ (h3 k hk), rfl⟩


/-! ### The hypotheses are met: memory and control -/

/-- `[s0 pair + 0]` in two lanes, with v8 as data and v12 as the compare data or the binned format. -/
def x0 : Mem := mm 4 (.s 0) (.const 0) (.v 8) (.v 12) .b32 0
def atPage : State :=
  let s := withS base [(0, 0x10000)]
  { s with cur := { s.cur with v := [(384, 0x10B), (385, 0x10B)] } }
def idle : Mem := { x0 with d := { x0.d with pneg := true } }

def globalWitness (r : GRow) : Bool :=
  readsB (r.form x0) atPage && goesB r x0 atPage && onD (r.form x0) x0 atPage != 0 && readsB (r.form idle) atPage
    && onD (r.form idle) idle atPage == 0

/-- GlobalAccessIssues, and the lanes of IssuesThatLeaveMemory. -/
theorem witness_GlobalAccessIssues : ∀ r ∈ globalRows, Reads (r.form x0) atPage ∧ onD (r.form x0) x0 atPage ≠ 0 ∧
    GoesThrough r x0 atPage ∧ atPage.cur.counter r.ctr < 63 ∧ Reads (r.form idle) atPage ∧ onD (r.form idle) idle atPage = 0 := by
  have h : ∀ r ∈ globalRows, globalWitness r = true := by decide
  have hc : ∀ r ∈ globalRows, atPage.cur.counter r.ctr < 63 := by decide
  intro r hr
  have h := h r hr
  simp only [globalWitness, Bool.and_eq_true, bne_iff_ne, beq_iff_eq] at h
  exact ⟨reads_of _ _ h.1.1.1.1, h.1.1.2, goes_of _ _ _ h.1.1.1.2, hc r hr, reads_of _ _ h.1.2, h.2⟩

/-- `LanesReach` as a test. -/
def reachB (i : Instr) (x : Mem) (s : State) (n : Nat) (w : Want) (aligned : Nat → Bool) (late : Nat → Leaf → Bool) : Bool :=
  (List.range 32).all (fun j => !(onD i x s).getLsbD j ||
    (let a := ((view i s).gaddr x j).toNat
     aligned a && decide (a < 2 ^ 57) &&
      (match s.access (s.mine a n w) s.cur.failed with
        | .ok l => late j l
        | _ => false)))

theorem reach_of (i : Instr) (x : Mem) (s : State) (n : Nat) (w : Want) (aligned : Nat → Bool) (late : Nat → Leaf → Bool)
    (h : reachB i x s n w aligned late = true) : LanesReach i x s n w aligned late := by
  intro j hj hm
  have h := List.all_eq_true.mp h j (List.mem_range.mpr hj)
  simp only [hm, Bool.not_true, Bool.false_or, Bool.and_eq_true, decide_eq_true_eq] at h
  obtain ⟨⟨h1, h2⟩, h3⟩ := h
  refine ⟨h1, h2, ?_⟩
  split at h3
  · exact ⟨_, ‹_›, h3⟩
  · cases h3

/-- GlobalAccessesComplete: the ten forms at an Unclaimed or Shared HBM page, 24-aligned for abin. -/
theorem witness_GlobalAccessesComplete :
    let any := fun (_ : Nat) (_ : Leaf) => true
    let hbm := fun (_ : Nat) (l : Leaf) => l.gps != 4 && l.mt != 2
    let byN := fun (n a : Nat) => a % n == 0
    let row := fun (i : Instr) (n : Nat) (w : Want) (late : Nat → Leaf → Bool) =>
      Reads i atPage ∧ onD i x0 atPage ≠ 0 ∧ LanesReach i x0 atPage n w (byN n) late
    row (.ld x0) 4 .load any ∧ row (.st x0) 4 .store any ∧ row (.atom x0) 4 .atomic hbm ∧ row (.ared x0) 4 .atomic hbm ∧
    row (.afadd x0) 4 .atomic hbm ∧ row (.afred x0) 4 .atomic hbm ∧ row (.cas x0) 4 .atomic hbm ∧
    row (.cas64 x0) 8 .atomic hbm ∧ row (.cas128 x0) 16 .atomic hbm ∧
    (Reads (.abin x0) atPage ∧ onD (.abin x0) x0 atPage ≠ 0 ∧
      LanesReach (.abin x0) x0 atPage 24 .bin (fun a => a % 8 == 0 && a % 4096 % 24 == 0 && decide (a % 4096 ≤ 4056))
        (fun j l => fmtLegalBin ((view (.abin x0) atPage).src x0.immW x0.d.e j).toNat && l.mt != 2)) ∧
    atPage.cur.counter 0 < 63 ∧ atPage.cur.counter 1 < 63 ∧ atPage.cur.counter 7 < 63 := by
  refine ⟨⟨reads_of _ _ ?_, ?_, reach_of _ _ _ _ _ _ _ ?_⟩, ⟨reads_of _ _ ?_, ?_, reach_of _ _ _ _ _ _ _ ?_⟩,
    ⟨reads_of _ _ ?_, ?_, reach_of _ _ _ _ _ _ _ ?_⟩, ⟨reads_of _ _ ?_, ?_, reach_of _ _ _ _ _ _ _ ?_⟩,
    ⟨reads_of _ _ ?_, ?_, reach_of _ _ _ _ _ _ _ ?_⟩, ⟨reads_of _ _ ?_, ?_, reach_of _ _ _ _ _ _ _ ?_⟩,
    ⟨reads_of _ _ ?_, ?_, reach_of _ _ _ _ _ _ _ ?_⟩, ⟨reads_of _ _ ?_, ?_, reach_of _ _ _ _ _ _ _ ?_⟩,
    ⟨reads_of _ _ ?_, ?_, reach_of _ _ _ _ _ _ _ ?_⟩, ⟨reads_of _ _ ?_, ?_, reach_of _ _ _ _ _ _ _ ?_⟩, ?_, ?_, ?_⟩ <;> decide

/-- Nothing is cached. -/
def noPage : State := { atPage with tlb := [] }

theorem witness_IssuesThatLeaveMemory :
    (∀ f ∈ ([.lds, .sts, .ldv, .stv, .obst, .obld, .acopy] : List (Mem → Instr)),
      readsB (f idle) atPage = true ∧ onD (f idle) idle atPage = 0) ∧
    ∀ r ∈ globalRows, readsB (r.form x0) noPage = true ∧ noPage.cur.counter r.ctr < 63 ∧ (onD (r.form x0) x0 noPage).getLsbD 0 = true ∧
      ∀ j, j < 32 → r.aligned x0 ((view (r.form x0) noPage).gaddr x0 j) = true ∧
        noPage.access (noPage.mine ((view (r.form x0) noPage).gaddr x0 j).toNat (r.len x0) r.want) [] = .busy := by
  refine ⟨by decide, ?_⟩
  decide +kernel

/-- R89 by hand: 2^23 in bin 0 and 2^24 in bin 1 are, with EMAX 127, 2^71 + 2^48 units of 2^-71, so 1 + 2^-23. -/
theorem test_binned_total :
    (binRead 127 (natLE 8 (2 ^ 23) ++ natLE 8 (2 ^ 24) ++ natLE 8 0)).code = 0x3F800001 ∧
    (binRead 127 (natLE 8 nanMarker ++ natLE 16 0)).code = 0x7FC00000 := by decide

/-- R399, R409: a read before bring-up has finished gives all ones; R10: afterwards the register's value. -/
theorem test_register_reads :
    State.reset.readBar 0 0x10000 = 2 ^ 64 - 1 ∧
    ({ State.reset with sys := { State.reset.sys with booted := true, bankthr := 77 } } : State).readBar 0 0x10030 = 77 := by decide

/-- `[s4 + 0]`, at the last word of the scratchpad, of a vault window and of a reservation's range. -/
def xs : Mem := mm 4 (.s 4) (.const 0) (.v 8) (.v 0) .b32 0
def xo : Mem := mm 4 (.const 2) (.s 4) (.v 8) (.v 0) .b32 0
def inSpaces : State :=
  { withS base [(4, 252)] with
    parts := [(0, { slices := 1, vault := 1 })],
    quads := [(0, { rsv := [(2, { team := 1, kind := 0, base := 4096, len := 256 })] })] }

theorem witness_OffsetAccessIssues :
    (∀ f ∈ ([.lds, .sts, .ldv, .stv] : List (Mem → Instr)), readsB (f xs) inSpaces = true ∧ onD (f xs) xs inSpaces ≠ 0 ∧
      (∀ j, j < 32 → ((view (f xs) inSpaces).saddr xs j).toNat % 4 = 0 ∧
        ((view (f xs) inSpaces).saddr xs j).toNat + 4 ≤ (inSpaces.team 1).kern.scratch)) ∧
    256 ≤ (inSpaces.part 0).vwsize ∧ inSpaces.connOf 0 0 % 2 ^ 14 = 0x3FFF ∧
    (∀ f ∈ ([.obst, .obld] : List (Mem → Instr)), readsB (f xo) inSpaces = true ∧ onD (f xo) xo inSpaces ≠ 0 ∧
      ((view (f xo) inSpaces).uni xo.immW xo.w.a).toNat = 2 ∧
      ∀ j, j < 32 → ((view (f xo) inSpaces).src xo.immW xo.w.b j).toNat + 4 ≤ ((inSpaces.quad 0).rsvAt 2).len) ∧
    ((inSpaces.quad 0).rsvAt 2).team = 1 ∧ ((inSpaces.quad 0).rsvAt 2).kind ≠ 2 := by decide

/-- R140, R204: a store into a page of a grid's spill area begins its operation and stores nothing. -/
theorem test_stv_guarded :
    (match exec (.stv xs) { inSpaces with grids := [{ part := 0, kern, areas := [(0, 4096)] }] } with
     | .next t => t.ops.map (fun o => (o.ctr, o.pieces.map (·.phase))) == [(1, [.abandoned, .abandoned])] && t.cur.tcause == 0
     | _ => false) = true := by decide

def xc : Mem := mm 0 (.s 4) (.s 6) (.v 8) (.v 8) .b32 12

theorem witness_OtherAccessesIssue :
    readsB (.ldsc { x0 with w := { x0.w with dst := 8 } }) atPage = true ∧
    (∃ l, atPage.access (atPage.mine 0x10000 4 .load) [] = .ok l) ∧
    readsB (.pref x0) atPage = true ∧ readsB (.acopy xc) base = true ∧ onD (.acopy xc) xc base ≠ 0 ∧ xc.d.copyDir = 3 ∧
    ∀ j, j < 32 → ((view (.acopy xc) base).copyLane xc j).n ≤ 32 ∧ ((view (.acopy xc) base).copyLane xc j).dst.toNat % 32 = 0 :=
  ⟨by decide, ⟨_, rfl⟩, by decide⟩

/-- Lane 0's offset is two bytes past, and its base one byte past, an aligned place. -/
def xm : Mem := mm 4 (.s 4) (.v 2) (.v 8) (.v 8) .b32 0
def offByOne : State := { base with cur := { grp with s := [(4, 0x10001)], v := [(64, 2), (256, 16)] } }

theorem witness_AlignmentTraps :
    alignRows.all (fun r => readsB (r.form xm) offByOne && (onD (r.form xm) xm offByOne).getLsbD 0 &&
      !r.aligned xm (r.addr xm (view (r.form xm) offByOne) 0) &&
      (List.range 32).all (fun k => !(onD (r.form xm) xm offByOne).getLsbD k || r.first xm (view (r.form xm) offByOne) k)) = true ∧
    CanTrap offByOne ∧ offByOne.cur.tvec ≠ 0 ∧
    readsB (.ldsc x0) (withS base [(0, 0x10001)]) = true ∧
    ((view (.ldsc x0) (withS base [(0, 0x10001)])).uni64 x0.immW x0.w.a
      + ((view (.ldsc x0) (withS base [(0, 0x10001)])).uni x0.immW x0.w.b).signExtend 64).toNat % 4 ≠ 0 := by
  simp only [CanTrap]; decide

theorem witness_Monitors :
    readsB (.mwait x0) atPage = true ∧ readsB (.mclr x0) atPage = true ∧ atPage.cur.uid ≠ 0 ∧
    (∀ j, j < 32 → (onD (.mwait x0) x0 atPage).getLsbD j = true → ((view (.mwait x0) atPage).gaddr x0 j).toNat = 0x10000) ∧
    ∃ l, atPage.access (atPage.mine 0x10000 4 .mwait) [] = .ok l ∧ l.mt ≠ 2 ∧ l.gps = 0 :=
  ⟨by decide, by decide, by decide, by decide, ⟨_, rfl, by decide⟩⟩

def fenceOf (scope : Scope) (subop : BitVec 4) : Mem :=
  let x := mm 0 (.v 0) (.v 0) (.v 0) (.v 0) .b32 subop
  { x with d := { x.d with scope } }
def counting (k n : Nat) : State := { base with cur := { grp with ctr := [(k, n)] } }

/-- Package time has not passed the group's LASTWCT. -/
def unreleased : State := { base with cur := { grp with lastwct := base.time } }

theorem witness_FencesAndWaits :
    (∀ k, k < 3 → readsB (.fence (fenceOf .package (BitVec.ofNat 4 k))) base = true) ∧ base.cur.lastwct < base.time ∧
    (∀ k ∈ [1, 2, 3, 4, 5, 6], readsB (.fence (fenceOf .package 0)) (counting k 1) = true ∧ (counting k 1).cur.counter k ≠ 0) ∧
    (∀ k ∈ [1, 2, 3, 4, 5, 6, 7], base.cur.counter k = 0 ∧ unreleased.cur.counter k = 0) ∧ base.ops = [] ∧
    readsB (.fence (fenceOf .shard 2)) (counting 7 1) = true ∧ (counting 7 1).cur.counter 7 ≠ 0 ∧
    (∀ k, k < 3 → readsB (.fence (fenceOf .package (BitVec.ofNat 4 k))) unreleased = true) ∧ unreleased.time ≤ unreleased.cur.lastwct ∧
    readsB (.sfence (fenceOf .grp 0)) base = true ∧
    (∀ k ∈ [1, 2, 3, 4, 5], readsB (.sfence (fenceOf .grp 0)) (counting k 1) = true) ∧
    readsB (.waitc (sh 6 (.const 0) (.v 0))) inThread = true ∧ inThread.cur.kind = .thread ∧ inThread.cur.loadErr = none ∧
    (∀ k, k < 8 → readsB (.waitc (sh (BitVec.ofNat 7 k) (.const 2) (.v 0))) (counting k 2) = true ∧ (counting k 2).cur.counter k ≤ 2 ∧
      2 < (counting k 3).cur.counter k) := by decide


/-! Control. -/

def jump (n : Word) : Short := { sh 0 (.v 0) (.v 0) with imm := some n }
def braOf (k : BitVec 4) : Long := { lg 0 (.const 1) (.v 0) (.v 0) k with imm := some 40 }

theorem witness_Transfers :
    readsB (.jmp (jump 40)) base = true ∧ (∀ k, k < 4 → readsB (.bra (braOf (BitVec.ofNat 4 k))) base = true) ∧
    readsB (.call { jump 40 with w := { (jump 40).w with dst := 6 } }) base = true ∧
    readsB (.ret (sh 0 (.s 4) (.v 0))) (withS base [(4, 0x200)]) = true ∧
    ((view (.ret (sh 0 (.s 4) (.v 0))) (withS base [(4, 0x200)])).uni64 0 (.s 4)).toNat = 0x200 := by decide

/-- A fragment of one lane, at the end of a clause of two words, whose join is at 0x1A0 and waits for that lane. -/
def atJoin (jmask : Word) : State :=
  { base with cur := { grp with
      frags := some { pc := 0x100, fmask := 1, amask := 1, join := some 0 } :: List.replicate 7 none,
      joins := some { jaddr := 0x1A0, jmask, jarr := 2 } :: List.replicate 7 none } }

/-- `bdiv` to 0x1A0 with its join at 0x1C8, in the lanes of p1. -/
def bdivP : Long := { lg 0 (.v 0) (.v 0) (.v 0) 0 with
  m := { (lg 0 (.v 0) (.v 0) (.v 0) 0).m with pred := 1 }, imm := some 0x00280032 }
def bdivIn (p1 : Word) (full : Bool) : State :=
  { base with cur := { grp with
      p := [(1, p1)],
      frags := some { pc := 0x100, fmask := 3, amask := 3 } :: List.replicate 7 (if full then some { fmask := 4 } else none) } }

def noRecord : State :=
  { bdivIn 1 false with cur := { (bdivIn 1 false).cur with joins := List.replicate 8 (some { jaddr := 0x700, jmask := 4 }) } }

theorem witness_DivergenceAndJoins :
    readsB (.jmp (jump 40)) (atJoin 3) = true ∧ targetOf (atJoin 3).cur 40 = 0x1A0 ∧
    (2 : Word) ||| (atJoin 3).cur.frag.fmask = 3 ∧ (2 : Word) ||| (atJoin 7).cur.frag.fmask ≠ 7 ∧
    (([0, 1, 3] : List Word).all (fun m => readsB (.bdiv bdivP) (bdivIn m false) && on (.bdiv bdivP) bdivP (bdivIn m false) == m)) = true ∧
    lowestFree (bdivIn 1 false).cur.frags = some 1 ∧ lowestFree (bdivIn 1 false).cur.joins = some 0 ∧
    targetOf (bdivIn 1 false).cur 40 ≠ targetOf (bdivIn 1 false).cur 50 ∧
    (bdivIn 1 false).cur.nextHdr ≠ targetOf (bdivIn 1 false).cur 50 ∧
    readsB (.bdiv bdivP) (bdivIn 1 true) = true ∧ lowestFree (bdivIn 1 true).cur.frags = none ∧
    readsB (.bdiv bdivP) noRecord = true ∧ lowestFree noRecord.cur.frags = some 1 ∧ lowestFree noRecord.cur.joins = none ∧
    noRecord.cur.kind = .group ∧ noRecord.cur.inh = false ∧ noRecord.cur.tvec ≠ 0 := by
  decide

/-- A clause's last word, a branch not taken and one taken that bring a fragment to its join, whose parent's join is there too; a
`bdiv` that splits. -/
def nested : State :=
  { base with cur := { grp with
      clause := { grp.clause with count := 1 }
      frags := some { pc := 0x100, fmask := 1, amask := 1, join := some 0 } :: List.replicate 7 none
      joins := [some { jaddr := 0x108, jmask := 3, jarr := 2, jparent := some 1 }, some { jaddr := 0x108, jmask := 7, jarr := 4 }]
        ++ List.replicate 6 none } }

theorem witness_DivergenceAndJoins_lands :
    readsB (.nop (sh 0 (.v 0) (.v 0))) nested = true ∧ nested.cur.clause.count ≤ nested.cur.clause.pos + 1 ∧ nested.cur.nextHdr = 0x108 ∧
    nested.cur.joins.length ≤ 8 ∧
    (∀ k ∈ [0, 2], readsB (.bra (braOf (BitVec.ofNat 4 k))) nested = true) ∧
    (let x : Long := { braOf 0 with m := { (braOf 0).m with pred := 1 } }; readsB (.bra x) nested = true ∧ on (.bra x) x nested = 0) ∧
    (let x : Long := { braOf 2 with w := { (braOf 2).w with a := .const 0 } }
     readsB (.bra x) nested = true ∧ (view (.bra x) nested).opA x 0 = 0) ∧
    readsB (.jmp (jump 2)) nested = true ∧ readsB (.call { jump 2 with w := { (jump 2).w with dst := 6 } }) nested = true ∧
    readsB (.ret (sh 0 (.s 4) (.v 0))) (withS nested [(4, 0x108)]) = true ∧
    ((bdivIn 1 false).cur.frags.getD (bdivIn 1 false).cur.fsel none).isSome = true ∧ (bdivIn 1 false).cur.joins.length ≤ 8 := by
  decide +kernel

/-- R24: both joins complete, and the lanes of the last go on in the lowest free slot. -/
theorem test_nested_joins :
    (match exec (.nop (sh 0 (.v 0) (.v 0))) nested with
     | .next t => t.cur.frags.map (Option.map (fun f => (f.pc, f.fmask))) == some (0x108, 7) :: List.replicate 7 none &&
         t.cur.joins == List.replicate 8 none
     | _ => false) = true := by decide +kernel

/-- R23: a free slot with no free join record raises DETAIL 1. -/
theorem test_no_join_record :
    (match exec (.bdiv bdivP) noRecord with
     | .next t => t.cur.tcause.toNat % 2 ^ 24 == 0x10004
     | _ => false) = true := by
  decide

/-- A group of two fragments: lanes 0 and 1, and lane 2. -/
def twoFrags : State :=
  { base with cur := { grp with
      frags := [some { pc := 0x100, fmask := 3, amask := 3 }, some { pc := 0x300, fmask := 4, amask := 4 }] ++ List.replicate 6 none } }

theorem witness_Exits :
    readsB (.exit (sh 0 (.v 0) (.v 0))) base = true ∧ base.cur.idle = true ∧ base.cur.copyErrs = [] ∧
    (counting 0 1).cur.idle = false ∧ readsB (.exit (sh 0 (.v 0) (.v 0))) inThread = true ∧
    readsB (.exit (sh 0 (.v 0) (.v 0))) twoFrags = true ∧ (4 : Word) &&& ~~~twoFrags.cur.frag.fmask ≠ 0 := by decide

/-- Two lanes leave; the third waits at their join, which then is complete, or another fragment goes on without one. -/
def leaving : State :=
  { base with cur := { grp with
      frags := some { pc := 0x100, fmask := 3, amask := 3, join := some 0 } :: List.replicate 7 none
      joins := some { jaddr := 0x700, jmask := 7, jarr := 4, jexm := 4 } :: List.replicate 7 none } }

theorem witness_Exits_records :
    readsB (.exit (sh 0 (.v 0) (.v 0))) leaving = true ∧ leaving.cur.joins.length ≤ 8 ∧
    cutJoins 3 leaving.cur.joins = some { jaddr := 0x700, jmask := 4, jarr := 4, jexm := 4 } :: List.replicate 7 none ∧
    lowestFree (cutFrags 3 leaving.cur.frags) = some 0 ∧
    (∀ r, some r ∉ cutJoins 3 twoFrags.cur.joins) ∧ (∃ f, some f ∈ cutFrags 3 twoFrags.cur.frags) ∧
    (∀ r, some r ∉ cutJoins 3 base.cur.joins) ∧ (∀ f, some f ∉ cutFrags 3 base.cur.frags) := by
  have h : ∀ {α : Type} (l : List (Option α)), l.all Option.isNone = true → ∀ r, some r ∉ l := by
    intro α l h r hr
    simpa using List.all_eq_true.mp h _ hr
  refine ⟨by decide, by decide, by decide, by decide, h _ (by decide), ⟨_, List.mem_cons_of_mem _ (List.mem_cons_self ..)⟩, h _ (by decide),
    h _ (by decide)⟩

/-- R24, R25: the join completes with the lane that waits there. -/
theorem test_exit_completes :
    (match exec (.exit (sh 0 (.v 0) (.v 0))) leaving with
     | .next t => t.cur.frags.map (Option.map (fun f => (f.pc, f.fmask))) == some (0x700, 4) :: List.replicate 7 none
     | _ => false) = true := by decide

theorem witness_MasksModesAndRegisters :
    readsB (.wexm (sh 0 (.const 1) (.v 0))) base = true ∧
    (([0x01, 0x86] : List Word).all (fun a => readsB (.wmode (sh 0 (.s 4) (.v 0))) (withS base [(4, a)]) &&
      decide (1 ≤ a.toNat % 8 ∧ a.toNat % 8 ≤ 6 ∧ a.toNat / 16 % 16 ≤ 8) && !a.getLsbD 8)) = true ∧
    readsB (.rdidx (sh 2 (.s 4) (.v 0))) (withS base [(4, 31)]) = true ∧
    readsB (.wridx (sh 0 (.s 4) (.v 1))) (withS base [(4, 31)]) = true ∧ (31 : Word).toNat < base.cur.acq ∧
    readsB (.nop (sh 0 (.v 0) (.v 0))) base = true ∧
    (∀ n, n ≤ 6 → readsB (.racq (sh 0 (.const (BitVec.ofNat 5 n)) (.v 0))) base = true ∧ base.cur.acq + 16 * n ≤ 128 ∧
      unitsOf (32 + 16 * n) - unitsOf 32 ≤ base.freeUnits 0 0) ∧
    (base.cur.frags.getD base.cur.fsel none).any (fun f => f.racq.isNone) = true ∧ base.cur.racqs = [] ∧ base.others = [] ∧
    readsB (.rrel (sh 0 (.const 0) (.v 0))) base = true ∧ 32 ≤ base.cur.acq := by
  decide


/-! ### The hypotheses are met: traps, tiles, barriers, arrays -/

def z0 : Short := sh 0 (.v 0) (.v 0)

/-- A group in its handler, whose trap interrupted the clause it saved; `back` is EPC. -/
def inHandler (back : Word64) : State :=
  { base with cur := { grp with
      tcause := 0x81000001, epc := back, saved := some { epc := 0x104, clause := { grp.clause with pos := 0 }, amask := 1 } } }

theorem witness_TrapInstructions :
    readsB (.trap z0) base = true ∧ readsB (.svc (sh 0 (.const 1) (.v 0))) base = true ∧ readsB (.brk z0) base = true ∧ readsB (.ill z0) base = true ∧
    CanTrap base ∧ base.cur.tvec ≠ 0 ∧ base.cur.svec ≠ 0 ∧ base.cur.ended = false ∧ base.cur.dbgctl.getLsbD 0 = false ∧
    base.cur.uid ≠ 0 ∧ (∀ d ∈ base.others, d.uid ≠ base.cur.uid) ∧
    (inHandler 0x104).cur.inh = true ∧ inThread.cur.kind = .thread := by simp only [CanTrap]; decide

/-- An add that names v32 of a group of 32 registers. -/
def unheld : Instr := .iadd (sh 2 (.v 32) (.const 3))

theorem witness_TrapInstructions_double :
    (∀ i ∈ [Instr.trap z0, .ill z0, .brk z0, .svc (sh 0 (.const 1) (.v 0)), .tret z0], readsB i (inHandler 0x104) = true ∧ readsB i inThread = true) ∧
    (inHandler 0x104).cur.dbgctl.getLsbD 0 = false ∧ (inHandler 0x104).cur.uid ≠ 0 ∧ (inHandler 0x104).others = [] ∧
    readsB (.tret z0) (inHandler 0x102) = true ∧ (inHandler 0x102).cur.inh = true ∧ (inHandler 0x102).cur.epc.toNat % 4 ≠ 0 ∧
    (∃ n r, unheld.enc = some n ∧ (inHandler 0x104).cur.checkOperands unheld.shape n = some r) ∧
    (∃ r ∈ alignRows, let s := withS (inHandler 0x104) [(0, 0x10001)]; readsB (r.form x0) s = true ∧
      (∀ k, k < 32 → (onD (r.form x0) x0 s).getLsbD k = true → r.first x0 (view (r.form x0) s) k = true) ∧
      (onD (r.form x0) x0 s).getLsbD 0 = true ∧ r.aligned x0 (r.addr x0 (view (r.form x0) s) 0) = false) := by
  refine ⟨by decide, by decide, by decide, by decide, by decide, by decide, by decide, ⟨_, _, rfl, rfl⟩, ?_⟩
  exact ⟨_, List.mem_cons_self .., by decide⟩

/-- v31 is the last register of a new group; v32 is the first it may not name. -/
theorem witness_OperandTraps : base.cur.acq ≤ (32 : BitVec 7).toNat ∧ ¬ base.cur.acq ≤ (31 : BitVec 7).toNat ∧
    (∃ n r, (Instr.iadd (sh 2 (.v 32) (.const 3))).enc = some n ∧
      base.cur.checkOperands (Instr.iadd (sh 2 (.v 32) (.const 3))).shape n = some r ∧ r.code = 3) ∧
    CanTrap base ∧ base.cur.tvec ≠ 0 :=
  ⟨by decide, by decide, ⟨_, _, rfl, rfl, rfl⟩, ⟨rfl, rfl⟩, by decide⟩

theorem witness_TrapReturn : readsB (.tret z0) base = true ∧ CanTrap base ∧
    ([0x104, 0x200] : List Word64).all (fun e => readsB (.tret z0) (inHandler e) && (inHandler e).cur.inh && e.toNat % 4 == 0
      && decide (e.toNat < 2 ^ 57) && ((inHandler e).cur.frags.getD 0 none).isSome) = true ∧
    (inHandler 0x104).cur.saved.isSome = true ∧ (inHandler 0x200).cur.frag.join = none := by simp only [CanTrap]; decide

def sysNo (n : BitVec 8) (dst : BitVec 7) : Short := { w := { nowb := false, dst, a := .s 4, b := Src.ofByte n }, imm := none }
def sup : State := { base with cur := { grp with priv := true } }

theorem witness_SystemRegisters :
    (sysRows.all (fun r => readsB (.rdsys (sysNo (BitVec.ofNat 8 r.num) 6)) sup
      && (sysNo (BitVec.ofNat 8 r.num) 6).w.b.toByte.toNat == r.num) = true) ∧
    (sysWrites.all (fun r => readsB (.wrsys (sysNo (BitVec.ofNat 8 r.num) 0)) sup) = true) ∧ sup.cur.priv = true ∧
    readsB (.wrsys (sysNo 0x12 0)) sup = true ∧ base.cur.priv = false ∧
    ([0x10, 0x11, 0x12, 0x13] : List (BitVec 8)).all (fun n => readsB (.rdsys (sysNo n 6)) base && readsB (.wrsys (sysNo n 0)) base) = true ∧
    CanTrap base := by simp only [CanTrap]; decide

/-- Point 1 names v3 and v5; every row of its tile is free. -/
def suspP : Short := { z0 with imm := some 1 }
def noLanes : State := { base with cur := { grp with frags := some { pc := 0x100, fmask := 3, amask := 0 } :: List.replicate 7 none } }

theorem witness_Suspends : readsB (.susp suspP) base = true ∧ HasTeam base ∧
    (base.team 1).kern.named 1 = some { id := 1, live := [3, 5], resume := 0x500 } ∧ base.cur.idle = true ∧
    base.cur.inh = false ∧ base.cur.exm ≠ 0 ∧ noLanes.cur.exm = 0 ∧ ((base.team 1).pair 1).tile = some 0 ∧
    (lanesOf base.cur.exm).length ≤ ((base.team 1).freeRows 1).length ∧ base.cur.frag.fmask &&& ~~~base.cur.exm = 0 := by
  simp only [HasTeam]; decide

/-- The pair's tile is full of `n` sleeping rows, or the pair has none; other pairs hold `held` tiles; the spill area has `spq` slots. -/
def atSusp (tile : Option Nat) (n held spq : Nat) : State :=
  { base with
    uids := 99
    teams := [{ team with
      spq, pairs := { point := 1, tile } :: (List.range held).map (fun k => { point := 2 + k, tile := some k })
      rows := (List.range n).map (fun k => { point := 1, place := .tile k, lane := 0, cols := [5, 6], age := k }) }] }

theorem witness_Suspends_places :
    (∀ e ∈ [(none, 0, 0, 0), (none, 0, 32, 32), (some 31, 63, 31, 32), (some 31, 63, 31, 31), (none, 0, 32, 31)],
      let s := atSusp e.1 e.2.1 e.2.2.1 e.2.2.2
      readsB (.susp suspP) s = true ∧ HasTeam s ∧ (s.pointUse (s.team 1) { id := 1, live := [3, 5], resume := 0x500 }) = s ∧ s.bindNext 0 0 = s ∧
      ((s.team 1).rows.map (·.age)).Nodup ∧ (∀ r ∈ (s.team 1).rows, r.age ≤ s.uids) ∧ s.mons = [] ∧ s.cur.uid ≠ 0 ∧ s.others = []) ∧
    (atSusp none 0 0 0).freeTile 0 0 = some 0 ∧ ((atSusp none 0 0 0).team 1).pair 1 = { point := 1 } ∧
    (atSusp none 0 32 32).freeTile 0 0 = none ∧ ((atSusp none 0 32 32).team 1).freeSpills.length = 32 ∧
    (((atSusp (some 31) 63 31 32).team 1).pair 1).tile = some 31 ∧ (((atSusp (some 31) 63 31 32).team 1).freeRows 1).length = 1 ∧
    (((atSusp (some 31) 63 31 32).team 1).inTile 1).length = 63 ∧ ((atSusp (some 31) 63 31 31).team 1).freeSpills.length = 31 ∧
    ((atSusp none 0 32 31).team 1).freeSpills.length = 31 ∧ (counting 0 1).cur.idle = false ∧
    (lanesOf base.cur.exm).length = 2 := by
  simp only [HasTeam]; decide +kernel

/-- R207: the 32 oldest sleeping rows go to the spill area, and the new rows take the lowest places. -/
theorem test_susp_spills :
    ran (atSusp (some 31) 63 31 32) (.susp suspP) (fun t =>
      (t.team 1).rows.countP (fun r => match r.place with | .spill _ => true | _ => false) == 32 && (t.team 1).rows.length == 65) = true := by
  decide +kernel

/-- Three rows of point 1: two asleep and one woken, in the tile. -/
def rowAt (k : Nat) (woke : Bool) : Row := { point := 1, place := .tile k, woke, lane := k, cols := [5, word k], age := k }
def withRows : State := { base with teams := [{ team with rows := [rowAt 0 false, rowAt 1 true, rowAt 2 false] }] }

theorem witness_FrameInstructions :
    (([.fwake, .fthr, .fflush, .fstat] : List (Short → Instr)).all (fun f => readsB (f (sh 6 (.const 1) (.const 1))) withRows) = true) ∧
    HasTeam withRows ∧ ((withRows.team 1).rows.map (·.age)).Nodup ∧ ((withRows.team 1).kern.named 1).isSome = true ∧
    readsB (.fxform (lg 5 (.const 1) (.const 3) (.v 0) 0)) withRows = true ∧
    ([3, 5] : List Nat).findIdx? (· == 5) = some 1 ∧
    (∃ r ∈ (withRows.team 1).rows, r.point = 1 ∧ r.woke = true ∧ r.tileRow.isSome = true) := by
  simp only [HasTeam]; decide

/-- A barrier object at the last place of the scratchpad, with one arrival to come in phase 7, or two. -/
def withObject (pending : Nat) : State :=
  { withS base [(4, 240)] with teams := [{ team with scratch := Cells.setMany 0 [] 240 (natLE 4 2 ++ natLE 4 pending ++ natLE 4 7) }] }

theorem witness_Barriers_objects :
    (∀ n ∈ [1, 2], readsB (.binit (sh 0 (.s 4) (.const 3))) (withObject n) = true ∧ HasTeam (withObject n) ∧
      readsB (.arrive (sh 6 (.s 4) (.v 0))) (withObject n) = true ∧ ((withObject n).team 1).rd 244 4 = n ∧
      ((withObject n).team 1).abandoned = false ∧ (withObject n).cur.counter 1 = 0) ∧
    240 % 16 = 0 ∧ 240 + 16 ≤ ((withObject 1).team 1).kern.scratch ∧
    readsB (.bwait (sh 0 (.s 4) (.const 7))) (withObject 1) = true ∧ ((withObject 1).team 1).rd 248 4 = 7 ∧
    readsB (.bwait (sh 0 (.s 4) (.const 6))) (withObject 1) = true := by
  simp only [HasTeam]; decide

/-- Two groups of the team: the other one waits at barrier 3, or does not. -/
def atBar (go : Bool) (there : Bool) : State :=
  { base with
      cur := { grp with frags := some { pc := 0x100, fmask := 3, amask := 3, barGo := go } :: List.replicate 7 none }
      others := [{ other with frags := some { pc := 0x100, fmask := 3, amask := 3, bar := if there then some 3 else none } :: List.replicate 7 none }] }

/-- A second fragment of the last group to arrive waits at the barrier. -/
def withSibling : State :=
  let s := atBar false true
  { s with cur := { s.cur with frags := [some { pc := 0x100, fmask := 3, amask := 3 }, some { pc := 0x300, fmask := 4, amask := 4, bar := some 3 }] ++ List.replicate 6 none } }

theorem witness_Barriers_siblings :
    readsB (.bar (sh 0 (.const 3) (.v 0))) withSibling = true ∧ Apart withSibling ∧
    ((withSibling.upd (fun c => c.setFrag { c.frag with bar := some 3 })).groupsOf 1).all (·.arrivedAt 3) = true ∧
    ran withSibling (.bar (sh 0 (.const 3) (.v 0))) (fun t => (t.cur.frags.getD 1 none).any (·.barGo)) = true ∧
    readsB (.bar (sh 0 (.s 4) (.v 0))) (withS (atBar false false) [(4, 16)]) = true ∧ (atBar false false).cur.frag.bar = none ∧
    (atBar false false).cur.inh = false ∧ (atBar false false).cur.tvec ≠ 0 := by
  simp only [Apart]; decide

theorem witness_Barriers_team :
    (([true, false] : List Bool).all (fun b => readsB (.bar (sh 0 (.const 3) (.v 0))) (atBar b b)) = true) ∧
    (∀ d ∈ (atBar false true).others, d.uid ≠ 1) ∧ ((atBar true true).team 1).abandoned = false ∧
    (atBar true true).cur.frag.barGo = true ∧
    ((((atBar false true).upd (fun c => c.setFrag { c.frag with bar := some 3 })).groupsOf 1).all (·.arrivedAt 3)) = true ∧
    ((((atBar false false).upd (fun c => c.setFrag { c.frag with bar := some 3 })).groupsOf 1).all (·.arrivedAt 3)) = false := by
  decide


/-! ### The hypotheses are met: engines -/

def put (m : Cells Byte) (key n x : Nat) : Cells Byte := Cells.setMany 0 m key (natLE n x)

/-- Function 1 maps the first 2 MB of main memory to itself: four table entries, the last a leaf of class 3 that is
writable and for user level. -/
def tables : Cells Byte :=
  put (put (put (put [] 0x1000 8 (2 * 2 ^ 28 + 1)) 0x2000 8 (3 * 2 ^ 28 + 1)) 0x3000 8 (4 * 2 ^ 28 + 1)) 0x4000 8 (0xC0000DF)

/-- The same 2 MB as the caches of core 0 and of its die hold them. -/
def big (level : Nat) : TlbEntry :=
  { level, fn := 1, leaf := { bits := 21, bits1 := 21, w := true, x := true, u := true, cls := 3, a := true, d := true, entry := 0x4000 } }

/-- An image at 0x8000: one kernel at 0x8200, format 0 (i8, kind 3) and format 1 (kind 0) at 0x8100, and one itinerary at
0x8300 of one layer at 0x8400 with 8 tiles. -/
def image : Cells Byte :=
  put (put (put (put (put (put (put (put (put (put (put tables 0x8000 8 0x8200) 0x8018 8 0x8100) 0x8020 8 0x8300) 0x8028 8 0x8400)
    0x8030 2 1) 0x8032 2 2) 0x8034 2 1) 0x8100 4 3) 0x8230 8 0x8000) 0x8308 2 1) 0x8410 4 8

def kernI : Kernel := { kern with img := 0x8000 }
def imaged : State :=
  { base with cur := thr, mem := image, fns := [(1, { tctl := 1, t1root := 0x1000, part := some 0 })],
              teams := [{ team with kern := kernI }],
              parts := [(0, { slices := 1, state := 1, vault := 1, mrec := { itin := 0, img := 0x8000 } })], tlb := [big 1, big 2] }

/-- Handle 2 holds an A range of format 0, handle 3 an accumulator range, handle 4 nothing; slot 63 is full of a tile of
format 0. -/
def loaded : State :=
  { imaged with quads := [(0, {
      rsv := [(2, { team := 1, kind := 0, fmtRec := 3, len := 8192 }), (3, { team := 1, kind := 1, base := 8192, len := 32768 })],
      slots := [(63, { team := 1, fmtRec := 3, full := true, tileRec := 3 })] })] }

def mresOf (fmt kind : Word) (dst : BitVec 7) (a : Src) : Eng := en dst a (.v 0) (fmt + kind * 256)

theorem witness_MatrixRegisters :
    (∀ k, k < 3 → readsB (.mres (mresOf (if k = 1 then 1 else 0) (BitVec.ofNat 32 k) 4 (.const 0))) imaged = true) ∧
    ([(0, 3), (1, 0)] : List (Nat × Nat)).all (fun e =>
      (({ imaged with cur := view (.mres (mresOf 0 0 4 (.const 0))) imaged } : State).fmtTouch 1 imaged.myImage e.1).fmtRecord 1 imaged.myImage e.1 == some e.2) = true ∧
    imaged.fnOf imaged.cur = 1 ∧ fmtLegal 3 = true ∧ fmtLegal 0 = true ∧
    fmtLegalA 3 = true ∧ fmtKind 0 < 3 ∧ ((imaged.quad 0).rsvAt 4).team = 0 ∧
    (imaged.quad 0).freeUnits ((rangeLen 3 0 + 4095) / 4096) = some 0 ∧ imaged.cur.resSeq = 0 ∧ imaged.others = [] := by decide +kernel

/-- A scratchpad that an A range of format 0 fits in. -/
def wideTeam : State := { imaged with teams := [{ team with kern := { kernI with scratch := 65536 } }] }

theorem witness_MatrixRegisters_kind2 :
    readsB (.mres (mresOf 0 2 4 (.const 0))) wideTeam = true ∧ rangeLen 3 2 ≤ (wideTeam.team 1).kern.scratch ∧ HasTeam wideTeam := by
  simp only [HasTeam]; decide

theorem witness_MatrixRegisters_rest :
    readsB (.mrel (en 0 (.const 2) (.v 0) 0)) loaded = true ∧
    ((loaded.quad 0).rsvAt 2).team = loaded.cur.team ∧ loaded.ops = [] ∧ loaded.cur.team ≠ 0 ∧
    readsB (.mrel (en 0 (.s 4) (.v 0) 1)) (withS loaded [(4, 63)]) = true ∧ ((loaded.quad 0).slotAt 63).team = loaded.cur.team ∧
    (loaded.quad 0).filling 63 none = false ∧
    (∀ k, k < 3 → readsB (.mpred (en 0 (.s 4) (.const 0) (BitVec.ofNat 32 k))) (withS imaged [(4, 64)]) = true) ∧
    readsB (.mpred (en 0 (.s 4) (.const 0) 2)) (withS imaged [(4, 384)]) = true ∧
    readsB (.msig (en 6 (.const 15) (.const 3) 0)) imaged = true ∧ readsB (.msig (en 6 (.const 15) (.const 3) 1)) imaged = true ∧
    readsB (.mfence (en 0 (.v 0) (.v 0) 0)) imaged = true ∧ imaged.ops = [] ∧ HasTeam imaged := by
  simp only [HasTeam]; decide

def draining : State := { imaged with ops := [{ id := 3, uid := 1, uses := [300] }] }
theorem witness_MatrixRegisters_fence : readsB (.mfence (en 0 (.v 0) (.v 0) 0)) draining = true ∧
    ∃ o ∈ draining.ops, o.uid = draining.cur.uid ∧ 300 ∈ o.uses := by decide

def mldbX : Eng := en 63 (.s 4) (.v 0) 0
def mpassX : Eng := en 15 (.const 2) (.s 4) 0
def mdrainX (d : Word) : Eng := en 0 (.const 3) (.const 0) d

theorem witness_MatrixCommands :
    readsB (.mldb mldbX) (withS imaged [(4, 0x10000)]) = true ∧
    (({ withS imaged [(4, 0x10000)] with cur := view (.mldb mldbX) (withS imaged [(4, 0x10000)]) } : State).fmtTouch 1 imaged.myImage 0).fmtRecord 1 imaged.myImage 0 = some 3 ∧ fmtLegalB 3 = true ∧ sideLen 3 = 0 ∧
    ((imaged.quad 0).slotAt 63).team = 0 ∧
    readsB (.mpass mpassX) (withS loaded [(4, 63)]) = true ∧ (withS loaded [(4, 63)]).noRoom = false ∧
    (withS loaded [(4, 63)]).passTrap mpassX 2 63 15 = none ∧
    readsB (.mdrain (mdrainX 0x08)) loaded = true ∧ readsB (.mdrain (mdrainX 0)) loaded = true ∧
    State.drainTrap loaded { (loaded.command (.mdrain (mdrainX 0x08))) with pass := false, toob := true, handle := 3, addr := 3 } = none := by
  decide +kernel

def boardX : Eng := en 0 (.const 0) (.const 0) (0x3F * 128 + 1 + 16384)
theorem witness_RingInstructions :
    readsB (.board boardX) imaged = true ∧
    (({ imaged with cur := view (.board boardX) imaged } : State).boardTouch 1 ((imaged.part 0).mring 1) 0).boardTrap boardX 0 0 = none ∧
    portAllowed (imaged.connOf 0 (sliceOfCore 0)) 12 = true ∧ imaged.cur.counter 6 < 63 ∧
    readsB (.unboard (en 0 (.v 0) (.v 0) 0)) imaged = true ∧
    readsB (.itin (en 0 (.s 4) (.const 16) 0)) (withS imaged [(4, 0xFFFF)]) = true ∧
    readsB (.itin (en 0 (.const 0) (.const 16) 0)) imaged = true ∧ 0 < (imaged.imgTouch 1 imaged.myImage).imgGet 1 imaged.myImage 0x34 2 ∧
    readsB (.lapq (en 6 (.v 0) (.v 0) 0)) imaged = true := by decide +kernel

/-- A reduction of one element over a group of one tenant, described in t2. -/
def descriptor : Nat := 16 + 2 ^ 32 + 0x10000 * 2 ^ 64 + 0x10100 * 2 ^ 128
def joined : State :=
  { withS imaged [(4, 240), (6, 0x10000)] with
    cur := { (withS imaged [(4, 240), (6, 0x10000)]).cur with priv := true }
    others := [other], teams := [{ team with kern := kernI, t := [0, 0, descriptor] }],
    shards := [(0, { present := true, members := 1 })] }

theorem witness_CollectiveInstructions :
    (∀ k ∈ [0, 1], readsB (.coll (en 2 (.s 6) (.v 0) (BitVec.ofNat 32 k))) joined = true) ∧ joined.tBusy 1 2 = false ∧
    (∃ l, joined.access (joined.mine 0x10000 32 .store) [] = .ok l) ∧
    (∃ l, joined.access (joined.mine 0x10000 32 .load) [] = .ok l) ∧
    readsB (.coll (en 2 (.s 4) (.v 0) 2)) joined = true ∧ joined.objectTrap 240 = none ∧ (({ joined with cur := view (.coll (en 2 (.s 4) (.v 0) 2)) joined } : State).goTouch 2).goTrap 2 240 = none ∧
    joined.colls = [] ∧ joined.ops = [] ∧ joined.cur.counter 7 < 63 ∧ (∃ d ∈ joined.groupsOf 1, d.uid ≠ joined.cur.uid) ∧
    (∀ k, k < 4 → readsB (.gmemb (en 0 (.s 6) (.const 3) (BitVec.ofNat 32 k))) joined = true) ∧
    (∃ l, joined.access { joined.mine 0x10000 32 .store with toucher := Toucher.engine } [] = .ok l) :=
  ⟨by decide, by decide, ⟨_, rfl⟩, ⟨_, rfl⟩, by decide, by decide, by decide, by decide, by decide, by decide, by decide, by decide, ⟨_, rfl⟩⟩

/-- The record of a `gread` has come. -/
def recorded : Op := { id := 7, uid := 1, team := 1, ctr := 7, kind := .member 0 1 0, pieces := [{ act := .load, phase := .replied, len := 32 }] }

/-- R358: `gread` answers with STATUS 0 where the tenant has a group. -/
theorem test_member_read :
    ({ joined with ops := [recorded] } : State).membersGo.ops.map (fun o => (o.done, o.kind, o.pieces.map (·.act))) = [(true, .member 0 1 0, [.store])] := by
  decide


/-- A packet at 0x10000 for kernel 0 with one argument at 0x10040; the pool of partition 0 at 0x9000 has two TCBs, the
second of which hardware manages. -/
def launching : State :=
  { withS imaged [(4, 0x10000)] with
    cur := { (withS base [(4, 0x10000)]).cur with priv := false }
    mem := put (put (put (put (put image 0x8220 3 0x010101) 0x10002 1 1) 0x10004 4 1) 0x10008 8 0x10040) 0x10040 4 7
    queues := [(63, { en := true, weight := 1 })]
    parts := [(0, { slices := 1, state := 1, count := 2, hcnt := 1, tcbbase := 0x9000, vault := 1 })] }

def launchX : Eng := en 0 (.s 4) (.s 6) 0
def launchS : State := withS launching [(4, 0x10000), (6, 63)]

/-- The hypotheses of Launches that follow the reads, for what the reads gave. -/
def launchFits (s2 : State) (pk : List Byte) (b i : Nat) : Bool :=
  let g := fun off n => leNat (slice pk off n)
  let part := s2.partOf s2.cur
  let p := s2.part part
  let u := s2.imgTouch (s2.fnOf s2.cur) s2.myImage
  let krec := u.imgGet (s2.fnOf s2.cur) s2.myImage 0 8 + 64 * g 0 2
  decide (g 2 1 ≤ 64) && decide (g 8 8 % 4 = 0) && decide (b ≤ 63) && (s2.queue b).en && decide ((s2.queue b).part = part) &&
    (!(s2.queue b).sup || s2.cur.priv) && decide (g 0 2 < u.imgGet (s2.fnOf s2.cur) s2.myImage 0x30 2) && decide (1 ≤ g 4 4) &&
    decide (g 4 4 ≤ 2 ^ 24) && g 3 1 == 0 && g 0x1C 4 == 0 && g 0x28 8 == 0 && g 0x30 8 == 0 && g 0x38 8 == 0 &&
    (u.kernelAt (s2.fnOf s2.cur) krec).whole && areasFit (u.kernelAt (s2.fnOf s2.cur) krec) (g 4 4) (g 0x10 8) (g 0x18 4) (g 0x20 8) p.vwsize &&
    decide (i < p.count - p.hcnt) && u.tcbGet part (p.hcnt + i) 0xE 1 == 0 &&
    (List.range i).all (fun k => u.tcbGet part (p.hcnt + k) 0xE 1 != 0)

def launchReads (s : State) : Bool :=
  match s.launchRead [(0x10000, 64)] with
  | .ok pk =>
    (match s.launchRead (lineChunks (leNat (slice pk 8 8)) (4 * leNat (slice pk 2 1))) with
      | .ok args => launchFits s pk 63 0 && args == natLE 4 7
      | _ => false)
  | _ => false

/-- The loads of the packet and of the argument in a phase. -/
def launchOp (phase : Phase) (act := Act.load) : Op :=
  { id := 7, uid := 1, counted := false, kind := .reads 0, pieces := [
      { act, phase, va := 0x10000, len := 64, got := launchS.readBytes 0x10000 64 },
      { lane := 1, act, phase, va := 0x10040, len := 4, got := natLE 4 7 }] }
def launched (phase : Phase) : State := { launchS with ops := [launchOp phase] }

/-- The packet has not been sent for, has not come, and has come. -/
theorem witness_Launches :
    readsB (.launch launchX) launchS = true ∧ lineChunks 0x10000 64 = [(0x10000, 64)] ∧ launchS.launchPart (0x10000, 64) = none ∧
    (∃ l, launchS.access (launchS.mine 0x10000 64 .load) [] = .ok l) ∧
    ((launched .sent).launchPart (0x10000, 64)).any (fun e => e.2.phase != .replied) = true ∧
    launchReads (launched .replied) = true := by
  refine ⟨?_, ?_, ?_, ⟨_, rfl⟩, ?_, ?_⟩ <;> decide +kernel

/-- R374: a `launch` sends for its packet, and what it has read goes as it goes on. -/
theorem test_launch_reads :
    ran launchS (.launch launchX) (fun t => t.cur.stall == some .reading && (t.ops.map (fun o => o.pieces.map (·.len))) == [[64]]
      && t.sweep.ops == t.ops) = true ∧
    (launched .replied).cur.stall = none ∧ (launched .replied).sweep.ops = [] := by
  refine ⟨?_, ?_, ?_⟩ <;> decide +kernel

/-! ### The hypotheses are met: events -/

/-- A group between clauses; its next clause at 0x8F00 is one short word of class 0. -/
def between : State :=
  { base with
    cur := { grp with clause := {}, frags := some { pc := 0x8F00, fmask := 3, amask := 3 } :: List.replicate 7 none }
    mem := put (put tables 0x8F00 4 0xA0000001) 0x8F04 4 0x88081000
    fns := [(1, { tctl := 1, t1root := 0x1000, part := some 0 })]
    parts := [(0, { state := 1 })], tlb := [big 1] }

def waiting : State := { between with cur := { grp with clause := { grp.clause with waiting := true, wait := 3 } } }
def slotOf (c : Ctx) : State := { between with others := [c], args := { x := 2 } }
/-- The words of `racq 1`; a group that waits for it. -/
def asks (at' : Nat) : Racq := { seq := 5, want := 1, at' }
def wanting (at' : Nat) : List (Option Frag) := some { pc := 0x100, fmask := 3, amask := 3, racq := some (asks at') } :: List.replicate 7 none
def racqWait : Ctx :=
  { other with stall := some .racq, frags := wanting 9, clause := { other.clause with words := [0xCB00A100], count := 1, cls := 3 } }
def stuck : State := { between with cur := { grp with stall := some .racq, frags := wanting 0, born := 3 }, others := [], time := 10000 }

def fetchWitness (s : State) (h : Word) (w : Word) : Bool :=
  let pc := s.cur.frag.pc
  match s.fetchX pc.toNat 4 with
  | .ok l =>
    let key := memKey l.mt l.pa
    wordAtBytes (s.latest key 4) 0 == h && bits h 3 0 == 1 && wordAtBytes (s.latest (key + 4) 4) 0 == w
      && headerOk s.cur.kind h [w] && pc.toNat % 4 == 0 && pc.toNat / 4096 == (pc.toNat + 4) / 4096
      && (s.portStop s.cur.loc.die s.cur.loc.core pc.toNat 8 l).isNone
  | _ => false

theorem witness_ContextEvents :
    fetchWitness between 0xA0000001 0x88081000 = true ∧ between.cur.clause.isOpen = false ∧
    waiting.cur.clause.waiting = true ∧ waiting.cur.counter 0 = 0 ∧ waiting.cur.counter 1 = 0 ∧ waiting.cur.copyErrs = [] ∧
    ((slotOf { other with ended := true }).ctx 2).map (fun c => c.ended && c.idle) = some true ∧
    ((slotOf { other with halted := true }).ctx 2).map (·.halted) = some true ∧ between.teamRuns (between.team 1) = true ∧
    racqWait.kind = .group ∧ racqWait.ended = false ∧ (0, asks 9) ∈ racqWait.racqs ∧ racqWait.racqs = [(0, asks 9)] ∧
    (∀ d ∈ (slotOf racqWait).onCore 0 0, ∀ e ∈ d.racqs, (d.uid = racqWait.uid ∧ e = (0, asks 9)) ∨ 5 < e.2.seq ∨ d.ended = true) ∧
    unitsOf (32 + 16) - unitsOf 32 ≤ (slotOf racqWait).freeUnits 0 0 ∧ (slotOf racqWait).ctx 2 = some racqWait ∧
    (((slotOf racqWait).ctxs.map (·.uid)).Nodup ∧ ∀ c ∈ (slotOf racqWait).ctxs, c.uid ≠ 0 ∧ c.uid ≤ (slotOf racqWait).uids) ∧
    (stuck.onCore 0 0).filter (fun c => !c.ended) = [stuck.cur] ∧ stuck.cur.racqs ≠ [] ∧
    stuck.cyclesSince 0 (max stuck.cur.racqSince stuck.cur.lastIssue) 2048 = true ∧
    stuck.cyclesSince 0 (Cells.get 0 stuck.sys.deadlock (coreNo 0 0)) 2048 = true := by decide

/-- One operation of the group with one part in lane 1. -/
def withPart (p : Piece) (kind : OpKind) (ctr : Nat) : State :=
  { between with
    cur := { between.cur with ctr := [(ctr, 1)] }
    ops := [{ id := 4, uid := 1, team := 1, ctr, kind, pieces := [{ p with lane := 1, key := 0x10000, len := 4 }] }]
    args := { x := 4, y := 1, ok := true } }
def named (s : State) (f : Op → Piece → Bool) : Bool :=
  match s.op s.args.x with
  | some o => (match o.piece s.args.y with | some p => f o p | none => false)
  | none => false

def loading (ph : Phase) : State := withPart { act := .load, phase := ph, lease := true } (.load 4 1 4 false false) 0
def storing (ph : Phase) (space : Space) : State := withPart { act := .store, phase := ph, data := natLE 4 9, space } .store 1
def adding (ph : Phase) (space : Space) : State := withPart { act := .int 0, phase := ph, data := natLE 4 9, space } (.atomic 4 1) 7
def holding : State :=
  { withPart { act := .load, held := some 0x4000 } (.load 4 1 4 false false) 0 with args := { x := 0x4000 } }

theorem witness_HomeEvents :
    named (loading .sent) (fun o p => p.act.isLoad && p.space == .home && !p.owner && (loading .sent).mayPerform o p) = true ∧
    named (loading .performed) (fun o p => p.phase == .performed && p.moved != (loading .performed).time && o.kind != .prefetch) = true ∧
    ([Space.home, .host].all (fun sp => named (storing .sent sp) (fun o p => p.act == .store && !p.owner && (storing .sent sp).mayPerform o p))) = true ∧
    named (storing .performed .home) (fun _ p => p.phase == .performed && p.acks == 0 && p.moved != 100) = true ∧
    named (adding .sent .home) (fun o p => p.act.isAtomic && !p.owner && (adding .sent .home).mayPerform o p) = true ∧
    (adding .sent .home).args.nats = [] ∧
    named (adding .performed .home) (fun _ p => p.phase == .performed && p.acks == 0 && p.moved != 100) = true ∧
    (∃ o ∈ holding.ops, ∃ p ∈ o.pieces, p.held = some holding.args.x) ∧
    named (loading .replied) (fun o _ => o.counted && (loading .replied).complete o && (loading .replied).oldest o && o.bad.isNone) = true ∧
    [0, 3].all (fun regs => ((withPart { act := .load, phase := .replied } (.load 4 regs 4 false false) 0).op 4).any (fun o => o.bad.isNone &&
      (withPart { act := .load, phase := .replied } (.load 4 regs 4 false false) 0).complete o && o.pieces.map (·.lane) == [1])) = true ∧
    ((loading .replied).ctx 1).isSome = true := by decide

/-- Retirement of a scalar load, an atomic with a clamped bin, and a command of the array that has a signature. -/
def retiring (kind : OpKind) : State :=
  let s := withPart { act := .load, phase := .replied, got := natLE 4 9, wct := 90 } kind 0
  { s with ops := s.ops.map (fun o => { o with bo := true, wct := 80, done := true, sig := some 7 }) }

theorem witness_HomeEvents_retire :
    (∀ k ∈ [OpKind.load 4 1 4 false true, .atomic 4 1, .atomic 4 0, .engine], ((retiring k).op 4).any (fun o => o.counted && (retiring k).complete o &&
      (retiring k).oldest o && o.bad.isNone && o.kind == k && o.pieces.map (·.lane) == [1] && o.pieces.all (·.phase = .replied)) = true) ∧
    ((retiring .engine).ctx 1).any (fun c => !c.ended) = true := by decide

/-- R243, R246: LASTWCT is the latest write's, BO joins MODE, and the old value comes to the lane. -/
theorem test_atomic_retires :
    ran (retiring (.atomic 4 1)) .operationRetire (fun t => (t.ctx 1).any (fun c => c.lastwct == 90 && c.mode == 0x31 ||| fBO && c.vreg 4 1 == 9)) = true ∧
    ran (retiring .engine) .operationRetire (fun t => (t.ctx 1).any (fun c => c.sig == 7 && c.mode == 0x31)) = true := by
  refine ⟨?_, ?_⟩ <;> decide

/-- Bins at their ends, a marker, and the codes of the split's cases. -/
theorem witness_AtomicAndBinnedValues :
    (∀ w ∈ [4, 8], 2 ^ (8 * w) - 1 < 2 ^ (8 * w)) ∧ 10 ≤ 10 ∧ 4 ≤ 4 ∧
    (∀ f : Nat → Int, (f = fun i => if i = 0 then -2 ^ 63 else 2 ^ 63 - 1) → (-2 ^ 63 ≤ f 0 ∧ f 0 < 2 ^ 63) ∧ (-2 ^ 63 ≤ f 1 ∧ f 1 < 2 ^ 63) ∧ f 0 = -2 ^ 63 ∧ f 1 ≠ -2 ^ 63) ∧
    (∀ f ∈ [fp32, bf16, fp16], f.nan < 2 * f.signW ∧ 1 < 2 * f.signW ∧ (f.read f.nan).isNan = true ∧ finite (f.read 1).exact = true) := by
  refine ⟨by decide, by decide, by decide, ?_, by decide +kernel⟩
  intro f h
  subst h
  decide

/-- A 16-byte access of lane 1, and the event's 8-byte part. -/
def wide (act : Act) (space : Space) (k : Nat) : State :=
  let s := withPart { act, space } (.load 4 4 16 false false) 0
  { s with ops := s.ops.map (fun o => { o with pieces := o.pieces.map (fun p => { p with len := 16, data := (List.range 16).map (fun i => BitVec.ofNat 8 (i + 1)) }) }),
           args := { s.args with nats := [k] } }

theorem witness_torn_parts :
    [Act.load, .store].all (fun a => [Space.home, .host].all (fun sp => [0, 1].all (fun k =>
      named (wide a sp k) (fun o p => p.act == a && p.space == sp && !p.owner && (wide a sp k).mayPerform o p && p.torn.isEmpty &&
        16 ≤ p.len && k < p.len / 8)))) = true := by decide

/-- R141: the upper half of a 16-byte store lands alone, then the rest. -/
theorem test_torn_store :
    (match exec .homeStorePerform (wide .store .home 1) with
     | .next t => [0x10007, 0x10008, 0x1000F].map t.byteAt == [0, 9, 16] &&
       (match exec .homeStorePerform { t with args := { t.args with nats := [] } } with
        | .next u => [0x10000, 0x1000F].map u.byteAt == [1, 16] && named u (fun _ p => p.phase == .performed)
        | _ => false)
     | _ => false) = true := by decide

/-- R141: a store of another agent between the halves of a 16-byte load shows in the second half only. -/
theorem test_torn_load :
    (match exec .homeLoadPerform (wide .load .home 0) with
     | .next t => (match exec .homeLoadPerform { t with mem := put (put t.mem 0x10000 1 7) 0x10008 1 7, args := { t.args with nats := [] } } with
        | .next u => named u (fun _ p => p.phase == .performed && p.got.map (·.toNat) == [0, 0, 0, 0, 0, 0, 0, 0, 7, 0, 0, 0, 0, 0, 0, 0])
        | _ => false)
     | _ => false) = true := by decide

/-- A copy of 7 bytes in lane 1 within the scratchpad, or to a place in memory, with some bytes read. -/
def copying (l : CopyLane) (ok : Bool) : State :=
  { between with ops := [{ id := 4, uid := 1, team := 1, ctr := 2, kind := .copy 0 [{ l with lane := 1, n := 7 }] 0 0 }],
                 teams := between.teams.map (fun u => u.write 0 [1, 2, 3, 4, 5, 6, 7]), args := { x := 4, y := 1, ok } }
def toScratch : CopyLane := { dst := 32, src := 0 }
def sevenBytes : List (Nat × Byte) := (List.range 7).map (fun i => (i, BitVec.ofNat 8 (i + 1)))
def toMemory : CopyLane := { dstGlobal := true, dst := 0x10000, place := some (0x10000, 0, 0), got := sevenBytes }

def later (s : State) (args : EventArgs) : State := { s with time := s.time + 1, args }

/-- R148, R149, R237: a copy's byte is read before a store to its source, and written after it. -/
theorem test_torn_copy :
    ran (copying toScratch true) .copyLaneTransfer (fun t =>
      ran (later { t with teams := t.teams.map (fun u => u.write 0 [9]) } { x := 4, y := 1, nats := [0] }) .copyLaneTransfer (fun u =>
        (u.team 1).bytes 32 2 == [1, 0] && (u.team 1).bytes 0 1 == [9] && (u.op 4).map (fun o => o.lanes.map (·.torn)) == some [[0]])) = true := by
  decide +kernel

def watching (ph : MonPhase) : State :=
  { between with mons := [{ id := 6, uid := 1, lane := 1, team := 1, key := 0x10000, phase := ph }], args := { x := 6 } }
def migrating (n : Option Nat) : State :=
  { between with
    mem := put image 0x8F00 4 0xA0000001
    args := { x := 1, y := 0x10000, z := 3, value := 0x40000000 }
    sys := { between.sys with migration := n.map (fun n => (1, 0x4000, 3, 0x40000000, n)) } }

/-- The migrated page lies apart from its table and its new place. -/
def movingApart : State :=
  { migrating (some 8) with
    mem := put (put (put (put [] 0x1000 8 (2 * 2 ^ 28 + 1)) 0x2000 8 (3 * 2 ^ 28 + 1)) 0x3000 8 (4 * 2 ^ 28 + 1)) 0x4000 8 (0x200 * 2 ^ 28 + 0xC0000DF) }

theorem witness_migration_switch :
    (movingApart.pageLeaf 1 0x10000).map (fun l => (l.pa / 2 ^ l.homeBits * 2 ^ l.homeBits, 2 ^ l.homeBits, l.entry2.getD l.entry)) = some (0x200000, 0x200000, 0x4000) ∧
    0x200000 + 0x200000 ≤ 0x40000000 ∧ 0x4000 + 8 ≤ 0x40000000 ∧ 0x4000 + 8 ≤ 0x200000 ∧ 8 ≤ 8 := by
  refine ⟨?_, ?_, ?_, ?_, ?_⟩ <;> decide +kernel

theorem witness_CopyHostAndMonitorEvents :
    ([(toScratch, true), ({ toScratch with got := sevenBytes }, false), (toMemory, false)] : List (CopyLane × Bool)).all (fun e =>
      ((copying e.1 e.2).op 4).any (fun o => o.team == 1 && (o.lanes.find? (·.lane == 1)).any (fun l =>
        l.phase == .sent && l.wait.isNone && l.moved != 100 && l.n ≤ 32 && l.torn == [] && (e.2 || (List.range 7).all (fun i => (l.got.find? (·.1 == i)).isSome))))) = true ∧
    Known (copying toScratch true) 1 ∧ (List.range 32).all (fun i => (copying toMemory false).loopOn 4 toMemory.who (0x10000 + i) == false) = true ∧
    named (withPart { space := .host, act := .load } (.load 4 1 4 false false) 0) (fun o p => p.space == .host && p.act == .load && (withPart { space := .host, act := .load } (.load 4 1 4 false false) 0).mayPerform o p) = true ∧
    named (adding .sent .host) (fun o p => p.act.isAtomic && p.act.direct && (adding .sent .host).mayPerform o p) = true ∧
    (adding .sent .host).args.ok = true ∧
    ([MonPhase.arming, .waking, .acking].all (fun ph => ((watching ph).mons.find? (fun k => k.id == 6 && k.phase = ph && k.held.isNone && k.moved != 100)).isSome)) = true ∧
    ((migrating none).pageLeaf 1 0x10000).map (fun l => (l.mt, l.cls, l.entry2.getD l.entry)) = some (0, 3, 0x4000) ∧
    (migrating none).sys.migration = none ∧ (migrating (some 8)).sys.migration = some (1, 0x4000, 3, 0x40000000, 8) := by
  simp only [Known]; decide +kernel

/-- R48, R159: `svc ptime` reads its operand, so it replaces the held sample. -/
theorem test_svc_samples :
    ran { base with cur := { grp with sample := some 7 }, time := 2 ^ 33 + 5 } (.svc (sh 0 (.special .ptime) (.v 0))) (fun t =>
      t.cur.tval == 5 && t.cur.sample == some 0x200000005) = true := by decide
/-- R32, R45: a load with NOWB writes no register. -/
theorem test_load_nowb :
    ran atPage (.ld { x0 with w := { x0.w with nowb := true } }) (fun t => t.ops.map (·.kind) == [.load 4 0 4 false false]) = true ∧
    ran (withPart { act := .load, phase := .replied, got := natLE 4 9 } (.load 4 0 4 false false) 0) .operationRetire
      (fun t => (t.ctx 1).any (fun c => c.vreg 4 1 == 0 && c.counter 0 == 0)) = true := by
  refine ⟨?_, ?_⟩ <;> decide

/-- Rows of point 1: one woken outside the tile, two woken in it; one of point 0, woken. -/
def rowsOut (rs : List Row) (args : EventArgs) : State := { between with teams := [{ team with rows := rs }], args, time := 20000 }
def atPoint : EventArgs := { x := 1, y := 1 }
def outside : State := rowsOut [{ rowAt 7 true with place := .spill 0 }] atPoint
def inTile : State := rowsOut [rowAt 1 true, rowAt 2 true] atPoint
def atZero : State := rowsOut [{ point := 0, place := .ckpt 0, woke := true, grp := 1, lane := 5, age := 3 }] atPoint
def framed : State :=
  { between with frames := [{ issue := 8, team := 1, woken := true, lane := 3, clause := grp.clause }], args := { x := 8 } }
def requesting : State :=
  { between with requests := [{ id := 8, fn := 1, page := 0x10000 }], args := { x := 8 } }

/-- Nothing is cached: the next fetch of context 1 misses. -/
def unmapped : State := { between with tlb := [], args := { x := 1 } }

theorem witness_FrameAndWalkEvents :
    ((outside.team 1).outside 1).isSome = true ∧ (outside.team 1).out = false ∧ ((outside.team 1).pair 1).tile = some 0 ∧
    ((outside.team 1).freeRows 1).head? = some 0 ∧ outside.suspNeeds 1 1 ≤ ((outside.team 1).freeRows 1).tail.length ∧ Known outside 1 ∧
    (inTile.team 1).waket 1 = some 0 ∧ (inTile.team 1).kern.named 1 = some { id := 1, live := [3, 5], resume := 0x500 } ∧
    (inTile.pointOf (inTile.team 1) 1).any (fun pt => pt.flush ≤ inTile.time) = true ∧
    0 + 8192 ≤ inTile.time ∧ inTile.loadDue (inTile.team 1) 1 = true ∧ inTile.loadFirst (inTile.team 1) 0 = true ∧
    (inTile.newLoc 0 0).isSome = true ∧ inTile.newGrpid 1 = some 1 ∧ inTile.teamRuns (inTile.team 1) = true ∧
    ((atZero.team 1).zeroRows 1).length = 1 ∧ (∀ c ∈ atZero.ctxs, c.grpid ≠ 1) ∧ atZero.loadFirst (atZero.team 1) 0 = true ∧
    (framed.frames.filter (fun q => q.issue == 8 && q.woken)).length = 1 ∧ framed.newGrpid 1 = some 1 ∧
    ((between.cur.frags.getD 0 none).isSome = true ∧ between.cur.nextAccess 0 = some (0x8F00, 4, .fetch)) ∧
    unmapped.access (unmapped.missOf unmapped.cur 0x8F00 4 .fetch) [] = .busy ∧ unmapped.args.z = 0 ∧
    (requesting.requests.find? (fun q => q.id == 8 && q.tag.isNone)).isSome = true ∧ requesting.freeTag 1 false = some 0 ∧
    (((requesting.fn 1).prqtail + 1) % 2 ^ (requesting.fn 1).prqsize ≠ (requesting.fn 1).prqhead % 2 ^ (requesting.fn 1).prqsize) := by
  simp only [Known]
  refine ⟨?_, ?_, ?_, ?_, ?_, ?_, ?_, ?_, ?_, ?_, ?_, ?_, ?_, ?_, ?_, ?_, ?_, ?_, ?_, ?_, ?_, ?_, ?_, ?_⟩ <;> decide

/-- Two rows of point 1 are woken in its tile, the first with an uncorrectable error. -/
def badRow : State := rowsOut [{ rowAt 1 true with bad := true }, rowAt 2 true] atPoint

/-- R391: a load forms its group of the lanes whose rows are good, and the team is abandoned where one was not. -/
theorem witness_loaded_lanes :
    lowMask 2 &&& ~~~(maskOf (fun k => (([rowAt 1 true, rowAt 2 true] : List Row)[k]?).any (·.bad))) = 3 ∧
    (List.range 2).all (fun i => let s := if i = 0 then inTile else badRow
      ran s .tileLoad (fun t => (t.ctx (s.uids + 1)).any (fun c => c.frag.fmask.toNat == 3 - i) && (t.team 1).abandoned == (i == 1))) = true ∧
    (atZero.team 1).zeroRows 1 = [{ point := 0, place := .ckpt 0, woke := true, grp := 1, lane := 5, age := 3 }] := by
  refine ⟨?_, ?_, ?_⟩ <;> decide +kernel

/-- A command of function 1 at the head of its ring, which lies in host memory at 0x1000; the group page is the first
4 KB, in state `gps`, with its Atlas entry at 0x7000. -/
def commanded (op gps : Nat) : State :=
  { between with
    mem := put (put (put (put (put image 0x4000 8 (5 * 2 ^ 28 + 1)) 0x5000 8 (0xC0000DF + gps * 2 ^ 10)) 0x5038 8 (7 * 2 ^ 28 + 0xC0000DF))
      (memKey 2 0x1000) 1 op) (memKey 2 0x1002) 2 0xFFFF
    fns := [(1, { tctl := 1, t1root := 0x1000, part := some 0, pcqbase := 0x1000, pcqtail := 1 })]
    shards := [(0, { present := true, members := 1 })]
    requests := [{ id := 8, fn := 1, page := 0x10000, tag := some 0 }]
    atlas := [{ fn := 1, page := 0, addr := 0x7000 }]
    args := { x := 1 } }
/-- The commands that name an Atlas entry hold its address. -/
def adopting (op : Nat) : State := { commanded op 0 with mem := put (commanded op 0).mem (memKey 2 0x1011) 1 0x70 }

def commandOk (s : State) (op gps : Nat) : Bool :=
  s.cmdHas 1 && s.cmdGet 1 0 1 == op && !s.cmdReserved 1 && !s.cmdWaits 1
    && s.cmdTarget 1 == some 1 && !s.inFlight 1 (fun _ => true)
    && (s.pageLeaf 1 (s.cmdGet 1 8 8)).any (fun l => l.gps == gps && l.mt == 0 && 2 ≤ l.cls && l.bits == 12)

/-- An `abin` of the group is on its way to the page that EVICT names. -/
def evicting : State :=
  { commanded 5 4 with ops := [{ id := 4, uid := 1, team := 1, ctr := 1, pieces := [{ lane := 1, act := .bin false 1 0 0, va := 24, key := 24, len := 24 }] }] }

/-- R299: EVICT does not wait for the `abin`, which owes Shard-write. -/
theorem witness_evict_in_flight :
    commandOk { evicting with ops := [] } 5 4 = true ∧ evicting.inFlight 1 (· < 4096) = true ∧
    evicting.inFlightOf 1 (fun p => !p.isBin) (· < 4096) = false ∧
    ran evicting .cmdEvict (fun t => (t.op 4).any (fun o => o.owes == some { code := 0x23, detail := 5, tval := 24, lanes := some 2 }
      && o.pieces.all (fun p => p.phase = .abandoned))) = true := by
  refine ⟨?_, ?_, ?_, ?_⟩ <;> decide +kernel

theorem witness_CommandEvents :
    ([(1, 0), (3, 3), (5, 4), (6, 1), (6, 3), (6, 4), (6, 6), (7, 0)] : List (Nat × Nat)).all
      (fun e => commandOk (commanded e.1 e.2) e.1 e.2) = true ∧
    ([2, 4] : List Nat).all (fun op => commandOk (adopting op) op 0 && !((adopting op).vtouch 1 0x7000 64).atlasBad 1 0x7000 0 12
      && (adopting op).cmdGet 1 0x10 8 == 0x7000) = true ∧ (adopting 4).args.ok = false ∧
    ([0, 8] : List Nat).all (fun op => (commanded op 0).cmdHas 1 && (commanded op 0).cmdGet 1 0 1 == op) = true ∧
    (let s := { commanded 1 0 with mem := put (commanded 1 0).mem (memKey 2 0x1010) 1 1 }
     commandOk s 1 0 && s.cmdGet 1 0x10 8 % 2 == 1 && { s with mons := [{ id := 6, team := 1, phase := .arming }] }.inFlight 1 (fun _ => true)) = true ∧
    (let f := (commanded 1 0).fn 1
     f.pcqhead = 0 ∧ (commanded 1 0).cmdTaken 1 0 = none ∧ ((commanded 1 0).cmdTake 1).args.y = 0 ∧ (((commanded 1 0).cmdTake 1).cmdTaken 1 0).isSome = true) ∧
    (commanded 7 0).requests.find? (fun q => q.fn == 1 && q.stage2 == false && q.tag = some (fld ((commanded 7 0).cmdGet 1 4 4) 15 0))
      = some { id := 8, fn := 1, page := 0x10000, tag := some 0 } := by
  refine ⟨?_, ?_, ?_, ?_, ?_, ?_, ?_⟩ <;> decide +kernel

/-- Function 1's tenant is member 0 of a group of two; its page 0 is in state `gps`, and member 1 is awaited. -/
def grouped (gps : Nat) (args : EventArgs) : State :=
  { commanded 0 gps with
    mem := put (put (commanded 0 gps).mem 0x7010 8 3) 0x7018 8 2
    shards := [(0, { present := true, members := 3, version := 1 })]
    gathers := [{ fn := 1, page := 0, start := 0 }]
    sys := { (commanded 0 gps).sys with links := 1 }
    args, time := 10000000 }
def idleGroup (args : EventArgs) : State :=
  { grouped 2 args with parts := [] }
def member1 : EventArgs := { x := 1, y := 1, z := 1 }
def inRound : State :=
  { grouped 2 { member1 with z := 2, value := 1 } with
    shards := [(0, { present := true, members := 3, version := 1, round := some { proposer := 1, version := 2, mask := 1 } })] }

theorem witness_GroupMessages :
    (grouped 1 member1).fnHere 1 = true ∧ (grouped 1 member1).gpsOf 1 0 = 1 ∧ ((grouped 1 member1).groupOf 1).version = 1 ∧
    (idleGroup member1).fnHere 1 = false ∧ (idleGroup member1).deferred = [] ∧
    (((grouped 1 member1).atlasTouch 1 0).vtouch 1 0 ((grouped 1 member1).agBytes 1 0)).poison = [] ∧
    1024 ≤ ({ idleGroup member1 with deferred := List.replicate 1024 {} } : State).deferred.length ∧
    (grouped 2 member1).gpsOf 1 0 = 2 ∧ (grouped 2 member1).agPend 1 0 / 2 ^ 1 % 2 = 1 ∧ 1 + 1000 ≤ (grouped 2 member1).time ∧
    ((grouped 2 member1).gathers.find? (fun g => g.fn == 1 && g.page == 0 && !g.slow
      && g.start + 1000 * ((grouped 2 member1).groupOf 1).timeout ≤ (grouped 2 member1).time)).isSome = true ∧
    (grouped 2 { member1 with ok := true }).sys.links ≠ 0 ∧ ((grouped 2 member1).shard 0).lastBeat + 100000 ≤ (grouped 2 member1).time ∧
    ((grouped 2 member1).groupOf 1).latestMembers / 2 ^ 1 % 2 = 1 ∧ ((grouped 2 member1).groupOf 1).self ≠ 1 ∧
    ((grouped 2 member1).groupOf 1).round = none ∧
    ((grouped 2 member1).groupOf 1).heardAt 1 + 1000 * ((grouped 2 member1).groupOf 1).timeout ≤ (grouped 2 member1).time ∧
    2 = ((grouped 2 { member1 with z := 2, value := 1 }).shard 0).latest + 1 ∧
    (inRound.shard 0).round = some { proposer := 1, version := 2, mask := 1 } ∧
    (grouped 4 member1).gpsOf 1 0 = 4 ∧ (grouped 5 member1).gpsOf 1 0 = 5 ∧
    (grouped 4 member1).atlasHere 1 = true ∧ (idleGroup member1).atlasHere 1 = false ∧
    ({ grouped 4 { member1 with z := 2 } with arrivals := [⟨1, 1, 0, []⟩] } : State).arrivals.find? (fun a => a.fn == 1 && a.member == 1 && a.page == 0) = some ⟨1, 1, 0, []⟩ := by
  refine ⟨?_, ?_, ?_, ?_, ?_, ?_, ?_, ?_, ?_, ?_, ?_, ?_, ?_, ?_, ?_, ?_, ?_, ?_, ?_, ?_, ?_, ?_, ?_⟩ <;> decide +kernel


/-- The entries that a walk of the first 2 MB reads: three table entries, and a leaf of a class whose A is `a`. -/
def walkEntries (cls a : Nat) : List WalkEntry :=
  [{ level := 5, addr := 0x1000, entry := 2 * 2 ^ 28 + 1 }, { level := 4, addr := 0x2000, entry := 3 * 2 ^ 28 + 1 },
   { level := 3, addr := 0x3000, entry := 4 * 2 ^ 28 + 1 }, { level := 2, addr := 0x4000, entry := 0x1F + cls * 2 ^ 6 + a * 2 ^ 26 }]

/-- A walk for a load of the group at 0x1F000, which has read `n` entries; the leaf in memory has the class. -/
def walking (cls a n : Nat) : State :=
  { between with
    mem := put tables 0x4000 8 (0x1F + cls * 2 ^ 6 + a * 2 ^ 26), tlb := []
    walkers := [{ first := { fn := 1, va := 0x1F000, len := 4, who := 16, at' := 5 }, seen := (walkEntries cls a).take n, moved := 5 }]
    args := { z := 2 } }

/-- R271: the walk reads the entry of level 3 after that of level 4. -/
theorem test_walk_reads :
    ran (walking 3 1 2) .translationWalk (fun t => t.walkers.map (fun w => (w.seen, w.moved)) == [((walkEntries 3 1).take 3, 100)]) = true := by
  decide +kernel

/-- R224, R276: the walk for a core's load of an Unclaimed page claims it and sets A; the answer is there one nanosecond later (R228). -/
theorem test_walk_claims :
    ran (walking 0 0 4) .translationWalk (fun t => fld (t.readLE 0x4000 8) 7 6 == 1 && fld (t.readLE 0x4000 8) 27 26 == 1 && t.walkers == [] &&
      t.walked.map (fun r => match r.res with | .leaf l => (l.cls, l.a, l.pa, r.since) | _ => (9, false, 0, 0)) == [(1, true, 0x1F000, 101)] &&
      (t.xlate { fn := 1, va := 0x1F000, len := 4, who := 16 }).isNone && ({ t with time := 101 }.xlate { fn := 1, va := 0x1F008, who := 32 }).isSome) = true := by
  decide +kernel

/-- Sixteen 2 MB leaves side by side, the first with CH = 1; a walker that is to merge them. -/
def merging : State :=
  let s := walking 3 0 3
  { s with
    mem := (List.range 15).foldl (fun m k => put m (0x4008 + 8 * k) 8 ((k + 1) * 2 ^ 37 + 0xDF)) (put s.mem 0x4000 8 0xFF)
    walkers := s.walkers.map (fun w => { w with seen := w.seen ++ [{ level := 2, addr := 0x4000, entry := 0xFF }] })
    args := { z := 2, ok := true } }

/-- R275, R276: one translation of 32 MiB with the first entry's flags, and A set in the sixteenth leaf. -/
theorem test_merge :
    ran merging .translationWalk (fun t =>
      ((({ t with time := 101 } : State).cached 1 0 { fn := 1, va := 0x1234567 }).map (fun (l : Leaf) => (l.pa, l.bits, l.w, l.cls))) == some (0x1234567, 25, true, 3) &&
        fld (t.readLE 0x4078 8) 27 26 == 1) = true := by
  decide +kernel

/-- The walker that the event moves has ended its reads, or has one to make. -/
def walkDone (s : State) : Bool :=
  s.walkers.any (fun w => (s.nextRead w.first w.seen).isNone && w.joined == [] && w.first.at' < s.time && w.moved < s.time
    && w.first.toucher == .core) && s.misses == [] && fld (s.fn 1).tctl.toNat 0 0 == 1 && s.poison == []

theorem witness_walks :
    walkDone (walking 0 0 4) = true ∧ walkDone merging = true ∧ walkDone (walking 3 1 2) = false ∧ (walking 3 1 2).walks = [] ∧
    (walking 3 1 2).walkers.any (fun w => ((walking 3 1 2).nextRead w.first w.seen).isSome) = true ∧
    (walking 0 0 4).walkers.any (fun w => match (walking 0 0 4).walkOn w.seen 1 0 0x1F000 with
      | .leaf l => (walking 0 0 4).unchanged w.seen l && decide ((walking 0 0 4).leafCheck 1 0 0 0x1F000 4 l .load false = .ok l)
      | _ => false) = true ∧
    (match merging.mergedLeaf 1 0 0x1F000 with
     | some m => decide (merging.leafCheck 1 0 0 0x1F000 4 m .load false = .ok m)
     | none => false) = true := by
  refine ⟨?_, ?_, ?_, ?_, ?_, ?_, ?_⟩ <;> decide +kernel

/-- Nothing maps the page: the walk has met an entry with V = 0 at level 5. -/
def walkEmpty : State :=
  { walking 3 1 0 with mem := [], walkers := [{ first := { fn := 1, va := 0x1F000, at' := 5 }, seen := [{ level := 5, addr := 0x1000 }], moved := 5 }] }

theorem witness_walk_missing :
    walkDone walkEmpty = true ∧
    walkEmpty.walkers.any (fun w => walkEmpty.walkOn w.seen 1 0 0x1F000 == .missing 5 false false 0x1F000) = true ∧ walkEmpty.args.ok = false := by
  refine ⟨?_, ?_, ?_⟩ <;> decide +kernel

/-- The quad with a fill of slot 62 from main memory, a pass into tile 0 that is running, and a drain of tile 1. -/
def passC : Cmd := { op := 5, uid := 1, team := 1, ty := .i32, tile := 0, handle := 2, slot := 63, rp := 1, cp := 1, kp := 1 }
def drainC : Cmd := { op := 6, uid := 2, team := 1, pass := false, zero := true, toob := true, tile := 1, handle := 3, rp := 3, cp := 1, pitch := 4 }
def withQueue (running : Option Nat) : State :=
  { loaded with
    ops := [{ id := 3, uid := 1, team := 1, ctr := 6, kind := .fill 3 }]
    quads := [(0, { loaded.quad 0 with
      fills := [{ op := 3, uid := 1, team := 1, slot := 62, tile := 0x10000, fmtRec := 3 }], queue := [passC, drainC], running })] }
def filling : State := { withQueue none with args := { x := 3, y := 62 } }
/-- A team that has ended, of which nothing is left in flight. -/
def goneTeam : State := { loaded with teams := [{ team with id := 7 }], args := { x := 7 } }

/-- The same pass, whose range lies in the scratchpad; the operand cache holds no block of it. -/
def passingSa : State :=
  let s := withQueue (some 5)
  { s with quads := [(0, (s.quad 0).rsvSet 2 { team := 1, kind := 2, fmtRec := 3, len := 24576 })] }

theorem witness_MatrixEvents :
    ((filling.quad 0).fills.find? (fun g => g.op == 3 && g.slot == 62)).isSome = true ∧
    filling.fillFirst 0 62 3 = true ∧ filling.args.nats = [] ∧
    filling.teamRuns (filling.team 1) = true ∧
    (match filling.pull (filling.fillMiss { op := 3, uid := 1, team := 1, slot := 62, tile := 0x10000, fmtRec := 3 }) [] (pageChunks 0x10000 49152) with
      | .ok _ _ => true | _ => false) = true ∧
    (((withQueue none).quad 0).queue.any (fun m => ((withQueue none).quad 0).headReady m && (withQueue none).mayGrant ((withQueue none).quad 0) m)) = true ∧
    (passingSa.quad 0).current = some passC ∧ ((passingSa.quad 0).rsvAt 2).kind = 2 ∧ ((passingSa.quad 0).slotAt 63).full = true ∧
    (passingSa.quad 0).cache = [] ∧ passingSa.args.nats = [] ∧ passingSa.args.stripes = [] ∧ (withQueue (some 5)).args.stripes = [] ∧
    ((withQueue (some 5)).quad 0).current = some passC ∧ (((withQueue (some 5)).quad 0).slotAt 63).full = true ∧
    (((withQueue (some 5)).quad 0).rsvAt 2).kind ≠ 2 ∧ ((withQueue (some 6)).quad 0).current = some drainC ∧
    (withQueue (some 6)).teamEnded 1 = false ∧ (withQueue (some 6)).args.ok = false ∧
    (goneTeam.teams.find? (fun t => t.id == 7)).isSome = true ∧ goneTeam.teamQuiet (goneTeam.team 7) = true := by
  refine ⟨?_, ?_, ?_, ?_, ?_, ?_, ?_, ?_, ?_, ?_, ?_, ?_, ?_, ?_, ?_, ?_, ?_, ?_, ?_, ?_, ?_⟩ <;> decide +kernel

/-- The terms of R322's example: 2^12 at k = 0 and 1 at two terms, of both A and B. -/
def ones (x y k : Nat) : Exact := if k = 0 then .real false 4096 1 else if k = x ∨ k = y then .real false 1 1 else .zero false
def entryOf (a : Nat → Exact) : Word × Word :=
  passEntry .f32 false false (2 ^ 384 - 1) ((List.range 384).map a) ((List.range 384).map a) 0

/-- R322: two ones beside a large term: the table of the entry and NX. -/
theorem test_pass_tree :
    entryOf (ones 48 96) = (0x4B800000, fNX) ∧ entryOf (ones 96 144) = (0x4B800001, 0) ∧ entryOf (ones 48 49) = (0x4B800001, 0) := by
  decide +kernel

/-- Terms of one block that are an infinity of each sign, a NaN, or finite. -/
def mixed (k : Nat) : Exact :=
  if k = 0 then .inf false else if k = 1 then .inf true else if k = 48 then .nan false else if k = 96 then .inf true else .real false 1 2

theorem witness_PassSums :
    (∀ k, finite (mixed k) = true ∨ (∃ i, mixed k = .inf i) ∨ ∃ i, mixed k = .nan i) ∧
    (mixed 0).mul (ones 0 0 0) = .inf false ∧ (mixed 1).mul (ones 1 1 1) = .inf true ∧ (mixed 48).mul (ones 0 0 48) = .nan false ∧
    (mixed 96).mul (ones 96 96 96) = .inf true ∧ (mixed 144).mul (ones 0 0 144) = .zero false ∧
    passEntry .i32 true true 1 ((List.range 384).map (fun _ => exactInt 2)) ((List.range 384).map (fun _ => exactInt 3)) 0x7FFFFFFA
      = (0x7FFFFFFF, fSA) := by
  refine ⟨fun k => ?_, ?_⟩
  · unfold mixed
    split
    · exact .inr (.inl ⟨_, rfl⟩)
    · split
      · exact .inr (.inl ⟨_, rfl⟩)
      · split
        · exact .inr (.inr ⟨_, rfl⟩)
        · split
          · exact .inr (.inl ⟨_, rfl⟩)
          · exact .inl (by decide)
  · decide +kernel

/-- R78's example, AQ4 and BE4M3, as column 0 of a tile: 2.0, −2.5, and 4.0. -/
theorem witness_OperandValues :
    groupLen 0x28 = 48 ∧ fmtKind 0x28 = 8 ∧ fmtKind 0x29 = 9 ∧ fmtKind 1 = 1 ∧ fmtKind 2 = 2 ∧
    ((colB 0x28 (fun _ => 0x3C) (fun i => if i = 1 then 0x38 else if i = 2048 then 8 else 0) 0).take 2).map valueOf = [2, -5 / 2] ∧
    ((colB 0x29 (fun _ => 0x38) (fun _ => 0x81) 0).take 1).map valueOf = [4] ∧
    0x3C00 / 2 ^ 10 % 2 ^ 5 = 15 ∧ 0x3F80 / 2 ^ 7 % 2 ^ 8 = 127 ∧ codeValue 5 10 0x3C00 = 1 ∧ codeValue 8 7 0x3F80 = 1 ∧
    codeValue 5 10 0 = 0 ∧ 0x7C00 / 2 ^ 10 % 2 ^ 5 = 2 ^ 5 - 1 := by
  decide +kernel

/-- Ring 0 carries partition 0's lap of the one layer; its tile 0 of 4 bytes' worth is on the wire. -/
def lap (pos : Nat) (passed : Nat) (bufs : Cells Nat) : Ring :=
  { part := some 0, itin := 0, img := 0x8000, order := [(0, 0), (0, 1)], pos, seq := 1, wire := [{ seq := 0, fmt := 0, bytes := [5] }],
    passed := [(0, passed)], bufs }
def boardC (reached : Bool) : Board :=
  { op := 3, uid := 1, team := 1, count := 1, slot := 62, fmtRec := 3, reached, tiles := [.awaited false] }
def ringing (g : Ring) (reached : Bool) (args : EventArgs) : State :=
  { imaged with rings := [(0, g)], args, quads := [(0, { boards := [boardC reached] })],
                ops := [{ id := 3, uid := 1, team := 1, ctr := 6, kind := .fill 62 }] }

theorem witness_RingEvents :
    ((ringing {} false {}).ring 0).order.length ≤ ((ringing {} false {}).ring 0).pos ∧
    ((ringing {} false {}).part 0).eligible 0 = true ∧ (base.part 0).eligible 0 = false ∧
    ((ringing (lap 0 0 []) false {}).ring 0).order[0]? = some (0, 0) ∧
    (ringing (lap 0 0 []) false {}).args.nats = [] ∧ fld ((ringing (lap 0 0 []) false {}).fn 1).tctl.toNat 0 0 = 1 ∧ (ringing (lap 0 0 []) false {}).fnOfPart 0 = 1 ∧
    ((ringing (lap 1 0 []) false { x := 3, y := 62 }).quad 0).boards.find? (fun k => k.op == 3 && k.slot == 62) = some (boardC false) ∧
    (ringing (lap 1 0 []) false { x := 3, y := 62 }).fillFirst 0 62 3 = true ∧ (ringing (lap 1 0 []) false { x := 3, y := 62 }).teamRuns (imaged.team 1) = true ∧ (boardC false).tiles.any (·.awaits) = true ∧
    Cells.get 0 ((ringing (lap 1 0 []) true {}).ring 0).passed 0 / 2 < 1 ∧
    (let w : WireTile := { seq := 0, fmt := 0, bytes := [5] }
     (lap 1 0 []).wire.find? (fun w => w.seq == 0) = some w ∧ w.head = 0 ∧ 3 ≠ w.head ∧ Cells.get 0 (lap 1 0 []).passed (stopBefore 0 3) ≤ 0) ∧
    ((ringing (lap 1 1 []) true { z := 1, ok := true }).ring 0).passingTile 0 = some { seq := 0, fmt := 0, bytes := [5] } ∧
    ((ringing (lap 1 1 []) true {}).quad 0).boards.filter (fun b => b.attempts 0 { seq := 0, fmt := 0, bytes := [5] }) = [boardC true] ∧
    (∃ e ∈ ((ringing (lap 1 1 [(4, 147457)]) true {}).ring 0).bufs, 147456 < e.2) ∧
    ((ringing {} false {}).ring 0).slowDue = false ∧ ((ringing (lap 0 0 []) false {}).ring 0).slowDue = false ∧
    portAllowed ((ringing (lap 1 0 []) false {}).connOf 0 0) 12 = true ∧
    portAllowed (({ ringing (lap 1 0 []) false {} with connmat := [(0, 0x2FFF)] } : State).connOf 0 0) 12 = false ∧
    (lap 1 1 []).passingTile 0 = some { seq := 0, fmt := 0, bytes := [5] } ∧
    ({ lap 1 1 [] with passed := [(3, 1)] } : Ring).passingTile 3 = some { seq := 0, fmt := 0, bytes := [5] } ∧
    Cells.get 0 ({ lap 1 1 [] with passed := [(3, 1)] } : Ring).passed (stopBefore 0 3) ≤ 1 ∧
    (lap 1 1 [(4, 147457)]).slowAt ≠ some (lap 1 1 []).seq ∧ ({ lap 1 1 [] with slowAt := some 1 } : Ring).slowAt = some (lap 1 1 []).seq ∧
    (lap 1 1 [(4, 147456)]).brimmed = false ∧ (∀ e ∈ (lap 1 1 [(4, 147456)]).bufs, e.2 ≤ 147456) := by
  refine ⟨?_, ?_, ?_, ?_, ?_, ?_, ?_, ?_, ?_, ?_, ?_, ?_, ?_, ?_, ?_, ?_, ?_, ?_, ?_, ?_, ?_, ?_, ?_, ?_, ?_, ?_, ?_⟩ <;> decide +kernel

/-- R346: the ring slows once at a tile boundary, and stays slow while a stop holds more than 98,304 bytes. -/
theorem test_ring_slows_once :
    ran (ringing { lap 1 1 [(4, 147457)] with r := 3 } true {}) .ringRateSlow (fun t =>
      (t.ring 0).r == 6 && ran t .ringRateSlow (fun u => (u.ring 0).r == 6)) = true := by decide

/-- A collective of a group of two members, an `allred` of one i32. -/
def collC : Coll :=
  { id := 3, team := 1, joined := [(1, 4)], started := true, desc := 2 ^ 32 + 1 * 16, members := 3, link := some false, wct := 5 }
def collecting (c : Coll) (args : EventArgs) : State :=
  { base with colls := [c], args := { args with x := 3 }, ops := [{ id := 4, uid := 1, team := 1, ctr := 7, kind := .engine }] }

theorem witness_CollectiveEvents :
    (collecting { collC with link := none } {}).coll 3 = some { collC with link := none } ∧
    (collecting collC { y := 1 }).coll 3 = some collC ∧ collC.members / 2 ^ 1 % 2 = 1 ∧ 1 ≠ collC.self ∧ collKind collC.desc ≠ 5 ∧
    (collecting { collC with placed := true } {}).coll 3 = some { collC with placed := true } ∧
    Known (collecting collC {}) 1 ∧
    (collecting { collC with complete := true, owed := 1 } {}).coll 3 = some { collC with complete := true, owed := 1 } ∧
    collC.wct < base.time := by
  simp only [Known]; decide

/-- Partition 0 holds slice 0 and a pool of two TCBs at 0x20000, the first for the supervisor. -/
def pooled (state : Nat) : State :=
  { imaged with
    cur := {}, teams := [], mem := put (put (put image 0x20000 8 0x8200) 0x20008 4 1) 0x8220 3 0x010101
    parts := [(0, { slices := 1, state := 1, tcbbase := 0x20000, count := 2, hcnt := 1, chosen := some 2 })]
    queues := [(2, { en := true, weight := 1, fifo := [0] })] }.tcbSet 0 0 0xE 1 state
def qsubs (v : Word64) (state : Nat) : State := { pooled state with args := { x := 2, value := v } }
def ending : State := { pooled 3 with grids := [{ part := 0, tcb := 0, total := 1, next := 1 }], time := 100 }

theorem witness_LaunchEvents :
    0 < ((qsubs 0 0).part ((qsubs 0 0).queue 2).part).hcnt ∧ (qsubs 0 0).tcbGet 0 0 0xE 1 = 0 ∧
    ((qsubs 1 0).part 0).hcnt ≤ 1 ∧ (qsubs 0 1).tcbGet 0 0 0xE 1 ≠ 0 ∧
    (pooled 2).partRuns 0 = true ∧ (pooled 2).grids = [] ∧ ((pooled 2).part 0).chosen = some 2 ∧ ((pooled 2).queue 2).fifo = [0] ∧
    (let s := pooled 2
     (s.findLine 0 (((s.gridOf 0 0).map (·.kern)).getD (s.kernelAt (s.fnOfPart 0) (s.tcbGet 0 0 0 8))) []).isSome) = true ∧
    (ending.gridOf 0 0).isSome = true ∧ ending.teams = [] := by
  refine ⟨?_, ?_, ?_, ?_, ?_, ?_, ?_, ?_, ?_, ?_, ?_⟩ <;> decide +kernel

/-! ### The hypotheses are met: partitions, firmware and power -/

/-- Partitions 0 and 1 share slices 0 to 2 of die 0 in a rota. -/
def rotaOf (p0 p1 : Part) (args : EventArgs) (time : Nat) : State :=
  { between with parts := [(0, { p0 with slices := 7 }), (1, { p1 with slices := 7 })], args, time }
def expiring : State := rotaOf { state := 1, quant := 1 } { state := 4 } {} 1000
def halting (teams : List Team) (h : Option Nat) : State :=
  { rotaOf { state := 2, haltAt := some 0, haltedAt := h } { state := 4 } {} 1000000 with
    cur := {}, teams, others := if teams = [] then [] else [other] }
/-- The halt of partition 0's slices is noted at a moment. -/
def drained (at' : Nat) : State :=
  { halting [] none with parts := [(0, { slices := 7, state := 2, haltAt := some 0, drained := [(0, at'), (1, at'), (2, at')] })] }
/-- Its context leaves for unit 1 or 4 of the vault, of which die 0 has four units carved. -/
def stashing (unit : Nat) : State :=
  { (halting [team] (some 4)).setDie 0 { target := 4, cur := 4 } with args := { nats := [unit] } }
def restarting (thermal : Bool) : State := rotaOf { state := 5, thermal, quantCut := 3, debt := 9 } { state := 4 } {} 1000
def swapping : State := rotaOf { state := 4 } { state := 4, haltedAt := some 1 } {} 1000
/-- Partition 1 holds slice 9 on die 1; partition 0 runs on slice 8 there. -/
def lending (loans : List Loan) : State :=
  { base with
    teams := [], cur := {}, parts := [(0, { slices := 2 ^ 8, state := 1 }), (1, { slices := 2 ^ 9, state := 1 })]
    sys := { base.sys with loans }, args := { x := 8, y := 1 }, time := 10000 }
def loan : Loan := { die := 1, slice := 0, lender := 0, borrower := 1 }

theorem witness_PartitionEvents :
    (expiring.part 0).state = 1 ∧ expiring.sys.heat = .run ∧ (expiring.part 0).quant ≠ 0 ∧ 1 < (expiring.rota 0).length ∧
    (expiring.part 0).quantStart + 1000 * ((expiring.part 0).quant - (expiring.part 0).quantCut) ≤ expiring.time ∧
    ([(1000000, 3), (1000, 0)] : List (Nat × Nat)).all (fun e => let s := drained e.1
      (s.part 0).haltAt == some 0 && (s.part 0).haltedAt.isNone && s.haltTime 0 == some e.1 && !(s.part 0).thermal &&
        ((s.part 0).drained.filter (fun k => 234000 < k.2)).length == e.2) = true ∧
    ((halting [] (some 4)).part 0).haltedAt.isSome = true ∧ ((halting [] (some 4)).part 0).thermal = false ∧
    (stashing 1).freeAmong (stashing 1).args.nats = 2 ∧ (stashing 4).freeAmong (stashing 4).args.nats = 0 ∧
    ((stashing 1).part 0).state = 2 ∧ ((stashing 1).part 0).haltedAt.isSome = true ∧ ((stashing 1).part 0).thermal = false ∧
    (swapping.part 0).state = 4 ∧
    ([false, true].all (fun h => ((restarting h).part 0).state == 5 && ((restarting h).part 0).thermal == h)) = true ∧
    (restarting false).sys.heat = .run ∧ (restarting false).args.y = 0 ∧ (restarting false).args.nats = [] ∧ swapping.nextInRota 0 = some 0 ∧ (∀ p ∈ swapping.rota 0, (swapping.part p).state = 4 ∨ (swapping.part p).state = 0) ∧
    ((halting [team] none).part 0).watched = false ∧ 0 + 1000000 ≤ (halting [team] none).time ∧
    (((halting [team] none).ctxs.map (·.uid)).Nodup ∧ ∀ c ∈ (halting [team] none).ctxs, c.uid ≠ 0 ∧ c.uid ≤ (halting [team] none).uids) ∧
    (let s := lending []; let k := 8
     ((List.range 64).filter (fun p => (s.part p).slices / 2 ^ k % 2 = 1)).find? (fun p => (s.part p).state = 1) = some 0 ∧
       s.teams = [] ∧ ¬ (s.args.y < 64 ∧ (s.part s.args.y).slices / 2 ^ k % 2 = 1) ∧ s.sys.loans = [] ∧
       (s.part s.args.y).slices / 2 ^ (8 * (k / 8)) % 256 ≠ 0 ∧ Cells.get 0 s.sys.sliceSeen k + 10000 ≤ s.time ∧
       (s.part 0).quantStart + 10000 ≤ s.time) ∧
    (lending [loan]).sys.loans.find? (fun l => 8 * l.die + l.slice == 8 && l.recallAt.isNone) = some loan ∧
    (∀ m ∈ (lending [loan]).sys.loans, (lending [loan]).fitsOnlyWith m = false) ∧
    (let l : Loan := { loan with recallAt := some 3 }
     (lending [l]).noteHalts.sys.loans.find? (fun l => 8 * l.die + l.slice == 8) = some { l with drainedAt := some 10000 }) ∧
    (let l : Loan := { loan with recallAt := some 3, drainedAt := some 9 }
     let s := { lending [l] with teams := [{ team with part := 1, die := 1 }] }
     (lending [l]).loanTeams l = [] ∧ s.loanTeams l ≠ [] ∧ ((stashing 1).freeAmong (stashing 1).args.nats ≠ 0) ∧
       s.sys.loans.find? (fun l => 8 * l.die + l.slice == s.args.x % 64) = some l) ∧
    (State.reset.die 0).goal = (State.reset.die 0).cur ∧ (State.reset.die 0).cur ≤ 4 ∧
    ((State.reset.setDie 0 { goal := 4 }).die 0).goal ≠ ((State.reset.setDie 0 { goal := 4 }).die 0).cur := by
  refine ⟨?_, ?_, ?_, ?_, ?_, ?_, ?_, ?_, ?_, ?_, ?_, ?_, ?_, ?_, ?_, ?_, ?_, ?_, ?_, ?_, ?_, ?_, ?_, ?_, ?_, ?_, ?_, ?_, ?_, ?_, ?_⟩ <;> decide +kernel

/-- The lender's cluster fits only on the one slice it has, which it has lent. -/
def needing : State :=
  { pooled 2 with parts := [(0, { slices := 1, state := 1, tcbbase := 0x20000, count := 2, hcnt := 1, chosen := some 2 }), (1, { slices := 2, state := 1 })]
                  sys := { (pooled 2).sys with loans := [{ lender := 0, borrower := 1 }] } }
/-- A die with four units, of which the partition's window holds the third. -/
def carved (target : Word64) : State :=
  { (State.reset.setDie 0 { target := 4, goal := 4, cur := 4 }) with parts := [(0, { vault := 4 })], args := { value := target } }

theorem witness_recall_and_carve :
    needing.fitsOnlyWith { lender := 0, borrower := 1 } = true ∧ needing.sys.loans = [{ lender := 0, borrower := 1 }] ∧
    (carved 3).sys.shadow = 0 ∧ ((carved 3).part 0).vault.testBit 3 = false ∧ ((carved 2).part 0).vault.testBit 2 = true ∧
    ran (carved 3) .ccarveWrite (fun t => t.die 0 == { target := 3, goal := 3, cur := 3 }) = true ∧
    ran (carved 2) .ccarveWrite (fun t => t.die 0 == { target := 2, goal := 4, cur := 4, cstat := 2 }) = true := by
  refine ⟨?_, ?_, ?_, ?_, ?_, ?_, ?_⟩ <;> decide +kernel

/-- The mailbox asks for an operation. -/
def asking (op : Word) (s : State) : State :=
  { s with sys := { s.sys with booted := true, fwmbox := [(0, op), (15, 1)] } }

theorem witness_SupervisorEvents :
    ([1, 2, 3, 4, 5] : List Nat).all (fun op => let s := asking (word op) base
      s.sys.booted && Cells.get 0 s.sys.fwmbox 15 == 1 && (Cells.get 0 s.sys.fwmbox 0).toNat == op) = true ∧
    (let s := asking 1 { base with parts := [], args := { x := 63, y := 5, z := 6, value := 7, value2 := 1 } }
     s.args.x < 64 ∧ (s.part s.args.x).state = 0 ∧ s.slicesFit s.args.x s.args.value.toNat = true) ∧
    (let s := asking 2 { base with args := { x := 64, y := 63 } }; s.args.x ≤ 64 ∧ s.args.y < 64) ∧
    (asking 3 (lending [loan])).sys.loans.find? (fun l => 8 * l.die + l.slice == 8 && l.recallAt.isNone) = some loan ∧
    (let s := asking 4 { base with args := { x := 7, y := 4 } }
     (s.die 7).goal = (s.die 7).cur ∧ s.args.y % 16 ≤ 4 ∧ (s.die 7).cur ≤ s.args.y % 16) ∧
    base.sliceIdle 63 = true ∧
    (let s := asking 1 { base with parts := [(63, { state := 2, haltedAt := some 5 })], args := { x := 63, value := 7 } }
     (s.part 63).state = 2 ∧ (s.part 63).haltedAt.isSome = true ∧ s.slicesFit 63 7 = true) ∧
    base.sys.booted = false ∧ (asking 1 base).sys.booted = true ∧
    Nat.land 1 (asking 1 base).sys.shadow = 0 ∧
    (let s := asking 1 { base with sys := { base.sys with shadow := 3 }, args := { value2 := 2 } }
     s.sys.booted = true ∧ Nat.land s.args.value2.toNat s.sys.shadow ≠ 0) ∧
    (let s := asking 6 base; Cells.get 0 s.sys.fwmbox 15 = 1 ∧ (Cells.get 0 s.sys.fwmbox 0).toNat = 6) ∧
    (let s : State := { base with args := { x := 2, y := 0x1000 } }
     1 ≤ s.args.x ∧ s.args.x ≤ 64 ∧ 0x1000 ≤ s.args.y ∧ (s.fn s.args.x).part = none) ∧
    (let s : State := { base with args := { x := 64, y := 0x2000 } }
     s.args.x ≤ 64 ∧ 0x2000 ≤ s.args.y) ∧
    (let s : State := { base with args := { x := 1, y := 0x1030 } }
     1 ≤ s.args.x ∧ s.args.x ≤ 64 ∧ (s.fn s.args.x).part = some 0) := by
  refine ⟨?_, ?_, ?_, ?_, ?_, ?_, ?_, ?_, ?_, ?_, ?_, ?_, ?_, ?_, ?_⟩ <;> decide +kernel

/-- R386, R406: CCARVE reads its fields; an operation the mailbox does not have gets STATUS 1. -/
theorem test_carve_read_and_unknown_operation :
    (State.reset.setDie 7 { target := 4, cur := 3, cstat := 1 }).readReg ⟨8, 7, 0⟩ = 0x134 ∧
    ran (asking 6 base) .fwmboxRemap (fun t => Cells.get 0 t.sys.fwmbox 14 == 1 && Cells.get 0 t.sys.fwmbox 15 == 0) = true := by
  refine ⟨?_, ?_⟩ <;> decide +kernel

theorem witness_ReliabilityEvents :
    (∃ c, base.ctx 1 = some c ∧ c.uid = 1 ∧ c.ended = false ∧ (base.ctxs.map (·.uid)).Nodup) ∧
    (let s := { base with sys := { base.sys with samples := [{ quad := 3, sig := 9 }] }, args := { x := 8, y := 255 } }
     s.args.x / 32 = 3 / 32 ∧ s.args.x / 4 ≠ 3 / 4 ∧ (s.quad s.args.x).retired = false ∧ s.args.x ≠ s.args.y ∧ s.args.y ≠ 3 ∧ s.args.y < 256 ∧ s.args.value ≠ 9) := by
  refine ⟨⟨_, rfl, ?_⟩, ?_⟩ <;> decide

theorem witness_PowerEvents :
    State.reset.sys.powered = false ∧ State.reset.args.images = [] ∧ State.reset.sys.heat = .run ∧
    State.reset.sys.config = none ∧ State.reset.sys.attKey = none ∧
    (let s : State := { State.reset with sys := { State.reset.sys with images := [⟨2, 0, [], []⟩], attKey := some (1, 2) } }
     s.sys.powered = false ∧ s.args.images = [] ∧ s.sys.config = some ⟨2, 0, [], []⟩ ∧ s.sys.attKey.isSome = true) ∧
    ringFull (base.fn 0).evqhead (base.fn 0).evqtail (base.fn 0).evqsize = false ∧
    (let s := { base with time := 10000, args := { nats := [400, 400, 400, 400, 400, 400, 400, 400] } }
     s.sys.arbiter + 10000 ≤ s.time ∧ ((List.range 8).map (fun d => s.args.nats.getD d 0)).foldl (· + ·) 0 ≤ s.sys.pbudget ∧
       s.args.value.toNat ≤ s.sys.pbudget ∧ s.sys.pbudget < 3500 ∧ s.sys.excursion = none ∧ s.sys.calmUntil ≤ s.sys.arbiter ∧
       s.time ≤ s.sys.arbiter + 1000000) ∧
    (State.reset.die 7).hot = false ∧ ((State.reset.setDie 7 { hot := true }).die 7).hot = true ∧
    (let s := { halting [] (some 4) with sys := { base.sys with heat := .halting } }
     s.sys.heat = .halting ∧ ((List.range 64).all (fun p => (s.part p).state != 2 || (s.part p).haltedAt.isSome)) = true) ∧
    (let s : State := { base with args := { nats := [94, 94, 94, 94, 94, 94, 94, 94] } }
     (List.range 8).all (fun d => s.args.nats.getD d 95 < 95) = true) := by
  refine ⟨?_, ?_, ?_, ?_, ?_, ?_, ?_, ?_, ?_, ?_, ?_, ?_⟩ <;> decide

/-- A draw above the budget: it goes on for 1 ms, and ends; and images of which the first is the root's. -/
def drawing (watts : Word64) (since : Option Nat) (calm time : Nat) : State :=
  { base with time, args := { nats := [400, 400, 400, 400, 400, 400, 400, 400], value := watts }, sys := { base.sys with excursion := since, calmUntil := calm } }

theorem witness_PowerEvents_excursions :
    ([(3300, some 5, 0, 1000005), (3300, some 5, 0, 1000006), (3300, none, 9, 10000), (4001, none, 0, 10000), (3200, some 0, 0, 10000)] :
        List (Word64 × Option Nat × Nat × Nat)).all (fun e =>
      let s := drawing e.1 e.2.1 e.2.2.1 e.2.2.2
      s.sys.arbiter + 10000 ≤ s.time && s.sys.arbiter == 0 && ((List.range 8).map (fun d => s.args.nats.getD d 0)).foldl (· + ·) 0 ≤ s.sys.pbudget &&
        s.sys.pbudget == 3200) = true ∧
    (let s : State := { State.reset with args := { images := [⟨1, 0, [], []⟩] }, sys := { State.reset.sys with images := [⟨0, 0, [], []⟩] } }
     s.sys.powered = false ∧ s.args.images = [⟨1, 0, [], []⟩] ∧ (s.sys.images.any (·.slot == 0)) = true) ∧
    (let s : State := { base with args := { y := 115 } }; 115 ≤ s.args.y ∧ s.sys.heat = .run ∧ (s.die 0).hot = false) := by
  refine ⟨?_, ?_, ?_⟩ <;> decide

/-- R407, R408: after the thermal stop a partition that had halted reads PSTATE 5. -/
theorem test_thermal_restart :
    ran { base with sys := { base.sys with heat := .stopped }, parts := [(3, { state := 6, thermal := true })],
                    args := { nats := [94, 94, 94, 94, 94, 94, 94, 94] } } .thermalRestart
      (fun t => (t.part 3).state == 5 && t.sys.heat == .run && (t.die 7).clock == 16) = true := by decide

/-! ### The hypotheses are met: the step -/

/-- A group before an open clause of some words and class. -/
def before (ws : List Word) (cls : Nat) : State :=
  { base with cur := { grp with clause := { grp.clause with words := ws, count := ws.length, cls } } }

theorem alone_before (ws : List Word) (cls : Nat) : Alone (before ws cls) := by
  refine ⟨fun k h => ?_, fun d hd => ?_⟩
  · cases k with
    | zero => rfl
    | succ n =>
      simp only [before, base, grp, List.getD, List.getElem?_cons_succ, List.getElem?_replicate] at h
      split at h <;> simp at h
  · simp [before, base, State.reset] at hd

/-- The group stands in mid-clause, and took its pipe's last turn. -/
def midClause : State :=
  let s := before [0x88081000, 0x88081000] 0
  { s with cur := { s.cur with clause := { s.cur.clause with pos := 1 } }, sys := { s.sys with issuer := [(0, 1)] } }

/-- R197: the clause that is being issued goes on without a new choice, which would move the ages on. -/
theorem witness_goes_on :
    GoesOn midClause ∧ ¬ GoesOn (before [0x88081000] 0) ∧
    (match step midClause, step (before [0x88081000] 0) with
     | .next t, .next u => t.cur.issueSeq == midClause.cur.issueSeq && decide (midClause.cur.issueSeq < u.cur.issueSeq)
     | _, _ => false) = true := by
  refine ⟨?_, ?_, ?_⟩
  · simp only [GoesOn]; decide
  · simp only [GoesOn]; decide
  · decide +kernel

theorem witness_StepRunsDecoded :
    (before [0x88081000] 0).turns = [] ∧ (before [0x88081000] 0).cur.live = true ∧
    (match decode [0x88081000] with
     | .ok i n => i.enc.isSome && i.shape.cls == 0 && n == 1
     | .err _ => false) = true ∧
    (match decode [0x08000000] with | .ok (.unassignedOpcode w) _ => w == 0x08000000 | _ => false) = true ∧
    (match decode [0x88081000, 0] with | .ok i _ => i.shape.cls != 4 | .err _ => false) = true ∧
    (match decode [0x230501A4] with | .err _ => true | .ok _ _ => false) = true ∧
    (let s := before [0x88081000] 0
     s.cur.owedTrap = none ∧ s.replyDue s.cur = false ∧
      (match decode [0x88081000] with
       | .ok i _ => ran s.tick i (fun t => ((s.tick.afterIssue t).ctx 1).all (fun d => d.stall.isNone))
       | .err _ => false) = true) ∧
    isAgentEvent .lapBoundary = true ∧ isMessage .lapBoundary = false ∧ isAgentEvent .wakeAck = true ∧ isMessage .wakeAck = true := by
  refine ⟨?_, ?_, ?_, ?_, ?_, ?_, ?_, ?_, ?_, ?_, ?_⟩ <;> decide +kernel

/-- A step of a machine with a listed byte keeps the canonical form. -/
def stored : State := { before [0x88081000] 0 with mem := [(5, 1)] }

theorem witness_StepKeepsNames : Apart stored ∧ (match step stored with | .next t => t.time == 101 | _ => false) = true := by
  refine ⟨?_, ?_⟩
  · simp only [Apart]; decide +kernel
  · decide +kernel

theorem witness_StepKeepsMemory : Sound stored ∧ (match step stored with | .next t => t.time == 101 | _ => false) = true := by
  refine ⟨?_, ?_⟩
  · show Memory.wf _ = true; decide
  · decide +kernel

theorem witness_DecodeEncode :
    (Instr.radd { w := { nowb := false, dst := 8, a := .v 16, b := .v 0 }, imm := none }).wf = true ∧
    decode [0x88081000] = .ok (.radd { w := { nowb := false, dst := 8, a := .v 16, b := .v 0 }, imm := none }) 1 := by decide

theorem witness_ResetState : (State.reset.fn 3).pcqsize = 4 ∧ State.reset.connOf 7 7 = 0x3FFF := by decide

end Sys2Proof.Tests
end

section
/-! ## SUPPORT. What the events of the supervisor, of power and of heat share (R211, R378, R401)

Reading a record after a write to the table that holds it, folds over such tables, event records, and what a flashback leaves. -/

namespace Sys2Proof.Machine

/-! ### Folds -/

/-- What every step of a fold keeps, the fold keeps. -/
theorem foldl_keeps {σ α β : Type} (g : σ → β) (f : σ → α → σ) (h : ∀ s a, g (f s a) = g s) (l : List α) (s : σ) :
    g (l.foldl f s) = g s := by
  induction l generalizing s with
  | nil => rfl
  | cons a l ih => rw [List.foldl_cons, ih, h]

/-- A fold whose step for an index changes what is read at that index only, by a function of what is read there. -/
theorem foldl_pointwise {σ β : Type} (read : σ → Nat → β) (f : σ → Nat → σ) (g : Nat → β → β)
    (h : ∀ s d e, read (f s d) e = if e = d then g d (read s d) else read s e) (l : List Nat) (hl : l.Nodup) (s : σ) (e : Nat) :
    read (l.foldl f s) e = if e ∈ l then g e (read s e) else read s e := by
  induction l generalizing s with
  | nil => simp
  | cons d l ih =>
    obtain ⟨hd, hl⟩ := List.nodup_cons.1 hl
    rw [List.foldl_cons, ih hl, h]
    by_cases hed : e = d
    · subst hed; simp [hd]
    · simp [hed]

/-! ### Records by number -/

theorem State.fn_setFn (s : State) (n m : Nat) (f : Fn) : (s.setFn n f).fn m = if m = n then f else s.fn m := Cells.get_set ..

theorem State.part_setPart (s : State) (n m : Nat) (p : Part) : (s.setPart n p).part m = if m = n then p else s.part m :=
  Cells.get_set ..

theorem State.die_setDie (s : State) (n m : Nat) (d : Die) : (s.setDie n d).die m = if m = n then d else s.die m := Cells.get_set ..

theorem State.quad_setQuad (s : State) (n m : Nat) (q : Quad) : (s.setQuad n q).quad m = if m = n then q else s.quad m :=
  Cells.get_set ..

@[simp] theorem State.setDie_fn (s : State) (n k : Nat) (d : Die) : (s.setDie n d).fn k = s.fn k := rfl
@[simp] theorem State.setDie_part (s : State) (n k : Nat) (d : Die) : (s.setDie n d).part k = s.part k := rfl

/-! ### Event records (R401) -/

/-- A function after an event record has been sent to it: taken where its ring has room, else lost. -/
def Fn.signalled (f : Fn) (type : Nat) : Fn :=
  if ringFull f.evqhead f.evqtail f.evqsize then { f with evqlost := (f.evqlost + 1) % 2 ^ 32 }
  else { f with evqtail := (f.evqtail + 1) % 2 ^ f.evqsize, msix := f.msix ++ [type - 1] }

theorem State.event_fn (s : State) (fn type part arg0 k : Nat) :
    (s.event fn type part arg0).fn k = if k = fn then (s.fn fn).signalled type else s.fn k := by
  unfold State.event Fn.signalled
  dsimp only
  split
  · exact s.fn_setFn ..
  · exact State.fn_setFn ..

/-- An event record changes the ring's memory, the function, and the free values taken. -/
theorem State.event_eq (s : State) (fn type part arg0 : Nat) :
    s.event fn type part arg0 = { s with mem := (s.event fn type part arg0).mem, free := (s.event fn type part arg0).free,
                                         fns := (s.event fn type part arg0).fns } := by
  unfold State.event
  dsimp only
  split <;> rfl

@[simp] theorem State.event_sys (s : State) (fn type part arg0 : Nat) : (s.event fn type part arg0).sys = s.sys := by
  rw [State.event_eq]

@[simp] theorem State.event_part (s : State) (fn type part arg0 k : Nat) : (s.event fn type part arg0).part k = s.part k := by
  rw [State.event_eq]; rfl

@[simp] theorem State.event_die (s : State) (fn type part arg0 k : Nat) : (s.event fn type part arg0).die k = s.die k := by
  rw [State.event_eq]; rfl

/-- A full ring drops the record. -/
theorem State.event_mem_of_full (s : State) (fn type part arg0 : Nat)
    (h : ringFull (s.fn fn).evqhead (s.fn fn).evqtail (s.fn fn).evqsize = true) : (s.event fn type part arg0).mem = s.mem := by
  unfold State.event
  rw [if_pos h]
  rfl

@[simp] theorem Fn.signalled_part (f : Fn) (type : Nat) : (f.signalled type).part = f.part := by
  unfold Fn.signalled
  split <;> rfl

theorem Fn.signalled_of_room (f : Fn) (type : Nat) (h : ringFull f.evqhead f.evqtail f.evqsize = false) :
    f.signalled type = { f with evqtail := (f.evqtail + 1) % 2 ^ f.evqsize, msix := f.msix ++ [type - 1] } := by
  simp [Fn.signalled, h]

/-- A further record signals its vector or is lost. -/
theorem Fn.signalled_msix (f : Fn) (type : Nat) :
    (f.signalled type).msix = f.msix ∨ (f.signalled type).msix = f.msix ++ [type - 1] := by
  unfold Fn.signalled
  split
  · exact .inl rfl
  · exact .inr rfl

/-! ### Flashback (R211, R378) -/

/-- What the flashback of groups can change: contexts, teams, names and free values given, memory and what is cached or
watched of it, operations in flight, and of the system the marks of R200, R238, R389 and R397.  Functions, partitions, dies, loans and
the rest stay. -/
def Flashed (s t : State) : Prop :=
  t = { s with free := t.free, uids := t.uids, cur := t.cur, others := t.others, teams := t.teams, mem := t.mem,
               poison := t.poison, lines := t.lines, mons := t.mons, ops := t.ops, tlb := t.tlb, walked := t.walked,
               sys := { s.sys with deadlock := t.sys.deadlock, migLines := t.sys.migLines, life := t.sys.life,
                                   log := t.sys.log, logSeq := t.sys.logSeq } }

@[refl] theorem Flashed.refl (s : State) : Flashed s s := rfl

theorem Flashed.trans {s t u : State} (h : Flashed s t) (k : Flashed t u) : Flashed s u := by
  unfold Flashed at *
  rw [k, h]

theorem Flashed.foldl {α : Type} (f : State → α → State) (h : ∀ s a, Flashed s (f s a)) (l : List α) (s : State) :
    Flashed s (l.foldl f s) := by
  induction l generalizing s with
  | nil => exact .refl s
  | cons a l ih => exact (h s a).trans (ih (f s a))

theorem Touched.flashed {s t : State} (h : Touched s t) : Flashed s t := by
  unfold Flashed
  rw [h.1]

theorem Flashed.fns {s t : State} (h : Flashed s t) : t.fns = s.fns := by rw [h]
theorem Flashed.part {s t : State} (h : Flashed s t) (k : Nat) : t.part k = s.part k := by rw [h]; rfl
theorem Flashed.dies {s t : State} (h : Flashed s t) : t.sys.dies = s.sys.dies := by rw [h]
theorem Flashed.loans {s t : State} (h : Flashed s t) : t.sys.loans = s.sys.loans := by rw [h]

theorem State.noteWct_flashed (s : State) (team wct : Nat) : Flashed s (s.noteWct team wct) := rfl

theorem State.setCtx_flashed (s : State) (c : Ctx) : Flashed s (s.setCtx c) := by
  unfold State.setCtx
  split <;> rfl

theorem State.dropCtx_flashed (s : State) (uid : Nat) : Flashed s (s.dropCtx uid) := by
  unfold State.dropCtx
  dsimp only
  repeat' split
  all_goals rfl

theorem State.unpoisonLeaf_touched (s : State) (key n : Nat) : Touched s (s.unpoisonLeaf key n) := by
  unfold State.unpoisonLeaf
  split <;> exact ⟨rfl, id⟩

theorem State.homeWrite_touched (s : State) (key : Nat) (bs : List Byte) (c : Option (Nat × Nat)) :
    Touched s (s.homeWrite key bs c).1 := by
  refine (s.unpoisonLeaf_touched key bs.length).trans (Touched.trans ?_ (State.agentWrite_touched ..))
  split <;> exact ⟨rfl, id⟩

theorem State.vwriteLE_touched (s : State) (fn va n x : Nat) : Touched s (s.vwriteLE fn va n x) := by
  unfold State.vwriteLE State.vwrite
  split
  · exact (s.vtouch_touched ..).trans (State.agentWrite_touched ..)
  · exact .refl s

theorem State.reportEnd_touched (s : State) (t : Team) (status : Nat) (tcause : Word) (tval : Word64) :
    Touched s (s.reportEnd t status tcause tval) := by
  unfold State.reportEnd
  split
  · exact ((s.vwriteLE_touched ..).trans (State.vwriteLE_touched ..)).trans (State.vwriteLE_touched ..)
  · exact .refl s

theorem State.vaultWrite_touched (s : State) (part off : Nat) (bs : List Byte) : Touched s (s.vaultWrite part off bs) := by
  unfold State.vaultWrite
  dsimp only
  split
  · exact s.homeWrite_touched ..
  · exact Touched.foldl _ (fun s a => s.homeWrite_touched ..) _ s

theorem State.syncRow_touched (s : State) (t : Team) (r : Row) : Touched s (s.syncRow t r) := by
  unfold State.syncRow
  split
  · exact .refl s
  · exact s.vaultWrite_touched ..
  · exact s.vaultWrite_touched ..

theorem State.freeSlot_flashed (s : State) (c : Ctx) : Flashed s (s.freeSlot c) := by
  refine Flashed.trans ?_ (State.dropCtx_flashed ..)
  split
  · exact s.noteWct_flashed ..
  · exact (s.noteWct_flashed ..).trans (State.reportEnd_touched ..).flashed

theorem State.grantUnits_flashed (n : Nat) (s : State) (die core : Nat) : Flashed s (s.grantUnits die core n) := by
  induction n generalizing s with
  | zero => exact .refl s
  | succ n ih =>
    unfold State.grantUnits
    split
    · exact .refl s
    · split
      · exact (s.setCtx_flashed _).trans (ih _)
      · exact .refl s

theorem State.endCtx_flashed (s : State) (uid : Nat) : Flashed s (s.endCtx uid) := by
  unfold State.endCtx
  split
  · exact .refl s
  · dsimp only
    refine Flashed.trans ?_ (State.grantUnits_flashed ..)
    split
    · refine Flashed.trans ?_ (State.freeSlot_flashed ..)
      rfl
    · refine Flashed.trans ?_ (State.setCtx_flashed ..)
      rfl

theorem State.flashLane_flashed (s : State) (c : Ctx) (i : Nat) : Flashed s (s.flashLane c i) := by
  unfold State.flashLane
  refine Flashed.trans ?_ (State.syncRow_touched ..).flashed
  rfl

theorem State.flashReads_touched (s : State) (c : Ctx) : Touched s (s.flashReads c) := by
  refine Touched.foldl _ (fun s p => ?_) _ s
  split
  · exact .refl s
  · exact s.vtouch_touched ..

theorem State.flashback_flashed (s : State) (uid : Nat) : Flashed s (s.flashback uid) := by
  unfold State.flashback
  split
  · exact .refl s
  · split
    · exact .refl s
    · exact ((s.flashReads_touched _).flashed.trans (Flashed.foldl _ (fun s i => s.flashLane_flashed _ i) _ _)).trans
        (State.endCtx_flashed ..)

theorem State.haltTeams_flashed (s : State) (ts : List Team) : Flashed s (s.haltTeams ts) :=
  Flashed.foldl _ (fun s _ => (s.setCtx_flashed _).trans (State.flashback_flashed ..)) _ s

end Sys2Proof.Machine
end

section
/-! ## The mailbox and register writes (R10, R279, R366, R376, R399, R406) -/

namespace Sys2Proof.Machine

open Sys2Proof.Claims

/-! ### FWMBOX (R406) -/

theorem State.mailDone_sys (s : State) (status : Nat) : (s.mailDone status).sys =
    { s.sys with fwmbox := Cells.set 0 (Cells.set 0 s.sys.fwmbox 14 (word status)) 15 0 } := State.event_sys ..

/-- STATUS stands in word 14, and word 15 says that the request is taken. -/
theorem State.mailDone_answers (s : State) (status : Nat) :
    Cells.get 0 (s.mailDone status).sys.fwmbox 14 = BitVec.ofNat 32 status ∧ Cells.get 0 (s.mailDone status).sys.fwmbox 15 = 0 := by
  rw [State.mailDone_sys]
  refine ⟨?_, Cells.get_set_same 0 (Cells.set 0 s.sys.fwmbox 14 (word status)) 15 0⟩
  rw [Cells.get_set_ne _ _ _ _ _ (by decide), Cells.get_set_same, word]

@[simp] theorem State.mailDone_part (s : State) (status k : Nat) : (s.mailDone status).part k = s.part k := State.event_part ..
@[simp] theorem State.mailDone_die (s : State) (status k : Nat) : (s.mailDone status).die k = s.die k := State.event_die ..

@[simp] theorem State.mailDone_fn_part (s : State) (status k : Nat) : ((s.mailDone status).fn k).part = (s.fn k).part := by
  unfold State.mailDone
  rw [State.event_fn]
  split
  · subst_vars; exact Fn.signalled_part ..
  · rfl

theorem State.mailOp_of_asked {s : State} {op : Nat} (h : Asked s op) : s.mailOp = some op := by
  obtain ⟨booted, asks, named⟩ := h
  rw [State.mailOp, booted, asks, named]
  rfl

/-- The operation asked for is done. -/
theorem mailbox_done {s u : State} {op : Nat} {run : State → State × Bool} (h : Asked s op) (hr : run s = (u, true)) :
    mailbox op run s = .next (u.mailDone 0) := by
  simp [mailbox, State.mailOp_of_asked h, hr]

/-- The operation asked for may not be done. -/
theorem mailbox_fails {s : State} {op : Nat} {run : State → State × Bool} (h : Asked s op) (hr : run s = (s, false)) :
    mailbox op run s = .next (s.mailDone 1) := by
  simp [mailbox, State.mailOp_of_asked h, hr]

/-- A request of an OP that R406 does not have is refused, whichever operation looks at it. -/
theorem mailbox_unknown {s : State} {op k : Nat} {run : State → State × Bool} (h : Asked s k) (hk : k = 0 ∨ 5 < k)
    (hop : 1 ≤ op ∧ op ≤ 5) : mailbox op run s = .next (s.mailDone 1) := by
  have other : k ≠ op := by omega
  simp [mailbox, State.mailOp_of_asked h, other, hk]

/-! ### Forming a partition (R366, R377) -/

/-- Becoming eligible changes the credits alone. -/
theorem Part.freshCredit_eq (old new : Part) : ∃ credit creditW, old.freshCredit new = { new with credit, creditW } := by
  have one : ∀ (p : Part) (r : Nat), ∃ credit creditW,
      (if !old.eligible r && p.eligible r then p.setCredit r 0 else p) = { p with credit, creditW } := by
    intro p r
    unfold Part.setCredit
    split
    · split <;> exact ⟨_, _, rfl⟩
    · exact ⟨_, _, rfl⟩
  obtain ⟨a, b, h0⟩ := one new 0
  obtain ⟨c, d, h1⟩ := one { new with credit := a, creditW := b } 1
  refine ⟨c, d, ?_⟩
  rw [Part.freshCredit, List.foldl_cons, h0, List.foldl_cons, h1, List.foldl_nil]

@[simp] theorem Part.freshCredit_slices (old new : Part) : (old.freshCredit new).slices = new.slices := by
  obtain ⟨_, _, e⟩ := old.freshCredit_eq new; rw [e]
@[simp] theorem Part.freshCredit_quant (old new : Part) : (old.freshCredit new).quant = new.quant := by
  obtain ⟨_, _, e⟩ := old.freshCredit_eq new; rw [e]
@[simp] theorem Part.freshCredit_powner (old new : Part) : (old.freshCredit new).powner = new.powner := by
  obtain ⟨_, _, e⟩ := old.freshCredit_eq new; rw [e]
@[simp] theorem Part.freshCredit_vault (old new : Part) : (old.freshCredit new).vault = new.vault := by
  obtain ⟨_, _, e⟩ := old.freshCredit_eq new; rw [e]

theorem State.putPart_part (s : State) (n m : Nat) (p : Part) :
    (s.putPart n p).part m = if m = n then (s.part n).freshCredit p else s.part m := s.part_setPart ..

/-- A partition that is set reads what it was set to. -/
theorem State.formPart_part (s : State) (n slices quant owner vault : Nat) (vwbase : Word64) :
    let p := (s.formPart n slices quant owner vault vwbase).part n
    p.slices = slices ∧ p.quant = quant ∧ p.powner = owner % 64 ∧ p.vault = vault % 2 ^ 32 := by
  unfold State.formPart
  dsimp only
  split
  · simp [State.part_setPart, *]
  · split
    · simp [State.part_setPart]
    · split
      · simp [State.part_setPart]
      · simp [State.startQuantum, State.runQuantum, State.putPart_part, State.part_setPart]

/-! ### The operations -/

theorem execFwmboxSetPartition_done {s : State} (h : Asked s 1) (hx : s.args.x < 64)
    (may : (s.part s.args.x).state = 0 ∨ (s.part s.args.x).state = 4 ∨
      (((s.part s.args.x).state = 2 ∨ (s.part s.args.x).state = 6) ∧ (s.part s.args.x).haltedAt.isSome = true))
    (fits : s.slicesFit s.args.x s.args.value.toNat = true) (vault : Nat.land s.args.value2.toNat s.sys.shadow = 0) :
    execFwmboxSetPartition s = .next ((s.formPart s.args.x s.args.value.toNat (s.args.y % 2 ^ 32) s.args.z
      s.args.value2.toNat (word64 (s.args.nats.headD 0))).mailDone 0) := by
  refine mailbox_done h ?_
  have out : ¬ 64 ≤ s.args.x := by omega
  rcases may with may | may | ⟨may | may, halted⟩ <;> simp_all

/-- PVAULT may not name a unit of shadow storage (R379). -/
theorem execFwmboxSetPartition_shadow {s : State} (h : Asked s 1) (vault : Nat.land s.args.value2.toNat s.sys.shadow ≠ 0) :
    execFwmboxSetPartition s = .next (s.mailDone 1) := by
  have clash : (Nat.land s.args.value2.toNat s.sys.shadow != 0) = true := bne_iff_ne.2 vault
  refine mailbox_fails h ?_
  simp only [clash, Bool.or_true, Bool.true_or, if_true]

theorem execFwmboxBindFunction_done {s : State} (h : Asked s 2) (hx : s.args.x ≤ 64) (hy : s.args.y < 64) :
    execFwmboxBindFunction s
      = .next ((s.setFn s.args.x { s.fn s.args.x with part := some s.args.y }).mailDone 0) := by
  refine mailbox_done h ?_
  have named : ¬ (64 < s.args.x ∨ 64 ≤ s.args.y) := by omega
  simp [named]

/-- A loan that may be recalled is marked with the moment of its recall (R383). -/
theorem State.recall_loan {s : State} {k : Nat} {l : Loan}
    (h : s.sys.loans.find? (fun l => 8 * l.die + l.slice == k && l.recallAt.isNone) = some l) :
    (s.recall k).2 = true ∧ { l with recallAt := some s.time } ∈ (s.recall k).1.sys.loans := by
  unfold State.recall
  rw [h]
  refine ⟨rfl, ?_⟩
  rw [(State.haltTeams_flashed _ _).loans]
  exact List.mem_map.2 ⟨l, List.mem_of_find?_eq_some h, by simp⟩

/-- A write of TARGET changes its die alone, and TARGET reads what was written, whatever the outcome (R10, R386). -/
theorem State.carve_eq (s : State) (n target : Nat) : ∃ d, s.carve n target = s.setDie n d ∧ d.target = target := by
  unfold State.carve
  dsimp only
  repeat' split
  all_goals exact ⟨_, rfl, rfl⟩

@[simp] theorem State.carve_args (s : State) (n target : Nat) : (s.carve n target).args = s.args := by
  obtain ⟨d, e, -⟩ := s.carve_eq n target
  rw [e]
  rfl

theorem State.carve_target (s : State) (n target e : Nat) :
    ((s.carve n target).die e).target = if e = n then target else (s.die e).target := by
  obtain ⟨d, h, written⟩ := s.carve_eq n target
  rw [h, State.die_setDie]
  split
  · exact written
  · rfl

/-- A carve-out that takes no unit away is under way or done. -/
theorem State.carve_cstat {s : State} {n target : Nat} (idle : (s.die n).goal = (s.die n).cur) (units : target ≤ 4)
    (grows : (s.die n).cur ≤ target) : ((s.carve n target).die n).cstat ≤ 1 := by
  have keeps : ((List.range 4).any (fun i => target ≤ i && i < (s.die n).cur
      && ((List.range 64).foldl (fun m p => Nat.lor m (s.part p).vault) s.sys.shadow) / 2 ^ (4 * n + i) % 2 = 1)) = false := by
    rw [List.any_eq_false]
    intro i _
    simp only [Bool.and_eq_true, decide_eq_true_eq]
    rintro ⟨⟨kept, held⟩, -⟩
    omega
  have : ¬ 4 < target := by omega
  unfold State.carve
  dsimp only
  rw [keeps]
  simp only [idle, bne_self_eq_false, Bool.false_eq_true, if_false, this]
  split <;> simp [State.die_setDie]

/-! ### Registers by their place in BAR0 (R399) -/

theorem State.barReg_pcqtail (s : State) {fn off k : Nat} (hk : k ≤ 64)
    (h : fn = k ∧ off = 0x24 ∨ fn = 0 ∧ 1 ≤ k ∧ off = 0x20_0000 + 0x1000 * k + 0x24) : s.barReg fn off = some ⟨2, k, 0x24⟩ := by
  rcases h with ⟨rfl, rfl⟩ | ⟨rfl, h1, rfl⟩
  · have : ¬ 64 < fn := by omega
    unfold State.barReg
    split <;> simp_all [physReg]
  · have block : (0x20_0000 + 0x1000 * k + 0x24 - 0x20_0000) / 0x1000 = k := by omega
    have place : (0x20_0000 + 0x1000 * k + 0x24) % 0x1000 = 0x24 := by omega
    simp only [State.barReg, physReg, if_true, Bool.and_eq_true, decide_eq_true_eq]
    rw [if_neg (by omega), if_neg (by omega), if_neg (by omega), if_neg (by omega), if_neg (by omega), if_pos (by omega), block,
      place, if_pos (by decide)]

theorem State.barReg_evqbase (s : State) {fn : Nat} (h : fn ≤ 64) : s.barReg fn 0x100 = some ⟨3, fn, 0⟩ := by
  have : ¬ 64 < fn := by omega
  unfold State.barReg
  split <;> simp_all [physReg]

theorem State.barReg_psvec (s : State) {fn off p : Nat} (hp : p < 64)
    (h : fn = 0 ∧ off = 0x10_0000 + 0x1000 * p + 0x30 ∨ 1 ≤ fn ∧ fn ≤ 64 ∧ (s.fn fn).part = some p ∧ off = 0x1030) :
    s.barReg fn off = some ⟨1, p, 0x30⟩ := by
  rcases h with ⟨rfl, rfl⟩ | ⟨h1, h2, bound, rfl⟩
  · have block : (0x10_0000 + 0x1000 * p + 0x30 - 0x10_0000) / 0x1000 = p := by omega
    have place : (0x10_0000 + 0x1000 * p + 0x30) % 0x1000 = 0x30 := by omega
    simp only [State.barReg, physReg, if_true, Bool.and_eq_true, decide_eq_true_eq]
    rw [if_neg (by omega), if_neg (by omega), if_neg (by omega), if_neg (by omega), if_pos (by omega), block, place]
  · rw [State.barReg, if_neg (by omega), if_neg (by omega), if_neg (by decide), if_neg (by decide), if_pos (by decide), bound]
    rfl

/-- A virtual function reaches no partition's block where none is bound to it, and nothing beyond that block. -/
theorem State.barReg_none (s : State) {fn off : Nat} (h1 : 1 ≤ fn) (h2 : fn ≤ 64) (ho : 0x1000 ≤ off)
    (h : (s.fn fn).part = none ∨ 0x2000 ≤ off) : s.barReg fn off = none := by
  rw [State.barReg, if_neg (by omega), if_neg (by omega), if_neg (by omega), if_neg (by omega)]
  split
  · rw [h.resolve_right (by omega)]
    rfl
  · rfl

/-- A function's write goes to the register at its offset. -/
theorem execRegisterWrite_bar {s : State} {r : DeviceReg} (hx : s.args.x ≤ 64) (h : s.barReg s.args.x s.args.y = some r) :
    execRegisterWrite s = .next (s.writeReg (s.args.x = 0) r s.args.value.toNat) := by
  have : s.args.x ≠ firmware := by unfold firmware; omega
  simp [execRegisterWrite, this, h]

/-- A write at an offset without a register is ignored. -/
theorem execRegisterWrite_none {s : State} (hx : s.args.x ≤ 64) (h : s.barReg s.args.x s.args.y = none) :
    execRegisterWrite s = .next s := by
  have : s.args.x ≠ firmware := by unfold firmware; omega
  simp [execRegisterWrite, this, h]

theorem execRegisterWrite_connmat {s : State} (hx : s.args.x = firmware) (hi : s.args.reg.index < 64) (hb : s.args.reg.block = 5)
    (idle : s.sliceIdle s.args.reg.index = true) :
    execRegisterWrite s
      = .next { s with connmat := Cells.set 0x3FFF s.connmat s.args.reg.index (s.args.value.toNat % 2 ^ 14) } := by
  simp [execRegisterWrite, hx, hb, regExists, hi, idle]

theorem State.readBar_of_bar {s : State} {fn off : Nat} {r : DeviceReg} (hb : s.sys.booted = true)
    (h : s.barReg fn off = some r) : s.readBar fn off = s.readReg r := by
  simp [State.readBar, hb, h]

/-! ### Register writes: what each leaves, and what is read then -/

theorem registerWrite_hostatt {s : State} (hx : s.args.x = 0) (hy : s.args.y = 0x1_0000) :
    exec .registerWrite s = .next { s with sys := { s.sys with hostatt := s.args.value.toNat % 4 } } := by
  have place : s.barReg s.args.x s.args.y = some ⟨0, 0, 0⟩ := by rw [hx, hy]; rfl
  exact execRegisterWrite_bar (by omega) place

theorem registerWrite_pcqtail {s : State} {k : Nat} (hk : k ≤ 64)
    (h : s.args.x = k ∧ s.args.y = 0x24 ∨ s.args.x = 0 ∧ 1 ≤ k ∧ s.args.y = 0x20_0000 + 0x1000 * k + 0x24) :
    ∃ t, exec .registerWrite s = .next t ∧ t = { s with fns := t.fns } ∧
      (∀ j, t.fn j = if j = k then { s.fn k with pcqtail := s.args.value.toNat % 2 ^ 32 } else s.fn j) ∧
      (s.sys.booted = true → t.readBar s.args.x s.args.y = s.args.value.toNat % 2 ^ 32) := by
  refine ⟨_, execRegisterWrite_bar (by omega) (s.barReg_pcqtail hk h), rfl, fun j => s.fn_setFn .., fun booted => ?_⟩
  rw [State.readBar_of_bar (by exact booted) (State.barReg_pcqtail _ hk h)]
  show Fn.readXlate (State.fn (State.setFn s k _) k) 0x24 = _
  rw [State.fn_setFn, if_pos rfl]
  rfl

theorem registerWrite_evqbase {s : State} {k : Nat} (hk : k ≤ 64) (hx : s.args.x = k) (hy : s.args.y = 0x100) :
    ∃ t, exec .registerWrite s = .next t ∧ t = { s with fns := t.fns } ∧
      ∀ j, t.fn j = if j = k then { s.fn k with evqbase := s.args.value } else s.fn j := by
  subst hx
  have place : s.barReg s.args.x s.args.y = some ⟨3, s.args.x, 0⟩ := by rw [hy]; exact s.barReg_evqbase hk
  refine ⟨_, execRegisterWrite_bar hk place, rfl, fun j => ?_⟩
  have same : word64 s.args.value.toNat = s.args.value := by simp [word64]
  show State.fn (State.setFn s s.args.x { s.fn s.args.x with evqbase := word64 s.args.value.toNat }) j = _
  rw [State.fn_setFn, same]

theorem registerWrite_psvec {s : State} {p : Nat} (hp : p < 64)
    (h : s.args.x = 0 ∧ s.args.y = 0x10_0000 + 0x1000 * p + 0x30 ∨
      1 ≤ s.args.x ∧ s.args.x ≤ 64 ∧ (s.fn s.args.x).part = some p ∧ s.args.y = 0x1030) :
    ∃ t, exec .registerWrite s = .next t ∧ t = { s with parts := t.parts } ∧
      (∀ j, t.part j = if j = p then { s.part p with psvec := s.args.value } else s.part j) ∧
      (s.sys.booted = true → t.readBar s.args.x s.args.y = s.args.value.toNat) := by
  have same : word64 s.args.value.toNat = s.args.value := by simp [word64]
  have done : exec .registerWrite s = .next (s.setPart p { s.part p with psvec := s.args.value }) := by
    rw [← same]
    exact execRegisterWrite_bar (by omega) (s.barReg_psvec hp h)
  refine ⟨_, done, rfl, fun j => s.part_setPart .., fun booted => ?_⟩
  have place := (s.setPart p { s.part p with psvec := s.args.value }).barReg_psvec hp h
  rw [State.readBar_of_bar (by exact booted) place]
  show Part.read (State.part (State.setPart s p _) p) 0x30 = _
  rw [State.part_setPart, if_pos rfl]
  rfl

theorem State.readReg_carve (s : State) (k : Nat) :
    s.readReg ⟨8, k, 0⟩ = (s.die k).target + 2 ^ 4 * (s.die k).cur + 2 ^ 8 * (s.die k).cstat := by
  show (s.die k).carveReg = _
  simp only [Die.carveReg, atBit, Nat.mul_comm]

/-- Before bring-up has finished a read gives all ones (R409). -/
theorem State.readBar_before {s : State} (h : s.sys.booted = false) (fn off : Nat) : s.readBar fn off = 2 ^ 64 - 1 := by
  simp [State.readBar, h]

end Sys2Proof.Machine
end

section
/-! ## The statement about the supervisor's events -/

namespace Sys2Proof.Machine

open Sys2Proof.Claims

theorem fwmboxSetPartition_sets {s : State} (h : Asked s 1) (hx : s.args.x < 64)
    (may : (s.part s.args.x).state = 0 ∨ (s.part s.args.x).state = 4 ∨
      (((s.part s.args.x).state = 2 ∨ (s.part s.args.x).state = 6) ∧ (s.part s.args.x).haltedAt.isSome = true))
    (fits : s.slicesFit s.args.x s.args.value.toNat = true) (vault : Nat.land s.args.value2.toNat s.sys.shadow = 0) :
    ∃ t, exec .fwmboxSetPartition s = .next t ∧ Cells.get 0 t.sys.fwmbox 14 = 0 ∧ Cells.get 0 t.sys.fwmbox 15 = 0 ∧
      (t.part s.args.x).slices = s.args.value.toNat ∧ (t.part s.args.x).quant = s.args.y % 2 ^ 32 ∧
      (t.part s.args.x).powner = s.args.z % 64 ∧ (t.part s.args.x).vault = s.args.value2.toNat % 2 ^ 32 := by
  obtain ⟨status, taken⟩ := State.mailDone_answers _ 0
  refine ⟨_, execFwmboxSetPartition_done h hx may fits vault, status, taken, ?_⟩
  rw [State.mailDone_part]
  exact s.formPart_part ..

theorem fwmboxBindFunction_binds {s : State} (h : Asked s 2) (hx : s.args.x ≤ 64) (hy : s.args.y < 64) :
    ∃ t, exec .fwmboxBindFunction s = .next t ∧ Cells.get 0 t.sys.fwmbox 14 = 0 ∧ Cells.get 0 t.sys.fwmbox 15 = 0 ∧
      (t.fn s.args.x).part = some s.args.y := by
  obtain ⟨status, taken⟩ := State.mailDone_answers _ 0
  refine ⟨_, execFwmboxBindFunction_done h hx hy, status, taken, ?_⟩
  rw [State.mailDone_fn_part, State.fn_setFn, if_pos rfl]

theorem execFwmboxRecall_done {s : State} {l : Loan} (h : Asked s 3)
    (lent : s.sys.loans.find? (fun l => 8 * l.die + l.slice == s.args.x % 64 && l.recallAt.isNone) = some l) :
    execFwmboxRecall s = .next ((s.recall (s.args.x % 64)).1.mailDone 0) := by
  obtain ⟨found, -⟩ := State.recall_loan lent
  exact mailbox_done h (Prod.ext rfl found)

theorem fwmboxRecall_marks {s : State} {l : Loan} (h : Asked s 3)
    (lent : s.sys.loans.find? (fun l => 8 * l.die + l.slice == s.args.x % 64 && l.recallAt.isNone) = some l) :
    ∃ t, exec .fwmboxRecall s = .next t ∧ Cells.get 0 t.sys.fwmbox 14 = 0 ∧ Cells.get 0 t.sys.fwmbox 15 = 0 ∧
      ∃ m ∈ t.sys.loans, m = { l with recallAt := some s.time } := by
  obtain ⟨status, taken⟩ := State.mailDone_answers (s.recall (s.args.x % 64)).1 0
  obtain ⟨-, marked⟩ := State.recall_loan lent
  refine ⟨_, execFwmboxRecall_done h lent, status, taken, _, ?_, rfl⟩
  rw [State.mailDone_sys]
  exact marked

theorem execFwmboxCarve_done {s : State} (h : Asked s 4) (idle : (s.die (s.args.x % 8)).goal = (s.die (s.args.x % 8)).cur)
    (units : s.args.y % 16 ≤ 4) (grows : (s.die (s.args.x % 8)).cur ≤ s.args.y % 16) :
    execFwmboxCarve s = .next ((s.carve (s.args.x % 8) (s.args.y % 16)).mailDone 0) := by
  have accepted := State.carve_cstat idle units grows
  refine mailbox_done h (Prod.ext rfl ?_)
  show decide (_ ≤ _) = true
  rw [State.carve_args]
  exact decide_eq_true accepted

theorem fwmboxCarve_carves {s : State} (h : Asked s 4) (idle : (s.die (s.args.x % 8)).goal = (s.die (s.args.x % 8)).cur)
    (units : s.args.y % 16 ≤ 4) (grows : (s.die (s.args.x % 8)).cur ≤ s.args.y % 16) :
    ∃ t, exec .fwmboxCarve s = .next t ∧ Cells.get 0 t.sys.fwmbox 14 = 0 ∧ Cells.get 0 t.sys.fwmbox 15 = 0 ∧
      (t.die (s.args.x % 8)).target = s.args.y % 16 := by
  obtain ⟨status, taken⟩ := State.mailDone_answers (s.carve (s.args.x % 8) (s.args.y % 16)) 0
  refine ⟨_, execFwmboxCarve_done h idle units grows, status, taken, ?_⟩
  rw [State.mailDone_die, State.carve_target, if_pos rfl]

theorem execFwmboxRemap_done {s : State} (h : Asked s 5) :
    execFwmboxRemap s
      = .next (State.mailDone { s with sys := { s.sys with remaps := s.sys.remaps ++ [(s.args.x % 8, s.args.y)] } } 0) :=
  mailbox_done h rfl

theorem fwmboxRemap_remaps {s : State} (h : Asked s 5) :
    ∃ t, exec .fwmboxRemap s = .next t ∧ Cells.get 0 t.sys.fwmbox 14 = 0 ∧ Cells.get 0 t.sys.fwmbox 15 = 0 ∧
      t.sys.remaps = s.sys.remaps ++ [(s.args.x % 8, s.args.y)] ∧
      (ringFull (s.fn 0).evqhead (s.fn 0).evqtail (s.fn 0).evqsize = true → t.mem = s.mem) := by
  obtain ⟨status, taken⟩ := State.mailDone_answers _ 0
  refine ⟨_, execFwmboxRemap_done h, status, taken, ?_, fun full => State.event_mem_of_full _ 0 9 0 0 full⟩
  rw [State.mailDone_sys]

/-- A request of an OP that R406 does not have ends with STATUS 1 at each of the five events (log 46). -/
theorem fwmbox_unknown {s : State} {op : Nat} (h : Asked s op) (unknown : op = 0 ∨ 5 < op) :
    ∀ i ∈ [Instr.fwmboxSetPartition, .fwmboxBindFunction, .fwmboxRecall, .fwmboxCarve, .fwmboxRemap],
      exec i s = .next (s.mailDone 1) := by
  have refused : ∀ (k : Nat) (run : State → State × Bool), 1 ≤ k ∧ k ≤ 5 → mailbox k run s = .next (s.mailDone 1) :=
    fun _ _ => mailbox_unknown h unknown
  simp only [List.mem_cons, List.not_mem_nil, or_false, forall_eq_or_imp, forall_eq]
  refine ⟨?_, ?_, ?_, ?_, ?_⟩
  · exact show execFwmboxSetPartition s = _ from refused 1 _ (by decide)
  · exact show execFwmboxBindFunction s = _ from refused 2 _ (by decide)
  · exact show execFwmboxRecall s = _ from refused 3 _ (by decide)
  · exact show execFwmboxCarve s = _ from refused 4 _ (by decide)
  · exact show execFwmboxRemap s = _ from refused 5 _ (by decide)

/-- A virtual function's write beyond the blocks that it has changes nothing, and reads there give 0 (R399). -/
theorem registerWrite_beyond {s : State} (h1 : 1 ≤ s.args.x) (h2 : s.args.x ≤ 64) (ho : 0x1000 ≤ s.args.y)
    (h : (s.fn s.args.x).part = none ∨ 0x2000 ≤ s.args.y) :
    exec .registerWrite s = .next s ∧ (s.sys.booted = true → s.readBar s.args.x s.args.y = 0) := by
  have nowhere := s.barReg_none h1 h2 ho h
  refine ⟨execRegisterWrite_none h2 nowhere, fun booted => ?_⟩
  simp [State.readBar, booted, nowhere]

/-- Settles O52: each mailbox operation by what its run leaves, each register write by the register at its offset. -/
theorem supervisorEvents : Obligations.SupervisorEvents := by
  unfold Obligations.SupervisorEvents
  refine ⟨fun s => fwmboxSetPartition_sets, fun s => fwmboxBindFunction_binds, fun s l => fwmboxRecall_marks,
    fun s => fwmboxCarve_carves, fun s => fwmboxRemap_remaps, fun s => execFwmboxSetPartition_shadow, fun s op => fwmbox_unknown,
    fun s => s.mailDone_answers, fun s => ⟨registerWrite_hostatt, ?_, ?_, ?_, execRegisterWrite_connmat, ?_, ?_, ?_⟩⟩
  · exact fun k hk => registerWrite_pcqtail hk
  · exact fun k hk => registerWrite_evqbase hk
  · exact fun p hp => registerWrite_psvec hp
  · exact fun k _ => s.readReg_carve k
  · exact registerWrite_beyond
  · exact fun fn off booted => State.readBar_before booted fn off

end Sys2Proof.Machine
end

section
/-! ## Signals, and bring-up (R401, R403 to R405) -/

namespace Sys2Proof.Machine

open Sys2Proof.Claims

/-- A function that has been sent one record has the vector and the tail that `Raised` asks for. -/
theorem raised_of_signalled {s t : State} {type : Nat} (h : t.fn 0 = (s.fn 0).signalled type) : Raised s t type := by
  intro room
  rw [h, Fn.signalled_of_room _ _ room]
  exact ⟨rfl, rfl⟩

/-- Two records to a ring with room: the first is signalled, the second where there is room still. -/
theorem Fn.signalled_twice_msix (f : Fn) (type : Nat) (room : ringFull f.evqhead f.evqtail f.evqsize = false) :
    ∃ k, ((f.signalled type).signalled type).msix = f.msix ++ List.replicate (k + 1) (type - 1) := by
  have first : (f.signalled type).msix = f.msix ++ [type - 1] := by rw [f.signalled_of_room type room]
  rcases (f.signalled type).signalled_msix type with lost | taken
  · exact ⟨0, by rw [lost, first]; rfl⟩
  · exact ⟨1, by rw [taken, first, List.append_assoc]; rfl⟩

/-! ### Images (R403) -/

/-- An image may be accepted: its signature verifies, its version is not rolled back, and it is a root or a root runs. -/
def State.mayAccept (s : State) (i : FirmwareImage) : Bool :=
  Config.signatureValid (Config.sm3 i.bytes) i.sig && decide (Cells.get 0 s.sys.rollback i.slot ≤ i.version)
    && (i.slot == 0 || s.sys.images.any (·.slot == 0))

theorem State.acceptImage_eq (s : State) (i : FirmwareImage) :
    s.acceptImage i = if s.mayAccept i then
      { s with sys := { s.sys with images := s.sys.images.filter (fun k => k.slot != i.slot) ++ [i],
                                   rollback := Cells.set 0 s.sys.rollback i.slot i.version } } else s := by
  unfold State.mayAccept
  rw [Bool.and_comm, ← Bool.and_assoc]
  rfl

theorem State.acceptImage_powered (s : State) (i : FirmwareImage) : (s.acceptImage i).sys.powered = s.sys.powered := by
  rw [State.acceptImage_eq]
  split <;> rfl

/-! ### The attestation key (R404) -/

theorem State.makeKey_eq (s : State) : s.makeKey = { s with free := s.makeKey.free, sys := { s.sys with attKey := s.makeKey.sys.attKey } } := by
  unfold State.makeKey
  split <;> rfl

theorem State.makeKey_of_key {s : State} (h : s.sys.attKey.isSome = true) : s.makeKey = s := if_pos h

theorem State.makeKey_new {s : State} (h : s.sys.attKey = none) : ∃ d, s.makeKey.sys.attKey = some (d, Config.attestPublic d) := by
  simp [State.makeKey, h]

/-! ### The configuration (R386, R396, R405) -/

theorem State.retireQuad_retired (s : State) (n m : Nat) :
    ((s.retireQuad n).quad m).retired = (decide (m = n) || (s.quad m).retired) := by
  unfold State.retireQuad
  dsimp only
  split
  · by_cases h : m = n <;> simp_all
  · show ((State.setQuad s n _).quad m).retired = _
    rw [State.quad_setQuad]
    by_cases h : m = n <;> simp [h]

/-- Retired quads stay retired, and each of a list is. -/
theorem State.retireQuads_retired (l : List Nat) (s : State) (m : Nat) :
    ((l.foldl State.retireQuad s).quad m).retired = (decide (m ∈ l) || (s.quad m).retired) := by
  induction l generalizing s with
  | nil => simp
  | cons n l ih =>
    rw [List.foldl_cons, ih, State.retireQuad_retired]
    simp only [List.mem_cons, Bool.decide_or, Bool.or_assoc, Bool.or_left_comm]

/-- Retiring a quad counts it, and changes nothing else. -/
theorem State.retireQuad_eq (s : State) (n : Nat) :
    s.retireQuad n = { s with quads := (s.retireQuad n).quads, sys := { s.sys with life := (s.retireQuad n).sys.life } } := by
  unfold State.retireQuad
  dsimp only
  split <;> rfl

theorem State.retireQuads_eq (l : List Nat) (s : State) :
    l.foldl State.retireQuad s = { s with quads := (l.foldl State.retireQuad s).quads,
                                          sys := { s.sys with life := (l.foldl State.retireQuad s).sys.life } } := by
  induction l generalizing s with
  | nil => rfl
  | cons n l ih => rw [List.foldl_cons, ih, State.retireQuad_eq]

/-- The write to a die's CCARVE that a carve-out asks for, where it names the die. -/
def State.carveBy (units : List Nat) (s : State) (d : Nat) : State :=
  match units[d]? with
  | some u => s.carve d (u % 16)
  | none => s

theorem State.carveBy_eq (units : List Nat) (s : State) (d : Nat) :
    s.carveBy units d = { s with sys := { s.sys with dies := (s.carveBy units d).sys.dies } } := by
  unfold State.carveBy
  split
  · obtain ⟨_, h, -⟩ := s.carve_eq d _
    rw [h]
    rfl
  · rfl

theorem State.carvesBy_eq (units l : List Nat) (s : State) :
    l.foldl (State.carveBy units) s = { s with sys := { s.sys with dies := (l.foldl (State.carveBy units) s).sys.dies } } := by
  induction l generalizing s with
  | nil => rfl
  | cons d l ih => rw [List.foldl_cons, ih, State.carveBy_eq]

theorem State.carveBy_target (units : List Nat) (s : State) (d e : Nat) :
    ((s.carveBy units d).die e).target = if e = d then (units[d]?.map (· % 16)).getD (s.die d).target else (s.die e).target := by
  unfold State.carveBy
  split
  next h => rw [State.carve_target, h]; rfl
  next h => rw [h]; split <;> simp_all

/-- A configuration applied but for its carve-out. -/
def State.remapped (s : State) (i : FirmwareImage) : State :=
  let r := ((Config.retireList i.body).filter (· < 256)).foldl State.retireQuad s
  { r with sys := { r.sys with remaps := r.sys.remaps ++ Config.remapList i.body } }

theorem State.configure_carves (s : State) (i : FirmwareImage) :
    s.configure i = (List.range 8).foldl (State.carveBy (Config.carveOut i.body)) (s.remapped i) := rfl

/-- A configuration changes quads, dies, the remapped banks and the count of retired quads. -/
theorem State.configure_eq (s : State) (i : FirmwareImage) :
    s.configure i = { s with quads := (s.configure i).quads,
                             sys := { s.sys with life := (s.configure i).sys.life, dies := (s.configure i).sys.dies,
                                                 remaps := s.sys.remaps ++ Config.remapList i.body } } := by
  rw [State.configure_carves, State.carvesBy_eq, State.remapped, State.retireQuads_eq]

theorem State.configure_retired (s : State) (i : FirmwareImage) (n : Nat) (h : n ∈ Config.retireList i.body) (hn : n < 256) :
    ((s.configure i).quad n).retired = true := by
  rw [State.configure_carves, State.carvesBy_eq]
  show ((((Config.retireList i.body).filter (· < 256)).foldl State.retireQuad s).quad n).retired = true
  rw [State.retireQuads_retired]
  simp [h, hn]

theorem State.configure_target (s : State) (i : FirmwareImage) (d units : Nat) (hd : d < 8)
    (h : (Config.carveOut i.body)[d]? = some units) : ((s.configure i).die d).target = units % 16 := by
  have carved := foldl_pointwise (fun s d => (State.die s d).target) (State.carveBy (Config.carveOut i.body))
    (fun d old => ((Config.carveOut i.body)[d]?.map (· % 16)).getD old) (fun s d e => s.carveBy_target _ d e)
    (List.range 8) List.nodup_range (s.remapped i) d
  rw [if_pos (List.mem_range.2 hd), h] at carved
  exact carved

/-! ### Power-on (R403 to R405) -/

/-- The package as its power comes on. -/
def State.energized (s : State) : State :=
  { s with sys := { s.sys with powered := true, booted := false, filter := [], log := [], logSeq := 0 } }

/-- The configuration image that runs is applied, where there is one. -/
def State.applyConfig (s : State) : State :=
  match s.sys.config with
  | some i => s.configure i
  | none => s

/-- Bring-up takes the images in turn, makes the key of first boot, and applies the configuration. -/
theorem execPowerOn_eq {s : State} {l : List FirmwareImage} (h : s.sys.powered = false)
    (hl : (s.args.images.partition (·.slot == 0)).1 ++ (s.args.images.partition (·.slot == 0)).2 = l) :
    execPowerOn s = .next (l.foldl State.acceptImage s.energized).makeKey.applyConfig := by
  subst hl
  unfold execPowerOn
  rw [h]
  rfl

theorem execPowerOn_no_image {s : State} (h : s.sys.powered = false) (hi : s.args.images = []) :
    execPowerOn s = .next s.energized.makeKey.applyConfig := execPowerOn_eq (l := []) h (by rw [hi]; rfl)

theorem execPowerOn_one_image {s : State} {i : FirmwareImage} (h : s.sys.powered = false) (hi : s.args.images = [i]) :
    execPowerOn s = .next (s.energized.acceptImage i).makeKey.applyConfig := by
  refine execPowerOn_eq (l := [i]) h ?_
  rw [hi]
  by_cases root : i.slot = 0 <;> simp [root]

/-- The key of first boot leaves the images, their rollback counts and the power as they are. -/
theorem State.makeKey_keeps (s : State) : s.makeKey.sys.images = s.sys.images ∧
    s.makeKey.sys.rollback = s.sys.rollback ∧ s.makeKey.sys.powered = s.sys.powered := by
  rw [State.makeKey_eq]
  exact ⟨rfl, rfl, rfl⟩

theorem State.makeKey_config (s : State) : s.makeKey.sys.config = s.sys.config := by
  rw [State.makeKey_eq]
  rfl

theorem State.applyConfig_none {s : State} (h : s.sys.config = none) : s.applyConfig = s := by
  simp [State.applyConfig, h]

theorem State.applyConfig_some {s : State} {i : FirmwareImage} (h : s.sys.config = some i) : s.applyConfig = s.configure i := by
  simp [State.applyConfig, h]

/-- What a configuration says leaves the images, their rollback counts and the power as they are. -/
theorem State.applyConfig_keeps (s : State) : s.applyConfig.sys.images = s.sys.images ∧
    s.applyConfig.sys.rollback = s.sys.rollback ∧ s.applyConfig.sys.powered = s.sys.powered := by
  unfold State.applyConfig
  split
  · rw [State.configure_eq]
    exact ⟨rfl, rfl, rfl⟩
  · exact ⟨rfl, rfl, rfl⟩

theorem powerOn_configures {s : State} {i : FirmwareImage} (h : s.sys.powered = false) (hi : s.args.images = [])
    (hc : s.sys.config = some i) :
    ∃ t, exec .powerOn s = .next t ∧ t.sys.remaps = s.sys.remaps ++ Config.remapList i.body ∧
      (∀ n ∈ Config.retireList i.body, n < 256 → (t.quad n).retired = true) ∧
      (∀ d units, d < 8 → (Config.carveOut i.body)[d]? = some units → (s.die d).goal = (s.die d).cur →
        (s.die d).cur ≤ units % 16 → units % 16 ≤ 4 → (t.die d).target = units % 16) := by
  have applied : s.energized.makeKey.applyConfig = s.energized.makeKey.configure i :=
    State.applyConfig_some ((State.makeKey_config _).trans hc)
  refine ⟨_, (execPowerOn_no_image h hi).trans (by rw [applied]), ?_, fun n hn => State.configure_retired _ i n hn,
    fun d units hd hu _ _ _ => State.configure_target _ i d units hd hu⟩
  rw [State.configure_eq, State.makeKey_eq]
  rfl

theorem powerOn_later {s : State} (h : s.sys.powered = false) (hi : s.args.images = []) (hc : s.sys.config = none)
    (key : s.sys.attKey.isSome = true) : exec .powerOn s
      = .next { s with sys := { s.sys with powered := true, booted := false, filter := [], log := [], logSeq := 0 } } := by
  have kept : s.energized.makeKey = s.energized := State.makeKey_of_key key
  have none : s.energized.applyConfig = s.energized := State.applyConfig_none hc
  exact (execPowerOn_no_image h hi).trans (by rw [kept, none]; rfl)

theorem powerOn_first {s : State} (h : s.sys.powered = false) (hi : s.args.images = []) (hc : s.sys.config = none)
    (key : s.sys.attKey = none) :
    ∃ t d, exec .powerOn s = .next t ∧ t.sys.attKey = some (d, Config.attestPublic d) := by
  obtain ⟨d, made⟩ := State.makeKey_new (s := s.energized) key
  have none : s.energized.makeKey.applyConfig = s.energized.makeKey :=
    State.applyConfig_none ((State.makeKey_config _).trans hc)
  exact ⟨_, d, (execPowerOn_no_image h hi).trans (by rw [none]), made⟩

theorem powerOn_image {s : State} {i : FirmwareImage} (h : s.sys.powered = false) (hi : s.args.images = [i]) :
    ∃ t, exec .powerOn s = .next t ∧ t.sys.powered = true ∧
      (s.mayAccept i = true → i ∈ t.sys.images ∧ Cells.get 0 t.sys.rollback i.slot = i.version) ∧
      (s.mayAccept i = false → t.sys.images = s.sys.images ∧ t.sys.rollback = s.sys.rollback) := by
  obtain ⟨images, rollback, powered⟩ := State.makeKey_keeps (s.energized.acceptImage i)
  obtain ⟨images', rollback', powered'⟩ := State.applyConfig_keeps (s.energized.acceptImage i).makeKey
  have taken := State.acceptImage_eq s.energized i
  refine ⟨_, execPowerOn_one_image h hi, powered'.trans (powered.trans (State.acceptImage_powered ..)), fun good => ?_, fun bad => ?_⟩
  · rw [images', images, rollback', rollback, taken, if_pos (by exact good)]
    exact ⟨List.mem_append_right _ (List.mem_singleton_self i), Cells.get_set_same 0 s.sys.rollback i.slot i.version⟩
  · have refused : ¬ s.energized.mayAccept i = true := Bool.eq_false_iff.1 bad
    rw [images', images, rollback', rollback, taken, if_neg refused]
    exact ⟨rfl, rfl⟩

theorem bringUpComplete_boots {s : State} (h : s.sys.powered = true) :
    exec .bringUpComplete s = .next { s with sys := { s.sys with booted := true } } := by
  show execBringUpComplete s = _
  rw [execBringUpComplete, if_pos h]

theorem attestationRequest_signs {s : State} {d : BitVec 256} {q : BitVec 512} (h : s.sys.attKey = some (d, q)) :
    exec .attestationRequest s
      = .next { s with sys := { s.sys with attest := Config.sign d (s.sys.images.flatMap (fun i => Config.sm3 i.bytes)) } } := by
  show execAttestationRequest s = _
  rw [execAttestationRequest, h]

end Sys2Proof.Machine
end

section
/-! ## The power arbiter and the thermal machine (R407, R408) -/

namespace Sys2Proof.Machine

open Sys2Proof.Claims

/-! ### The power arbiter (R407) -/

/-- What a draw changes of the system: its excursion and the calm after one. -/
theorem System.drew_eq {y z : System} {now watts : Nat} (h : y.drew now watts = some z) :
    z = { y with excursion := z.excursion, calmUntil := z.calmUntil } := by
  unfold System.drew at h
  dsimp only at h
  repeat' split at h
  all_goals cases h
  all_goals rfl

/-- A draw within the budget ends an excursion. -/
theorem System.drew_within {y : System} {now watts : Nat} (h : watts ≤ y.pbudget) :
    ∃ z, y.drew now watts = some z ∧ z.excursion = none ∧
      ∀ b, y.excursion = some b → z.calmUntil = y.arbiter + 9 * (y.arbiter - b) := by
  unfold System.drew
  rw [if_pos h]
  split
  next b begun => exact ⟨_, rfl, rfl, fun c hc => by rw [begun] at hc; cases hc; rfl⟩
  next calm => exact ⟨_, rfl, calm, fun c hc => by rw [calm] at hc; cases hc⟩

/-- An excursion goes on for at most 1 ms. -/
theorem System.drew_on {y : System} {now watts b : Nat} (h : y.pbudget < watts) (bound : watts ≤ 4000) (begun : y.excursion = some b) :
    y.drew now watts = if now ≤ b + 1000000 then some { y with excursion := some b } else none := by
  have : ¬ watts ≤ y.pbudget := by omega
  have : ¬ 4000 < watts := by omega
  by_cases hb : now ≤ b + 1000000
  · have : ¬ b + 1000000 < now := by omega
    simp [System.drew, *]
  · have : b + 1000000 < now := by omega
    simp [System.drew, *]

/-- None begins in the calm after one. -/
theorem System.drew_calm {y : System} {now watts : Nat} (h : y.pbudget < watts) (idle : y.excursion = none)
    (calm : y.arbiter < y.calmUntil) : y.drew now watts = none := by
  have : ¬ watts ≤ y.pbudget := by omega
  simp [System.drew, *]

theorem System.drew_begins {y : System} {now watts : Nat} (h : y.pbudget < watts) (bound : watts ≤ 4000) (idle : y.excursion = none)
    (calm : y.calmUntil ≤ y.arbiter) (hn : now ≤ y.arbiter + 1000000) :
    y.drew now watts = some { y with excursion := some y.arbiter } := by
  have : ¬ watts ≤ y.pbudget := by omega
  have : ¬ 4000 < watts := by omega
  have : ¬ y.arbiter + 1000000 < now := by omega
  have : ¬ y.arbiter < y.calmUntil := by omega
  simp [System.drew, *]

theorem System.drew_beyond {y : System} {now watts : Nat} (h : y.pbudget < watts) (beyond : 4000 < watts) :
    y.drew now watts = none := by
  have : ¬ watts ≤ y.pbudget := by omega
  simp [System.drew, *]

/-- A period of the arbiter is due, with shares within the budget. -/
def State.periodDue (s : State) : Prop :=
  s.sys.arbiter + 10000 ≤ s.time ∧ ((List.range 8).map (fun d => s.args.nats.getD d 0)).foldl (· + ·) 0 ≤ s.sys.pbudget

/-- A die after a period, by its share and the event's clocks and temperatures. -/
def Die.granted (x : Die) (share : Nat) (nats : List Nat) (d : Nat) : Die :=
  let w := x.warmed (nats.getD (16 + d) x.temp)
  { w with share, clock := w.clocked (nats.getD (8 + d) w.clock) }

@[simp] theorem Die.warmed_hot (x : Die) (t : Nat) : (x.warmed t).hot = x.hot := by
  unfold Die.warmed
  repeat' split
  all_goals rfl

@[simp] theorem Die.warmed_clock (x : Die) (t : Nat) : (x.warmed t).clock = x.clock := by
  unfold Die.warmed
  repeat' split
  all_goals rfl

theorem Die.granted_clock (x : Die) (share : Nat) (nats : List Nat) (d : Nat) :
    (x.granted share nats d).clock = if x.hot then 16 else max 16 (min 32 (min (nats.getD (8 + d) x.clock) (x.clock + 1))) := by
  simp [Die.granted, Die.clocked]

/-- The arbiter's grant to one die. -/
def State.grantDie (share : Nat → Nat) (s : State) (d : Nat) : State := s.setDie d ((s.die d).granted (share d) s.args.nats d)

theorem State.grantDie_reads (share : Nat → Nat) (s : State) (d e : Nat) :
    ((s.grantDie share d).args, (s.grantDie share d).die e)
      = if e = d then (s.args, (s.die d).granted (share d) s.args.nats d) else (s.args, s.die e) := by
  unfold State.grantDie
  rw [State.die_setDie]
  split <;> rfl

theorem State.grantDies_die (share : Nat → Nat) (s : State) (e : Nat) (he : e < 8) :
    ((List.range 8).foldl (State.grantDie share) s).die e = (s.die e).granted (share e) s.args.nats e := by
  have each := foldl_pointwise (fun s d => (State.args s, State.die s d)) (State.grantDie share)
    (fun d p => (p.1, p.2.granted (share d) p.1.nats d)) (State.grantDie_reads share) (List.range 8) List.nodup_range s e
  rw [if_pos (List.mem_range.2 he), Prod.mk.injEq] at each
  exact each.2

/-- Grants change the dies alone. -/
theorem State.grantDies_eq (share : Nat → Nat) (l : List Nat) (s : State) :
    l.foldl (State.grantDie share) s
      = { s with sys := { s.sys with dies := (l.foldl (State.grantDie share) s).sys.dies } } := by
  induction l generalizing s with
  | nil => rfl
  | cons d l ih => rw [List.foldl_cons, ih]; rfl

/-- The seconds that a period counts at a die's temperature (R397). -/
def State.countTemp (s : State) (d : Nat) : State := s.count (600 + min 15 (((s.die d).temp - 30) / 5)) s.args.y

/-- What a period counts: the energy, the time, and the dies' temperatures (R397). -/
def State.counted (s : State) : State := (List.range 8).foldl State.countTemp ((s.count 504 s.args.value2.toNat).count 0 s.args.y)

/-- Counting changes lifetime counters alone. -/
def Counted (s t : State) : Prop := t = { s with sys := { s.sys with life := t.sys.life } }

theorem Counted.trans {s t u : State} (h : Counted s t) (k : Counted t u) : Counted s u := by
  unfold Counted at *
  rw [k, h]

theorem State.count_counted (s : State) (k n : Nat) : Counted s (s.count k n) := rfl

theorem State.counted_counted (s : State) : Counted s s.counted := by
  have temps : ∀ (l : List Nat) (u : State), Counted u (l.foldl State.countTemp u) := by
    intro l
    induction l with
    | nil => exact fun u => rfl
    | cons d l ih => exact fun u => (u.count_counted _ _).trans (ih _)
  exact ((s.count_counted _ _).trans (State.count_counted _ _ _)).trans (temps _ _)

theorem State.counted_sys (s : State) : s.counted.sys = { s.sys with life := s.counted.sys.life } := by
  rw [s.counted_counted]

theorem State.counted_die (s : State) (d : Nat) : s.counted.die d = s.die d := by
  unfold State.die
  rw [s.counted_counted]

theorem State.counted_fn (s : State) (k : Nat) : s.counted.fn k = s.fn k := by
  unfold State.fn
  rw [s.counted_counted]

/-- An excursion that begins is counted and signalled (R401). -/
def State.alarmed (s : State) (began : Bool) : State :=
  if began then (s.count 505 1).event 0 8 0 s.args.value.toNat else s

theorem State.alarmed_sys (s : State) (began : Bool) :
    (s.alarmed began).sys = { s.sys with life := (s.alarmed began).sys.life } := by
  unfold State.alarmed
  split
  · rw [State.event_sys]
    rfl
  · rfl

theorem State.alarmed_die (s : State) (began : Bool) (d : Nat) : (s.alarmed began).die d = s.die d := by
  rw [State.die, State.alarmed_sys]
  rfl

theorem State.alarmed_fn (s : State) (began : Bool) :
    (s.alarmed began).fn 0 = if began then (s.fn 0).signalled 8 else s.fn 0 := by
  unfold State.alarmed
  split
  · rw [State.event_fn]
    rfl
  · rfl

/-- The dies granted their shares, in a period whose draw leaves the system `y`. -/
def State.sharedOut (s : State) (y : System) : State :=
  (List.range 8).foldl (State.grantDie (fun d => s.args.nats.getD d 0)) { s with sys := { y with arbiter := s.time } }

/-- Granting the shares leaves the draw's system but for the dies, and the moment of the grant. -/
theorem State.sharedOut_eq (s : State) (y : System) :
    s.sharedOut y = { s with sys := { y with arbiter := s.time, dies := (s.sharedOut y).sys.dies } } := by
  rw [State.sharedOut, State.grantDies_eq]

theorem State.sharedOut_die {s : State} {y : System} (same : y.dies = s.sys.dies) {d : Nat} (hd : d < 8) :
    (s.sharedOut y).die d = (s.die d).granted (s.args.nats.getD d 0) s.args.nats d := by
  rw [State.sharedOut, State.grantDies_die _ _ d hd]
  show (Cells.get {} y.dies d).granted _ _ d = _
  rw [same]
  rfl

/-- A period that may be grants each die its share, then signals an excursion that begins, and counts. -/
theorem execPowerArbiterPeriod_eq {s : State} {y : System} (due : s.periodDue)
    (h : s.sys.drew s.time s.args.value.toNat = some y) :
    execPowerArbiterPeriod s = .next ((s.sharedOut y).alarmed (s.sys.excursion.isNone && y.excursion.isSome)).counted := by
  obtain ⟨elapsed, shared⟩ := due
  unfold execPowerArbiterPeriod
  dsimp only
  rw [if_neg (by simp only [Bool.or_eq_true, decide_eq_true_eq]; omega), h]
  rfl

/-- After it the dies have what they were granted, and the excursion and its calm are those of the draw. -/
theorem powerArbiterPeriod_grants {s : State} {y : System} (due : s.periodDue)
    (h : s.sys.drew s.time s.args.value.toNat = some y) :
    ∃ t, exec .powerArbiterPeriod s = .next t ∧ t.sys.arbiter = s.time ∧ t.sys.excursion = y.excursion ∧
      t.sys.calmUntil = y.calmUntil ∧ (∀ d, d < 8 → t.die d = (s.die d).granted (s.args.nats.getD d 0) s.args.nats d) ∧
      t.fn 0 = if s.sys.excursion.isNone && y.excursion.isSome then (s.fn 0).signalled 8 else s.fn 0 := by
  have same : y.dies = s.sys.dies := by rw [System.drew_eq h]
  refine ⟨_, execPowerArbiterPeriod_eq due h, ?_, ?_, ?_, fun d hd => ?_, ?_⟩
  · rw [State.counted_sys, State.alarmed_sys, State.sharedOut_eq]
  · rw [State.counted_sys, State.alarmed_sys, State.sharedOut_eq]
  · rw [State.counted_sys, State.alarmed_sys, State.sharedOut_eq]
  · rw [State.counted_die, State.alarmed_die, State.sharedOut_die same hd]
  · rw [State.counted_fn, State.alarmed_fn, State.sharedOut_eq]
    rfl

theorem powerArbiterPeriod_held {s : State} (h : s.sys.drew s.time s.args.value.toNat = none) :
    exec .powerArbiterPeriod s = .next s := by
  show execPowerArbiterPeriod s = _
  unfold execPowerArbiterPeriod
  dsimp only
  rw [h]
  split <;> rfl

theorem powerArbiterPeriod_within {s : State} (due : s.periodDue) (h : s.args.value.toNat ≤ s.sys.pbudget) :
    ∃ t, exec .powerArbiterPeriod s = .next t ∧ t.sys.arbiter = s.time ∧ t.sys.excursion = none ∧
      ∀ d, d < 8 → (t.die d).share = s.args.nats.getD d 0 ∧
        (t.die d).clock = (if (s.die d).hot then 16
          else max 16 (min 32 (min (s.args.nats.getD (8 + d) (s.die d).clock) ((s.die d).clock + 1)))) := by
  obtain ⟨y, drew, ended, -⟩ := System.drew_within (now := s.time) h
  obtain ⟨t, ran, arbiter, excursion, -, dies, -⟩ := powerArbiterPeriod_grants due drew
  refine ⟨t, ran, arbiter, excursion.trans ended, fun d hd => ?_⟩
  rw [dies d hd]
  exact ⟨rfl, Die.granted_clock ..⟩

theorem powerArbiterPeriod_calms {s : State} (due : s.periodDue) (b : Nat) (h : s.args.value.toNat ≤ s.sys.pbudget)
    (begun : s.sys.excursion = some b) :
    ∃ t, exec .powerArbiterPeriod s = .next t ∧ t.sys.calmUntil = s.sys.arbiter + 9 * (s.sys.arbiter - b) := by
  obtain ⟨y, drew, -, calm⟩ := System.drew_within (now := s.time) h
  obtain ⟨t, ran, -, -, calmed, -⟩ := powerArbiterPeriod_grants due drew
  exact ⟨t, ran, calmed.trans (calm b begun)⟩

theorem powerArbiterPeriod_goes_on {s : State} (due : s.periodDue) (b : Nat) (h : s.sys.pbudget < s.args.value.toNat)
    (bound : s.args.value.toNat ≤ 4000) (begun : s.sys.excursion = some b) :
    (s.time ≤ b + 1000000 → ∃ t, exec .powerArbiterPeriod s = .next t ∧ t.sys.excursion = some b ∧ t.sys.arbiter = s.time ∧
      (t.fn 0).msix = (s.fn 0).msix) ∧
    (b + 1000000 < s.time → exec .powerArbiterPeriod s = .next s) := by
  have drew := System.drew_on (now := s.time) h bound begun
  refine ⟨fun short => ?_, fun long => ?_⟩
  · rw [if_pos short] at drew
    obtain ⟨t, ran, arbiter, excursion, -, -, quiet⟩ := powerArbiterPeriod_grants due drew
    refine ⟨t, ran, excursion, arbiter, ?_⟩
    rw [quiet, begun]
    rfl
  · rw [if_neg (by omega)] at drew
    exact powerArbiterPeriod_held drew

theorem powerArbiterPeriod_begins {s : State} (due : s.periodDue) (h : s.sys.pbudget < s.args.value.toNat)
    (bound : s.args.value.toNat ≤ 4000) (idle : s.sys.excursion = none) (calm : s.sys.calmUntil ≤ s.sys.arbiter)
    (hn : s.time ≤ s.sys.arbiter + 1000000) :
    ∃ t, exec .powerArbiterPeriod s = .next t ∧ t.sys.arbiter = s.time ∧ t.sys.excursion = some s.sys.arbiter ∧ Raised s t 8 := by
  obtain ⟨t, ran, arbiter, excursion, -, -, signalled⟩ :=
    powerArbiterPeriod_grants due (System.drew_begins h bound idle calm hn)
  rw [idle] at signalled
  exact ⟨t, ran, arbiter, excursion, raised_of_signalled signalled⟩

end Sys2Proof.Machine
end

section
/-! ## The thermal machine (R408) -/

namespace Sys2Proof.Machine

open Sys2Proof.Claims

/-! ### Throttling -/

theorem State.throttle_die (s : State) (n temp e : Nat) :
    (s.throttle n temp).die e = if e = n then { s.die n with temp, clock := 16, hot := true } else s.die e := by
  rw [State.throttle, State.event_die, State.die_setDie]

theorem State.throttle_fn (s : State) (n temp : Nat) : (s.throttle n temp).fn 0 = (s.fn 0).signalled 8 := by
  rw [State.throttle, State.event_fn]
  rfl

theorem thermalThrottle_throttles {s : State} (h : 105 ≤ s.args.y) (cool : (s.die (s.args.x % 8)).hot = false) :
    ∃ t, exec .thermalThrottle s = .next t ∧
      t.die (s.args.x % 8) = { s.die (s.args.x % 8) with temp := s.args.y, clock := 16, hot := true } ∧ Raised s t 8 := by
  have ran : execThermalThrottle s = .next (s.throttle (s.args.x % 8) s.args.y) := by
    have : ¬ s.args.y < 105 := by omega
    simp [execThermalThrottle, this, cool]
  exact ⟨_, ran, by rw [State.throttle_die, if_pos rfl], raised_of_signalled (State.throttle_fn ..)⟩

theorem thermalUnthrottle_cools {s : State} (h : s.args.y < 100) (hot : (s.die (s.args.x % 8)).hot = true) :
    ∃ t, exec .thermalUnthrottle s = .next t ∧
      t.die (s.args.x % 8) = { s.die (s.args.x % 8) with temp := s.args.y, hot := false } := by
  have ran : execThermalUnthrottle s
      = .next (s.setDie (s.args.x % 8) { s.die (s.args.x % 8) with temp := s.args.y, hot := false }) := by
    have : ¬ 100 ≤ s.args.y := by omega
    simp [execThermalUnthrottle, this, hot]
  exact ⟨_, ran, by rw [State.die_setDie, if_pos rfl]⟩

/-! ### The stop -/

/-- A partition as its halt begins. -/
def Part.halting (p : Part) (time : Nat) (thermal : Bool) : Part :=
  { p with state := 2, haltAt := some time, haltedAt := none, thermal, watched := false, drained := [] }

theorem State.beginHalt_flashed (s : State) (n : Nat) (thermal : Bool) :
    Flashed (s.setPart n ((s.part n).halting s.time thermal)) (s.beginHalt n thermal) := State.haltTeams_flashed ..

theorem State.beginHalt_part (s : State) (n e : Nat) (thermal : Bool) :
    (s.beginHalt n thermal).part e = if e = n then (s.part n).halting s.time thermal else s.part e := by
  rw [(s.beginHalt_flashed n thermal).part, State.part_setPart]

/-- A halt of the thermal stop: the partition notes whether it was being swapped in. -/
def State.stopPart (s : State) (p : Nat) : State :=
  (s.beginHalt p true).setPart p
    { (s.beginHalt p true).part p with entering := (s.part p).entering || ((s.part p).state = 5 && !(s.part p).thermal) }

/-- A partition's PSTATE, and whether its halt is the thermal stop's. -/
def State.haltMark (s : State) (p : Nat) : Nat × Bool := ((s.part p).state, (s.part p).thermal)

theorem State.stopPart_haltMark (s : State) (p e : Nat) : (s.stopPart p).haltMark e = if e = p then (2, true) else s.haltMark e := by
  unfold State.stopPart State.haltMark
  rw [State.part_setPart, State.beginHalt_part, State.beginHalt_part, if_pos rfl]
  split <;> rfl

/-- What the halts of the thermal stop leave. -/
def State.fnsAndDies (s : State) : Cells Fn × Cells Die := (s.fns, s.sys.dies)

theorem State.stopPart_fnsAndDies (s : State) (p : Nat) : (s.stopPart p).fnsAndDies = s.fnsAndDies := by
  have halted := s.beginHalt_flashed p true
  exact Prod.ext halted.fns halted.dies

/-- A partition that is halting stays in the stop (R408). -/
def State.holdPart (s : State) (p : Nat) : State := s.setPart p { s.part p with thermal := true }

theorem State.holdPart_haltMark (s : State) (p e : Nat) :
    (s.holdPart p).haltMark e = if e = p then ((s.haltMark p).1, true) else s.haltMark e := by
  unfold State.holdPart State.haltMark
  rw [State.part_setPart]
  split <;> rfl

/-- Partitions of the package by a test on their registers. -/
def State.partsThat (s : State) (test : Part → Bool) : List Nat := (List.range 64).filter (fun p => test (s.part p))

theorem State.partsThat_nodup (s : State) (test : Part → Bool) : (s.partsThat test).Nodup := List.nodup_range.filter _

theorem State.mem_partsThat (s : State) (test : Part → Bool) (p : Nat) : p ∈ s.partsThat test ↔ p < 64 ∧ test (s.part p) = true := by
  simp [State.partsThat]

/-- Every partition that is resident or on its way in is halted. -/
def State.haltParts (s : State) : State := (s.partsThat (fun p => p.state = 1 || p.state = 5)).foldl State.stopPart s

/-- And every halt is held. -/
def State.stopParts (s : State) : State := (s.haltParts.partsThat (fun p => p.state = 2)).foldl State.holdPart s.haltParts

theorem State.stopParts_fnsAndDies (s : State) : s.stopParts.fnsAndDies = s.fnsAndDies :=
  (foldl_keeps State.fnsAndDies State.holdPart (fun _ _ => rfl) _ _).trans
    (foldl_keeps State.fnsAndDies State.stopPart State.stopPart_fnsAndDies _ s)

theorem State.stopParts_fn (s : State) (k : Nat) : s.stopParts.fn k = s.fn k :=
  congrArg (fun t : Cells Fn × Cells Die => Cells.get ({} : Fn) t.1 k) s.stopParts_fnsAndDies

theorem State.stopParts_die (s : State) (k : Nat) : s.stopParts.die k = s.die k :=
  congrArg (fun t : Cells Fn × Cells Die => Cells.get ({} : Die) t.2 k) s.stopParts_fnsAndDies

theorem State.haltParts_haltMark {s : State} {p : Nat} (hp : p < 64) (h : (s.part p).state = 1 ∨ (s.part p).state = 5) :
    s.haltParts.haltMark p = (2, true) := by
  have due : p ∈ s.partsThat (fun p => p.state = 1 || p.state = 5) := (s.mem_partsThat _ p).2 ⟨hp, by simpa using h⟩
  rw [State.haltParts, foldl_pointwise State.haltMark State.stopPart (fun _ _ => (2, true)) State.stopPart_haltMark _
    (s.partsThat_nodup _), if_pos due]

theorem State.stopParts_haltMark {s : State} {p : Nat} (hp : p < 64) (h : (s.part p).state = 1 ∨ (s.part p).state = 5) :
    s.stopParts.haltMark p = (2, true) := by
  rw [State.stopParts, foldl_pointwise State.haltMark State.holdPart (fun _ r => (r.1, true)) State.holdPart_haltMark _
    (State.partsThat_nodup ..), State.haltParts_haltMark hp h, ite_self]

/-- A die that reaches 115 °C, past 105 °C on its way where it was not throttled. -/
def State.overheated (s : State) : State :=
  let u := if (s.die (s.args.x % 8)).hot then s else s.throttle (s.args.x % 8) 105
  u.setDie (u.args.x % 8) { u.die (u.args.x % 8) with temp := u.args.y }

theorem State.throttle_args (s : State) (n temp : Nat) : (s.throttle n temp).args = s.args := by
  rw [State.throttle, State.event_eq]
  rfl

theorem State.overheated_fn (s : State) :
    s.overheated.fn 0 = if (s.die (s.args.x % 8)).hot then s.fn 0 else (s.fn 0).signalled 8 := by
  unfold State.overheated
  dsimp only
  rw [State.setDie_fn]
  split
  · rfl
  · exact s.throttle_fn ..

theorem State.overheated_part (s : State) (p : Nat) : s.overheated.part p = s.part p := by
  unfold State.overheated
  dsimp only
  rw [State.setDie_part]
  split
  · rfl
  · exact State.event_part ..

theorem State.overheated_die (s : State) : s.overheated.die (s.args.x % 8)
    = if (s.die (s.args.x % 8)).hot then { s.die (s.args.x % 8) with temp := s.args.y }
      else { s.die (s.args.x % 8) with temp := s.args.y, clock := 16, hot := true } := by
  unfold State.overheated
  dsimp only
  split
  · rw [State.die_setDie, if_pos rfl]
  · rw [State.throttle_args, State.die_setDie, if_pos rfl, State.throttle_die, if_pos rfl]

/-- The package at a stage of the thermal stop. -/
def State.heatTo (s : State) (h : Heat) : State := { s with sys := { s.sys with heat := h } }

@[simp] theorem State.heatTo_heat (s : State) (h : Heat) : (s.heatTo h).sys.heat = h := rfl
@[simp] theorem State.heatTo_fn (s : State) (h : Heat) (k : Nat) : (s.heatTo h).fn k = s.fn k := rfl
@[simp] theorem State.heatTo_part (s : State) (h : Heat) (k : Nat) : (s.heatTo h).part k = s.part k := rfl
@[simp] theorem State.heatTo_die (s : State) (h : Heat) (k : Nat) : (s.heatTo h).die k = s.die k := rfl

theorem execThermalStop_eq {s : State} (h : 115 ≤ s.args.y) (runs : s.sys.heat = .run) :
    execThermalStop s = .next ((s.overheated.stopParts.heatTo .halting).event 0 8 0 s.overheated.stopParts.args.y) := by
  have may : ¬ (decide (s.args.y < 115) || s.sys.heat != .run) = true := by
    have : ¬ s.args.y < 115 := by omega
    simp [this, runs]
  unfold execThermalStop
  rw [if_neg may]
  rfl

/-- What the stop leaves: the die's heat, the events sent, and the partitions halted. -/
theorem thermalStop_halts {s : State} (h : 115 ≤ s.args.y) (runs : s.sys.heat = .run) :
    ∃ t, exec .thermalStop s = .next t ∧ t.sys.heat = .halting ∧ t.die (s.args.x % 8) = s.overheated.die (s.args.x % 8) ∧
      t.fn 0 = (s.overheated.fn 0).signalled 8 ∧
      ∀ p, p < 64 → ((s.part p).state = 1 ∨ (s.part p).state = 5) → (t.part p).state = 2 ∧ (t.part p).thermal = true := by
  refine ⟨_, execThermalStop_eq h runs, by rw [State.event_sys, State.heatTo_heat], ?_, ?_, fun p hp due => ?_⟩
  · rw [State.event_die, State.heatTo_die, State.stopParts_die]
  · rw [State.event_fn, if_pos rfl, State.heatTo_fn, State.stopParts_fn]
  · rw [State.event_part, State.heatTo_part]
    rw [← s.overheated_part p] at due
    have marked := State.stopParts_haltMark hp due
    exact ⟨congrArg Prod.fst marked, congrArg Prod.snd marked⟩

theorem thermalStop_stops {s : State} (h : 115 ≤ s.args.y) (runs : s.sys.heat = .run) :
    ∃ t, exec .thermalStop s = .next t ∧ t.sys.heat = .halting ∧ (t.die (s.args.x % 8)).temp = s.args.y ∧
      ((s.die (s.args.x % 8)).hot = true → Raised s t 8) ∧
      ((s.die (s.args.x % 8)).hot = false → (t.die (s.args.x % 8)).clock = 16 ∧ (t.die (s.args.x % 8)).hot = true ∧
        (ringFull (s.fn 0).evqhead (s.fn 0).evqtail (s.fn 0).evqsize = false →
          ∃ k, (t.fn 0).msix = (s.fn 0).msix ++ List.replicate (k + 1) 7)) ∧
      ∀ p, p < 64 → ((s.part p).state = 1 ∨ (s.part p).state = 5) → (t.part p).state = 2 ∧ (t.part p).thermal = true := by
  obtain ⟨t, ran, heat, die, fn, parts⟩ := thermalStop_halts h runs
  rw [State.overheated_die] at die
  rw [State.overheated_fn] at fn
  refine ⟨t, ran, heat, ?_, fun hot => ?_, fun cool => ?_, parts⟩
  · rw [die]
    split <;> rfl
  · rw [if_pos hot] at fn
    exact raised_of_signalled fn
  · have cool : ¬ (s.die (s.args.x % 8)).hot = true := Bool.eq_false_iff.1 cool
    rw [if_neg cool] at fn die
    rw [fn, die]
    exact ⟨rfl, rfl, fun room => Fn.signalled_twice_msix _ 8 room⟩

/-! ### The stop's end -/

/-- A partition whose halt is complete stands still with the clocks (R408). -/
def State.stillPart (s : State) (p : Nat) : State := s.setPart p { s.part p with state := 6 }

/-- A partition that stood still reads 5 until SWAP_IN resumes it (R408). -/
def State.wakePart (s : State) (p : Nat) : State := s.setPart p { s.part p with state := 5 }

theorem State.stillPart_state (s : State) (p e : Nat) :
    ((s.stillPart p).part e).state = if e = p then 6 else (s.part e).state := by
  unfold State.stillPart
  rw [State.part_setPart]
  split <;> rfl

theorem State.wakePart_state (s : State) (p e : Nat) :
    ((s.wakePart p).part e).state = if e = p then 5 else (s.part e).state := by
  unfold State.wakePart
  rw [State.part_setPart]
  split <;> rfl

/-- Every partition whose halt is complete stands still. -/
def State.stillParts (s : State) : State := (s.partsThat (fun p => p.state = 2)).foldl State.stillPart s

theorem State.stillParts_state {s : State} {p : Nat} (hp : p < 64) (h : (s.part p).state = 2) :
    (s.stillParts.part p).state = 6 := by
  have due : p ∈ s.partsThat (fun p => p.state = 2) := (s.mem_partsThat _ p).2 ⟨hp, by simpa using h⟩
  rw [State.stillParts, foldl_pointwise (fun s p => (State.part s p).state) State.stillPart (fun _ _ => 6) State.stillPart_state _
    (s.partsThat_nodup _), if_pos due]

theorem thermalClockStop_stops {s : State} (halts : s.sys.heat = .halting)
    (complete : ∀ p, p < 64 → (s.part p).state = 2 → (s.part p).haltedAt.isSome = true) :
    ∃ t, exec .thermalClockStop s = .next t ∧ t.sys.heat = .stopped ∧
      ∀ p, p < 64 → (s.part p).state = 2 → (t.part p).state = 6 := by
  have may : ¬ (s.sys.heat != .halting || (List.range 64).any (fun p => (s.part p).state = 2 && (s.part p).haltedAt.isNone)) = true := by
    simpa [halts, Option.isSome_iff_ne_none] using complete
  have ran : execThermalClockStop s = .next (s.stillParts.heatTo .stopped) := by
    unfold execThermalClockStop
    rw [if_neg may]
    rfl
  exact ⟨_, ran, rfl, fun p hp due => State.stillParts_state hp due⟩

/-- A die as the package starts again (R408). -/
def State.restartDie (temp : Nat → Nat) (s : State) (d : Nat) : State :=
  s.setDie d { s.die d with temp := temp d, clock := 16, hot := false }

theorem State.restartDie_die (temp : Nat → Nat) (s : State) (d e : Nat) :
    (s.restartDie temp d).die e = if e = d then { s.die d with temp := temp d, clock := 16, hot := false } else s.die e :=
  State.die_setDie ..

/-- The dies as the package starts again. -/
def State.restartDies (s : State) (temp : Nat → Nat) : State := (List.range 8).foldl (State.restartDie temp) s

theorem State.restartDies_die (s : State) (temp : Nat → Nat) {d : Nat} (hd : d < 8) :
    (s.restartDies temp).die d = { s.die d with temp := temp d, clock := 16, hot := false } := by
  rw [State.restartDies, foldl_pointwise State.die (State.restartDie temp)
    (fun d x => { x with temp := temp d, clock := 16, hot := false }) (State.restartDie_die temp) _ List.nodup_range,
    if_pos (List.mem_range.2 hd)]

theorem State.restartDies_part (s : State) (temp : Nat → Nat) (p : Nat) : (s.restartDies temp).part p = s.part p :=
  foldl_keeps (fun s => State.part s p) (State.restartDie temp) (fun _ _ => rfl) _ s

theorem State.restartDies_fn (s : State) (temp : Nat → Nat) (k : Nat) : (s.restartDies temp).fn k = s.fn k :=
  foldl_keeps (fun s => State.fn s k) (State.restartDie temp) (fun _ _ => rfl) _ s

/-- Every partition that stood still reads 5. -/
def State.wakeParts (s : State) : State := (s.partsThat (fun p => p.state = 6)).foldl State.wakePart s

theorem State.wakeParts_state {s : State} {p : Nat} (hp : p < 64) (h : (s.part p).state = 6) : (s.wakeParts.part p).state = 5 := by
  have due : p ∈ s.partsThat (fun p => p.state = 6) := (s.mem_partsThat _ p).2 ⟨hp, by simpa using h⟩
  rw [State.wakeParts, foldl_pointwise (fun s p => (State.part s p).state) State.wakePart (fun _ _ => 5) State.wakePart_state _
    (s.partsThat_nodup _), if_pos due]

theorem State.wakeParts_sys (s : State) : s.wakeParts.sys = s.sys :=
  foldl_keeps State.sys State.wakePart (fun _ _ => rfl) _ s

theorem State.wakeParts_fn (s : State) (k : Nat) : s.wakeParts.fn k = s.fn k :=
  foldl_keeps (fun s => State.fn s k) State.wakePart (fun _ _ => rfl) _ s

theorem State.wakeParts_die (s : State) (d : Nat) : s.wakeParts.die d = s.die d :=
  congrArg (fun y : System => Cells.get ({} : Die) y.dies d) s.wakeParts_sys

theorem execThermalRestart_eq {s : State} (stopped : s.sys.heat = .stopped) (cool : ∀ d, d < 8 → s.args.nats.getD d 95 < 95) :
    execThermalRestart s = .next ((((s.restartDies (fun d => s.args.nats.getD d 95)).heatTo .run).wakeParts).event 0 8 0
      ((List.range 8).foldl (fun m d => max m (s.args.nats.getD d 95)) 0)) := by
  have may : ¬ (s.sys.heat != .stopped || (List.range 8).any (fun d => 95 ≤ s.args.nats.getD d 95)) = true := by
    simp only [stopped, bne_self_eq_false, Bool.false_or, List.any_eq_true, List.mem_range, decide_eq_true_eq, not_exists, not_and,
      Nat.not_le]
    exact cool
  unfold execThermalRestart
  dsimp only
  rw [if_neg may]
  rfl

theorem thermalRestart_starts {s : State} (stopped : s.sys.heat = .stopped) (cool : ∀ d, d < 8 → s.args.nats.getD d 95 < 95) :
    ∃ t, exec .thermalRestart s = .next t ∧ t.sys.heat = .run ∧ Raised s t 8 ∧
      (∀ p, p < 64 → (s.part p).state = 6 → (t.part p).state = 5) ∧
      ∀ d, d < 8 → (t.die d).clock = 16 ∧ (t.die d).hot = false ∧ (t.die d).temp = s.args.nats.getD d 95 := by
  refine ⟨_, execThermalRestart_eq stopped cool, ?_, raised_of_signalled ?_, fun p hp still => ?_, fun d hd => ?_⟩
  · rw [State.event_sys, State.wakeParts_sys, State.heatTo_heat]
  · rw [State.event_fn, if_pos rfl, State.wakeParts_fn, State.heatTo_fn, State.restartDies_fn]
  · rw [State.event_part]
    refine State.wakeParts_state hp ?_
    rw [State.heatTo_part, State.restartDies_part, still]
  · rw [State.event_die, State.wakeParts_die, State.heatTo_die, State.restartDies_die _ _ hd]
    exact ⟨rfl, rfl, rfl⟩

end Sys2Proof.Machine
end

section
/-! ## The statement about power and heat -/

namespace Sys2Proof.Machine

/-- Settles O54: bring-up by the steps that it is made of, a period by what the draw lets it do, and the thermal machine's events
by the folds over dies and partitions that they are. -/
theorem powerEvents : Obligations.PowerEvents := by
  unfold Obligations.PowerEvents
  refine ⟨fun s i => powerOn_configures, fun s h hi hc => ⟨powerOn_later h hi hc, powerOn_first h hi hc⟩, fun s i => powerOn_image,
    fun s => bringUpComplete_boots, fun s d q => attestationRequest_signs, fun s elapsed shared => ?_, fun s => thermalThrottle_throttles,
    fun s => thermalUnthrottle_cools, fun s => thermalStop_stops, fun s => thermalClockStop_stops, fun s => thermalRestart_starts⟩
  have due : s.periodDue := ⟨elapsed, shared⟩
  refine ⟨powerArbiterPeriod_within due, powerArbiterPeriod_calms due, powerArbiterPeriod_goes_on due, fun h idle calm => ?_,
    powerArbiterPeriod_begins due, fun h beyond => ?_⟩
  · exact powerArbiterPeriod_held (System.drew_calm h idle calm)
  · exact powerArbiterPeriod_held (System.drew_beyond h beyond)

end Sys2Proof.Machine
end
